-- ==== Sys2Proof/Syntax.lean ====
section
/-!
DEFINITION. The commands of the IL4816: one constructor of `Instr` per row of the table of operations and events.
An operand is what the command brings from outside the module (a host's or a peer's bytes, a measured value, which
fault struck) or names the object of State that the step is about (an item, a ring, a port).  What the step does with
it is in the machine alone.
-/

namespace Sys2Proof

/-- The fields of a Span transaction header (16 R347). -/
structure SpanHdr where
  opcode : Nat
  op : Nat
  channel : Nat
  hops : Nat
  resend : Bool
  src : Nat
  dst : Nat
  context : Nat
  queue : Nat
  seq : Nat
  length : Nat
  step : Nat
  address : Nat
deriving DecidableEq, Repr

/-- One received frame: its 30,840 message bytes and how many of its 48 codewords were corrected or could not be
(14 R302, R303, R306). -/
structure Frame where
  bytes : List Byte
  corrected : Nat
  uncorrectable : Nat
deriving DecidableEq, Repr

/-- One merge record as it arrives at a queue; `key` is a CLOSE record's count (10 R203, 16 R349). -/
structure MergeRec where
  src : Nat
  step : Nat
  fmt : Nat
  close : Bool
  keyed : Bool
  key : Nat
  seq : Nat
  payload : List Byte
deriving DecidableEq, Repr

/-- Where a not-present answer struck (12 R262, R270). -/
inductive FaultAt where
  | item (id : Nat)
  | stream (ctx slot : Nat)
  | resume (ctx halt : Nat)
deriving DecidableEq, Repr

/-- The units that R394 takes out of service. -/
inductive UnitKind where
  | compEngine (die : Nat)
  | bank (parapet bank : Nat)
  | core
  | die (d : Nat)
deriving DecidableEq, Repr

/-- The hub structures of R393. -/
inductive HubUnit where
  | scheduler | tollgate | mergeUnit | causeway
deriving DecidableEq, Repr

/-- Why a Pier is lost (18 R392). -/
inductive PierCause where
  | flags | scratchBank | portCheck | selfTest
deriving DecidableEq, Repr

/-- Why a channel or stack is lost (17 R382). -/
inductive DeckCause where
  | blocks | phy | bootTest | channels | sensor
deriving DecidableEq, Repr

/-- What forces Off (20 R444, R423, 21 R455). -/
inductive OffCause where
  | junction (quarters : Int) | reference | brownOut
deriving DecidableEq, Repr

/-- The commands, in the order of the table. -/
inductive Instr where
  | keystoneTick
  | correctionTick
  | timingFrameSend (port : Fin 8) (frac : Fin 64)
  | timingRecord (port : Fin 8) (record : BitVec 128) (frac : Fin 64) (replayed : Bool)
  | lockLost
  | parentTimeout
  | rootTimeout
  | launchGateOpen (item : Nat)
  | slotTableSwitch
  | lightMessage (src : Nat)
  | relaySend (pier off len : Nat)
  | deckReadData (pier entry block errBytes : Nat)
  | dispatch (pier : Nat)
  | itemCommit (item : Nat)
  | release (flow : Nat)
  | itemBudgetSkip (item : Nat)
  | recordBudgetQuarantine (item : Nat)
  | outsideTimeout (item : Nat)
  | sliceBoundary (ctx : Nat)
  | swapIn
  | blockedRingAccept (ctx ring : Nat)
  | cellWaitRelease (item : Nat)
  | decodeAvro (item : Nat)
  | decodeIrc (item : Nat)
  | project (item : Nat)
  | filter (item : Nat)
  | hash (item : Nat)
  | bucket (item : Nat)
  | cross (item : Nat)
  | norm (item : Nat)
  | clip (item : Nat)
  | partition (item : Nat)
  | joinBuild (item : Nat)
  | joinProbe (item : Nat)
  | groupAgg (item : Nat)
  | sort (item : Nat)
  | unique (item : Nat)
  | topk (item : Nat)
  | selMerge (item : Nat)
  | countMatch (item : Nat)
  | parapetUpdate (item : Nat)
  | parapetApply (item : Nat)
  | gather (item : Nat)
  | gatherPool (item : Nat)
  | scatterMerge (item : Nat)
  | rowApply (item : Nat)
  | convert (item : Nat)
  | quant (item : Nat)
  | copyLayout (item : Nat)
  | storeFused (item : Nat)
  | compress (item : Nat)
  | decompress (item : Nat)
  | digest (item : Nat)
  | put (item : Nat)
  | get (item : Nat)
  | atomic (item : Nat)
  | signal (item : Nat)
  | wait (item : Nat)
  | migrate (ctx ring : Nat)
  | migrationDrainDone (mig : Nat)
  | migrationFlip (mig : Nat)
  | migrationFree (mig : Nat)
  | migrationAbandon (mig : Nat)
  | tableSwitch (ctx ring : Nat)
  | versionRetire (ver : Nat)
  | mergeRecord (ctx queue : Nat) (rec : MergeRec)
  | stepFinalise (ctx queue : Nat)
  | journalFrameAck (ctx frame : Nat)
  | journalSpaceFreed (ctx : Nat)
  | applySlotCopy (item : Nat)
  | versionCommit (ctx ring : Nat)
  | backingWriteRetry (acc : Nat)
  | chainInstall (ctx ring : Nat)
  | chainRemove (ctx ring : Nat)
  | flowOpen (ctx ring : Nat)
  | flowClose (ctx ring : Nat)
  | rangeAdd (ctx ring : Nat)
  | rangeRemove (ctx ring : Nat)
  | tensorCreate (ctx ring : Nat)
  | tensorDestroy (ctx ring : Nat)
  | streamArm (ctx ring : Nat)
  | streamResume (ctx ring : Nat)
  | streamCancel (ctx ring : Nat)
  | streamBlockDispatch (ctx slot pier : Nat)
  | streamBlockDelivered (ctx slot : Nat)
  | pageFault (target : FaultAt)
  | cacheInvalidate (ctx ring : Nat)
  | mergeQueueCreate (ctx ring : Nat)
  | mergeQueueDestroy (ctx ring : Nat)
  | mergeQueueSet (ctx ring : Nat)
  | parapetSetCreate (ctx ring : Nat)
  | parapetSetDestroy (ctx ring : Nat)
  | submit (ctx ring : Nat)
  | descriptorFetch (ctx ring : Nat)
  | dependenceTimeout (ctx ring : Nat)
  | completionWrite (ctx ring : Nat)
  | statusWordWrite (ctx ring : Nat)
  | msgWake (ctx ring : Nat)
  | hostReadRetry (acc : Nat)
  | hostWriteRetry (acc : Nat)
  | submissionTail (ctx ring value : Nat)
  | completionHead (ctx ring value : Nat)
  | quarantineLogHead (ctx value : Nat)
  | haltLogHead (ctx value : Nat)
  | eventTraceHead (ctx value : Nat)
  | create
  | destroy
  | pause
  | resume
  | ts1 (port : Fin 9) (lane : Nat) (set : List Byte)
  | ts2 (port : Fin 9) (lane : Nat) (set : List Byte)
  | trainingStateExit (port : Fin 9) (lanes : List Nat)
  | trainingStateTimeout (port : Fin 9)
  | linkDownRetry (port : Fin 9)
  | normal (port : Fin 9) (frame : Frame)
  | replayRequest (port : Fin 9) (frame : Frame)
  | retrain (port : Fin 9)
  | napRequest
  | napAck (frame : Frame)
  | napAckTimeout
  | regRead (off len tag : Nat)
  | regWrite (off len data : Nat)
  | doorbell (off data : Nat)
  | snpInv (addr tag : Nat)
  | readData (tag : Nat) (data : List Byte)
  | readDone (tag status : Nat)
  | writeDone (tag status : Nat)
  | putRequest (port : Fin 8) (hdr : SpanHdr) (data : List Byte)
  | getRequest (port : Fin 8) (hdr : SpanHdr)
  | atomicRequest (port : Fin 8) (hdr : SpanHdr) (data : List Byte)
  | mergeRequest (port : Fin 8) (hdr : SpanHdr) (data : List Byte)
  | putDone (port : Fin 8) (hdr : SpanHdr)
  | getData (port : Fin 8) (hdr : SpanHdr) (data : List Byte)
  | atomicDone (port : Fin 8) (hdr : SpanHdr) (data : List Byte)
  | mergeDone (port : Fin 8) (hdr : SpanHdr)
  | spanResend (dst channel : Nat)
  | spanPortDown (port : Fin 8)
  | refresh (channel : Nat)
  | patrolScrub (channel errBytes : Nat)
  | channelLost (channel : Nat) (cause : DeckCause)
  | stackLost (stack : Nat) (cause : DeckCause)
  | displacedFill (channel : Nat)
  | plainWithdraw
  | auditRead
  | nvmeCompletion (port ctrl queue : Nat) (entry : List Byte)
  | nvmeInboundRequest (port ctrl : Nat) (write : Bool) (addr len : Nat) (data : List Byte)
  | nvmeCommandTimeout (acc : Nat)
  | nvmeControllerReset (port ctrl : Nat)
  | nvmeLost (port ctrl : Nat)
  | parityFailure (pier : Nat)
  | pierLost (pier : Nat) (cause : PierCause)
  | hubParityFailure (unit : HubUnit)
  | configFix (off : Nat)
  | parapetBankParity (parapet bank : Nat)
  | unitOut (unit : UnitKind)
  | rebuildStart (ver group : Nat)
  | rebuildDone (rebuild : Nat)
  | groupLost (rebuild : Nat)
  | outsideAccessRetry (acc : Nat)
  | outOfService
  | setAliasWrite (off data : Nat)
  | clearAliasWrite (off data : Nat)
  | toggleAliasWrite (off data : Nat)
  | sqWrite (off data : Nat)
  | pairLoRead (off tag : Nat)
  | pairLoWrite (off data : Nat)
  | pairHiWrite (off data : Nat)
  | slowDataRead (tag : Nat)
  | slowDataWrite (data : Nat)
  | slowAccessTimeout
  | cfgSwitchGo (data : Nat)
  | overlaySwitch
  | pwrRequestNap
  | pwrRequestRun
  | napEntryStep
  | napWake
  | trimEvaluation (temps : List Int) (power : Nat)
  | trimGateTick
  | forcedOff (cause : OffCause)
  | coldReset
  | rootPllLock
  | romPhaseEnd
  | initPhaseEnd (badChannels badPiers : List Nat)
  | identity
  | attest
  | loadConfig
  | flashWrite
  | ownerSet
  | resetNLow (boardPg : Bool) (nanoseconds : Nat)
  | brownOut (aux : Bool) (millivolts nanoseconds : Nat)
  | mgmtBlockRead (command : Nat) (write : Bool)
  | bypass (code tdi : Nat)
  | idcode
  | samplePreload (cells : List Bool)
  | extest
  | clamp
  | highz
  | resetNRelease
  | deviceRequestTimeout (acc : Nat)
  | nvmeControllerReady (port ctrl : Nat)
deriving DecidableEq, Repr

end Sys2Proof
end

