-- ==== Sys2Proof/Machine/Bytes.lean ====
section
/-!
DEFINITION. Byte order, bit fields and the sparse maps the State is built from.  Every host-visible
structure is little-endian (00_scope R7).
-/

namespace Sys2Proof.Machine

open Sys2Proof

/-- The unsigned number that a little-endian byte string holds (R7). -/
def leNat : List Byte → Nat
  | [] => 0
  | b :: bs => b.toNat + 256 * leNat bs

/-- `n` as `w` little-endian bytes, modulo `256 ^ w` (R7). -/
def natLE (n : Nat) : Nat → List Byte
  | 0 => []
  | w + 1 => BitVec.ofNat 8 n :: natLE (n / 256) w

/-- `len` bytes from offset `off`; bytes past the end read as zero. -/
def slice (bs : List Byte) (off len : Nat) : List Byte :=
  let t := (bs.drop off).take len
  t ++ List.replicate (len - t.length) 0#8

/-- The number in bytes `off + len - 1 : off` of a structure (R7). -/
def leAt (bs : List Byte) (off len : Nat) : Nat := leNat ((bs.drop off).take len)

/-- Bits `lo + n - 1 : lo` of a number (R7, R10). -/
def bitsAt (v lo n : Nat) : Nat := (v >>> lo) % 2 ^ n

/-- Bit `i` of a number. -/
def bitAt (v i : Nat) : Bool := v.testBit i

def zeros (n : Nat) : List Byte := List.replicate n 0#8

/-- The byte string padded with zero bytes to a multiple of `k`. -/
def padTo (k : Nat) (bs : List Byte) : List Byte :=
  if k = 0 then bs else bs ++ zeros ((k - bs.length % k) % k)

def allZero (bs : List Byte) : Bool := bs.all (· == 0#8)

def ceilDiv (a b : Nat) : Nat := if b = 0 then 0 else (a + b - 1) / b

def roundUp (a k : Nat) : Nat := k * ceilDiv a k

/-- `ceil(log2 n)`, zero for `n ≤ 1`. -/
def clog2 (n : Nat) : Nat := if n ≤ 1 then 0 else Nat.log2 (n - 1) + 1

/-- The two's-complement value of the low `w` bits of `n`. -/
def sintOf (w n : Nat) : Int :=
  let v := n % 2 ^ w
  if v < 2 ^ (w - 1) then (v : Int) else (v : Int) - (2 ^ w : Nat)

/-- The low `w` bits of an integer, in two's complement. -/
def intBits (w : Nat) (z : Int) : Nat := (z % ((2 ^ w : Nat) : Int)).toNat

/-- A list cut into pieces of `k` (the last may be shorter); `fuel` bounds the number of pieces. -/
def chunksOfFuel {α : Type} (k : Nat) : Nat → List α → List (List α)
  | 0, _ => []
  | _, [] => []
  | f + 1, xs => xs.take k :: chunksOfFuel k f (xs.drop k)

/-- A list cut into pieces of `k`, the last possibly shorter. -/
def chunksOf {α : Type} (k : Nat) (xs : List α) : List (List α) :=
  if k = 0 then [] else chunksOfFuel k xs.length xs

/-- A map from numbers to values: keys strictly ascending, so that equal maps are equal lists. -/
abbrev NMap (α : Type) := List (Nat × α)

def NMap.find? {α : Type} : NMap α → Nat → Option α
  | [], _ => none
  | (k, v) :: m, i => if k = i then some v else NMap.find? m i

def NMap.getD {α : Type} (m : NMap α) (i : Nat) (d : α) : α := (NMap.find? m i).getD d

def NMap.has {α : Type} (m : NMap α) (i : Nat) : Bool := (NMap.find? m i).isSome

/-- Insert or replace, keeping the keys ascending. -/
def NMap.set {α : Type} : NMap α → Nat → α → NMap α
  | [], i, x => [(i, x)]
  | (k, v) :: m, i, x =>
    if i < k then (i, x) :: (k, v) :: m
    else if i = k then (i, x) :: m
    else (k, v) :: NMap.set m i x

def NMap.erase {α : Type} : NMap α → Nat → NMap α
  | [], _ => []
  | (k, v) :: m, i => if k = i then NMap.erase m i else (k, v) :: NMap.erase m i

def NMap.modify {α : Type} (m : NMap α) (i : Nat) (f : α → α) : NMap α :=
  match NMap.find? m i with
  | some v => NMap.set m i (f v)
  | none => m

def NMap.keys {α : Type} (m : NMap α) : List Nat := m.map (·.1)

def NMap.values {α : Type} (m : NMap α) : List α := m.map (·.2)

/-- The lowest number that is not a key, searched from `i` for `fuel` numbers. -/
def NMap.freeFrom {α : Type} (m : NMap α) (i : Nat) : Nat → Option Nat
  | 0 => none
  | f + 1 => if NMap.has m i then NMap.freeFrom m (i + 1) f else some i

/-- Keys strictly ascending. -/
def NMap.sorted {α : Type} : NMap α → Bool
  | [] => true
  | [_] => true
  | (a, _) :: (b, v) :: m => decide (a < b) && NMap.sorted ((b, v) :: m)

end Sys2Proof.Machine
end

