-- ==== Sys2Proof/Machine/Blake3.lean ====
section
/-!
DEFINITION. BLAKE3 in its hash mode, no key, 32-byte output (13 R287).
-/

namespace Sys2Proof.Machine

open Sys2Proof

def blake3Iv : List W32 :=
  [0x6A09E667#32, 0xBB67AE85#32, 0x3C6EF372#32, 0xA54FF53A#32,
   0x510E527F#32, 0x9B05688C#32, 0x1F83D9AB#32, 0x5BE0CD19#32]

/-- The message word order of one round after another. -/
def blake3Perm : List Nat := [2, 6, 3, 10, 7, 0, 4, 13, 1, 11, 12, 5, 9, 14, 15, 8]

/-- The quarter-round on positions `a b c d` of the sixteen-word state. -/
def blake3G (v : List W32) (a b c d : Nat) (x y : W32) : List W32 :=
  let va := v.getD a 0 + v.getD b 0 + x
  let vd := (v.getD d 0 ^^^ va).rotateRight 16
  let vc := v.getD c 0 + vd
  let vb := (v.getD b 0 ^^^ vc).rotateRight 12
  let va2 := va + vb + y
  let vd2 := (vd ^^^ va2).rotateRight 8
  let vc2 := vc + vd2
  let vb2 := (vb ^^^ vc2).rotateRight 7
  (((v.set a va2).set b vb2).set c vc2).set d vd2

def blake3Round (v m : List W32) : List W32 :=
  let w := fun i => m.getD i 0
  let v := blake3G v 0 4 8 12 (w 0) (w 1)
  let v := blake3G v 1 5 9 13 (w 2) (w 3)
  let v := blake3G v 2 6 10 14 (w 4) (w 5)
  let v := blake3G v 3 7 11 15 (w 6) (w 7)
  let v := blake3G v 0 5 10 15 (w 8) (w 9)
  let v := blake3G v 1 6 11 12 (w 10) (w 11)
  let v := blake3G v 2 7 8 13 (w 12) (w 13)
  blake3G v 3 4 9 14 (w 14) (w 15)

/-- `n` rounds, permuting the message between them. -/
def blake3Rounds : Nat → List W32 → List W32 → List W32
  | 0, v, _ => v
  | n + 1, v, m => blake3Rounds n (blake3Round v m) (blake3Perm.map (fun i => m.getD i 0))

/-- The compression function: the first eight words of its output. -/
def blake3Compress (cv m : List W32) (counter len flags : Nat) : List W32 :=
  let v := cv ++ blake3Iv.take 4 ++
    [BitVec.ofNat 32 counter, BitVec.ofNat 32 (counter / 2 ^ 32),
     BitVec.ofNat 32 len, BitVec.ofNat 32 flags]
  let r := blake3Rounds 7 v m
  List.zipWith (· ^^^ ·) (r.take 8) (r.drop 8)

/-- The words of a block, padded with zeros to sixteen. -/
def blake3Words (blk : List Byte) : List W32 :=
  (chunksOf 4 (slice blk 0 64)).map (fun c => BitVec.ofNat 32 (leNat c))

/-- What the last compression of a node takes, so that the root flag can be added to it. -/
structure Blake3Node where
  cv : List W32
  words : List W32
  counter : Nat
  len : Nat
  flags : Nat
  deriving DecidableEq, Repr

def Blake3Node.out (n : Blake3Node) (extra : Nat) : List W32 :=
  blake3Compress n.cv n.words n.counter n.len (n.flags + extra)

/-- The blocks of one chunk: flag 1 on its first block and 2 on its last. -/
def blake3ChunkFold (counter : Nat) : List (List Byte) → Bool → List W32 → Blake3Node
  | [], first, cv => ⟨cv, blake3Words [], counter, 0, (if first then 1 else 0) + 2⟩
  | [b], first, cv => ⟨cv, blake3Words b, counter, b.length, (if first then 1 else 0) + 2⟩
  | b :: b2 :: bs, first, cv =>
    blake3ChunkFold counter (b2 :: bs) false
      (blake3Compress cv (blake3Words b) counter b.length (if first then 1 else 0))

def blake3Chunk (counter : Nat) (c : List Byte) : Blake3Node :=
  blake3ChunkFold counter (chunksOf 64 c) true blake3Iv

/-- The tree over a list of chunks: the left part is the largest power of two below the count. -/
def blake3Tree : Nat → Nat → List (List Byte) → Blake3Node
  | 0, counter, cs => blake3Chunk counter (cs.headD [])
  | fuel + 1, counter, cs =>
    if cs.length ≤ 1 then blake3Chunk counter (cs.headD [])
    else
      let k := 2 ^ Nat.log2 (cs.length - 1)
      let l := (blake3Tree fuel counter (cs.take k)).out 0
      let r := (blake3Tree fuel (counter + k) (cs.drop k)).out 0
      ⟨blake3Iv, l ++ r, 0, 64, 4⟩

/-- BLAKE3, 32 bytes (R287). -/
def blake3 (m : List Byte) : List Byte :=
  ((blake3Tree 64 0 (chunksOf 1024 m)).out 8).flatMap (fun w => natLE w.toNat 4)

end Sys2Proof.Machine
end

