-- ==== Sys2Proof/Config.lean ====
section
/-!
DEFINITION. What an implementation fixes and the spec leaves open: constants without a body, so that no proof can see
a value of them.  A free value applies one of them to the operands it depends on, or to the plain counter
`State.free`, which the step advances.
-/

namespace Sys2Proof.Config

/-- A fresh value the spec leaves open, by the counter `State.free` (log entry 3). -/
opaque freeValue : Nat → Nat

/-- A byte of Deck memory whose contents the spec leaves undefined, by generation and offset (20 R436). -/
opaque deckByte : Nat → Nat → Byte

/-- The bytes that a compression engine makes of an input: a fixed function of input, format and level (13 R277). -/
opaque compressBytes : Nat → Nat → List Byte → List Byte

/-- The kind that an IRC file's schema section gives a column, by schema fingerprint and column: no byte that the
decoder reads tells it (06 R101, R105; log entry 18). -/
opaque ircKind : Nat → Nat → Nat

/-- The identity key's private number, derived from the 256 bytes of device_secret (20 R448). -/
opaque identityKey : List Byte → Nat

/-- The module's ordering code, as the fuses number it (00 R5, 20 R429). -/
opaque orderingCode : Nat

/-- The module's other fuses as manufactured: the byte at a fuse offset (20 R429). -/
opaque fuseByte : Nat → Byte

/-- The boot flash as shipped: the byte at an offset (20 R426). -/
opaque flashByte : Nat → Byte

/-- Bytes of the factory certificate, X.509 DER, that the flash holds from 0x00F0_0000 (20 R426, R448). -/
opaque certLen : Nat

/-- Ocdacon's 11-bit manufacturer code in the IDCODE register (21 R459). -/
opaque jtagManufacturer : Nat

/-- The four bits that IDCODE holds for a stepping: the fuse gives eight bits and the spec does not say which four they
become (20 R429, 21 R459). -/
opaque idcodeStepping : Nat → Nat

/-- The number of boundary-scan cells, as the BSDL file gives it (21 R459). -/
opaque boundaryCells : Nat

/-- The management address straps, MADDR1 × 2 + MADDR0 (21 R458). -/
opaque straps : Nat

/-- A measured figure of a SerDes lane: port, lane, which figure, at a count of the free counter (19 R417). -/
opaque laneFigure : Nat → Nat → Nat → Nat → Nat

/-- The namespace behind an NVMe target formats its LBAs as 4,096 bytes rather than 512 (17 R375, R379). -/
opaque lbaLarge : Nat → Bool

/-- The namespace behind an NVMe target reports a volatile write cache (10 R212). -/
opaque volatileCache : Nat → Bool

/-- Compressed Causeway frames are ZSTD rather than DEFLATE: the spec gives their level and no codec (10 R212, 13 R280,
R284). -/
opaque journalZstd : Bool

/-- The part of a save image that the spec names and gives no layout: items, windows, queues, reservations and stream
positions, by the free counter (02 R35). -/
opaque saveImage : Nat → List Byte

/-- A quotient or mean that the spec states no value for, by the operand bits (log entry 4). -/
opaque unstated : Nat → List Nat → Nat

end Sys2Proof.Config
end

