-- ==== Sys2Proof/Machine/State.lean ====
section
/-!
DEFINITION. The state of one IL4816, as plain data: every register, queue, table, memory and pin that the spec gives
the module, and the queue of commands that wait.  Counts are `Nat`; the operations that change them keep them inside
their widths.  `NMap` is a list of (key, value) pairs with ascending keys.
-/

namespace Sys2Proof.Machine

open Sys2Proof

/-! ### Memory -/

/-- Sparse bytes: addresses strictly rising, and no entry equal to what an unlisted address reads as. -/
abbrev Mem := List Host.Cell

/-- An outside access (host memory, another device or NVMe) belongs to one of these. -/
inductive Owner where
  | slot (ctx ring idx : Nat)
  | arg (ctx ring : Nat)
  | admin
  | image
  | mbx
  | item (id : Nat)
  | itemPut (id : Nat)
  | itemAtomic (id k : Nat)
  | itemMerge (id : Nat)
  | signal (id k : Nat)
  | skipSignal (ctx ring idx : Nat)
  | shards (ctx ring idx : Nat)
  | stream (ctx slot block : Nat)
  | deliveryCell (ctx slot : Nat)
  | resume (ctx halt : Nat)
  | completion (ctx ring idx : Nat)
  | trailer (ctx ring idx : Nat)
  | status (ctx ring : Nat)
  | log (ctx which : Nat)
  | logHeader (ctx which : Nat)
  | heal
  | healHeader
  | journal (ctx frame : Nat)
  | backing (job : Nat)
  | rebuild (id : Nat)
  | migration (id : Nat)
  | audit
  | row (item : Nat)
  | swtch (ctx ring : Nat)
  | free (ctx : Nat)
  | peer (hdr : SpanHdr) (pageable : Bool)
deriving DecidableEq, Repr

/-- How an outside access stands: on its way, or failed with a status and due again at a tick (15 R462, 18 R400). -/
inductive AccState where
  | flying
  | failed (status due : Nat)
deriving DecidableEq, Repr

/-- One outside access of at most 65,536 bytes at a global address or Causeway location. -/
structure Acc where
  owner : Owner
  addr : Nat
  len : Nat
  write : Bool
  data : List Byte
  shared : Bool
  context : Nat
  tmpl : Option (SpanHdr × Bool)
  first : Nat
  st : AccState
deriving DecidableEq, Repr

/-! ### Time (02) -/

/-- The Keystone count and the device's own tick count since root PLL lock (02 R18, R19). -/
structure Clock where
  running : Bool
  ticks : Nat
  count : Nat
deriving DecidableEq, Repr

/-- The state of the timing filter (02 R20 to R24, 16 R341, R342). -/
structure Timing where
  locked : Bool
  everLocked : Bool
  stepOk : Bool
  isRoot : Bool
  onAlternate : Bool
  depth : Nat
  parentLocked : Bool
  est : Int
  residual : Int
  samples : List Int
  lastAccepted : Option Nat
  lastParent : Nat
  lastRoot : Nat
  correction : Option Bool
  heldRate : Option Bool
  lastCorrection : Option Nat
  loss : Nat
  gain : Nat
deriving DecidableEq, Repr

/-- Per Span port: what the exchange of timing records needs (16 R341, R342). -/
structure PortTiming where
  tnum : Nat
  txCapture : Nat
  lastSent : Nat
  rxCapture : Nat
  rxTnum : Nat
  record : Option Nat
deriving DecidableEq, Repr

/-! ### Piers and the Trestle (03) -/

/-- One 256-byte Deck unit of a queue entry, the first slot of the pair booked for it, and whether it has landed (03 R37,
R43). -/
structure QUnit where
  unit : Nat
  slot : Nat
  landed : Bool
deriving DecidableEq, Repr

/-- One queue entry: the operator that reads it and its units (03 R37). -/
structure QEntry where
  op : Nat
  units : List QUnit
deriving DecidableEq, Repr

/-- One Pier: its item, its queue and the units still to be booked, each with its operator, its light messages by
destination with those that wait in an engine, and the tick of the last one sent (03 The Pier, R37, R47; 18 R392). -/
structure Pier where
  item : Option Nat
  queue : List QEntry
  unbooked : List (Nat × Nat)
  flagged : Bool
  flagTicks : List Nat
  lost : Bool
  light : NMap (List Nat)
  lightWait : NMap (List Nat)
  lightAt : Option Nat
deriving DecidableEq, Repr

/-- The Trestle (03 R39, R42). -/
structure Trestle where
  on : Bool
  slot : Nat
  cycleBase : Nat
  table : Nat
  nextTable : Option (Nat × Nat)
deriving DecidableEq, Repr

/-! ### Items, flows and contexts (04, 05, 15) -/

/-- The states of an item (04 R54). -/
inductive ItemState where
  | pending | ready | running | committed
deriving DecidableEq, Repr

/-- Why an item committed as a skip (04 R64, R65, R67, 16 R355, 10 R220). -/
inductive SkipCause where
  | own | timeout | denied | refused | tooMany
deriving DecidableEq, Repr

/-- The result trailer's counters of one item or descriptor, by their byte offset in the trailer (13 R295). -/
abbrev Counters := NMap Nat

/-- What one chain buffer holds while an item runs, with the skip runs of its contents (05 R463). -/
structure Buf where
  bytes : List Byte
  runs : List (Nat × Nat)
deriving DecidableEq, Repr

/-- A distinct entry of a lookup set that a gather has resolved (09 R186): the location of the row's group then, the row's
address, whether it comes from the Causeway, its bytes once they are read, and whether an apply has changed the row since
(09 R192). -/
structure Lookup where
  loc : Nat
  addr : Nat
  tail : Bool
  bytes : Option (List Byte)
  stale : Bool
deriving DecidableEq, Repr

/-- A work item (04 R54, R55, R64; 05 R79, R90, R93; 18 R390, R391). -/
structure Item where
  ctx : Nat
  ring : Nat
  idx : Nat
  chain : Nat
  flow : Option Nat
  seq : Nat
  index : Nat
  prio : Nat
  st : ItemState
  counter : Nat
  dependents : List Nat
  preds : List (Nat × Nat × Bool)
  budget : Nat
  recordBudget : Nat
  charge : Nat
  op : Nat
  bufs : NMap Buf
  accum : List Nat
  runs : List (Nat × Nat)
  outRuns : List (Nat × Nat)
  skip : Option SkipCause
  lost : Bool
  halted : Option Nat
  yielded : Bool
  counters : Counters
  quarantined : Nat
  lateRecords : List Nat
  recordOver : Option Nat
  overBudget : Bool
  signals : List Nat
  landed : Mem
  asked : List (Nat × Nat)
  waiting : Nat
  waitSince : Option Nat
  fault : List (Nat × Bool)
  handed : Bool
  delivered : Nat
  failedPiers : List Nat
  cacheFill : List (List Byte)
  logs : List (List Byte)
  pool : List (List Nat)
  answers : NMap Nat
  arrival : Int
  gate : Bool
  hit : Bool
  records : NMap (List Byte)
  lookups : NMap Lookup
deriving DecidableEq, Repr

/-- A flow-ledger entry (04 R62); `window` is the Deck offset of its ring. -/
structure Flow where
  next : Nat
  release : Nat
  ctx : Nat
  wlog : Nat
  draining : Bool
  ring : Nat
  window : Nat
  skips : Nat
  ahead : Nat
deriving DecidableEq, Repr

/-- The release record of an item, kept for its consumers (04 R60, 05 R82, R90). -/
structure Released where
  skipped : Bool
  runs : List (Nat × Nat)
deriving DecidableEq, Repr

/-- A consumed descriptor (15 R326 to R334); `trailerDue` while its trailer is still to be written (13 R295). -/
structure Desc where
  raw : List Byte
  type : Nat
  status : Option Nat
  detail : Nat
  n : Nat
  firstItem : Nat
  chain : Nat
  released : NMap Released
  created : Bool
  itemsDone : Nat
  committed : Nat
  yielded : Bool
  quarantined : Nat
  worst : List Nat
  counters : Counters
  running : Bool
  trailerDue : Bool
  trailerDone : Bool
  entrySent : Bool
  waiting : Nat
  lostGroups : List (Nat × Nat × Nat)
  lostSent : Nat
  pins : List Nat
  digest : List Byte
  waiters : List Nat
  keys : Option (List Nat)
  inputs : NMap (List Byte)
  roots : List Byte
  closeDue : Bool
  mem : Mem
deriving DecidableEq, Repr

/-- One submission ring with its completion ring and status word (15 R319, R322, R335). -/
structure Ring where
  subBase : Nat
  cqBase : Nat
  statusAddr : Nat
  subLog : Nat
  cqLog : Nat
  cacheable : Bool
  tail : Nat
  cqHead : Nat
  head : Option (List Byte)
  arg : Option (List Byte)
  argFail : Option Nat
  consumed : Nat
  written : Nat
  blocked : Option Nat
  depSince : Option Nat
  descs : NMap Desc
  wake : Option Nat
  gen : Nat
  statusDirty : Bool
  statusBusy : Bool
  itemsReleased : Nat
  quarantined : Nat
  mem : Mem
  asked : List (Nat × Nat)
  waiting : Nat
  memFail : Bool
deriving DecidableEq, Repr

/-- A range of a context (12 R245, 15 R329). -/
structure Range where
  base : Nat
  len : Nat
  read : Bool
  write : Bool
  pageable : Bool
deriving DecidableEq, Repr

/-- A tensor of a context (12 R246). -/
structure Tensor where
  base : Nat
  fmt : Nat
  rank : Nat
  read : Bool
  write : Bool
  range : Nat
  dims : List Nat
  strides : List Nat
  dying : Bool
deriving DecidableEq, Repr

/-- An installed chain image (05 R76 to R78). -/
structure Chain where
  image : List Byte
  removing : Bool
deriving DecidableEq, Repr

/-- A log ring of a context or of the device (15 R325). -/
structure Log where
  base : Nat
  log2 : Nat
  produced : Nat
  acked : Nat
  head : Nat
  hdrBusy : Bool
deriving DecidableEq, Repr

/-- A tensor operand as it is read: the tensor or one slice of it; `first` is the element that a packed dimension 0
starts at (12 R250). -/
structure TView where
  base : Nat
  fmt : Nat
  dims : List Nat
  strides : List Nat
  first : Nat
deriving DecidableEq, Repr

/-- An open halt (12 R262 to R264).  An operator transfer keeps the tensors it moves, or the bytes of a chain buffer from its
block on, the bytes that skip runs cover, and its Span channel; `running` is the resume that continues it, `phase` 1 while
that reads and 2 while it writes. -/
structure Halt where
  stream : Bool
  which : Nat
  block : Nat
  resumable : Bool
  chain : Nat
  bytes : Option (List Byte)
  src : TView
  dst : TView
  count : Nat
  runs : List (Nat × Nat)
  zero : Bool
  get : Bool
  channel : Nat
  spread : Bool
  flow : Nat
  seq : Nat
  running : Option (Nat × Nat)
  phase : Nat
  cancelled : Bool
  denied : Bool
  landed : Mem
  waiting : Nat
  fault : List (Nat × Bool)
deriving DecidableEq, Repr

/-- A block of a stream on its way (12 R268); `pier` is 256 while no Pier carries it, `fault` lists the accesses answered
not-present, with whether each was a write. -/
structure Block where
  index : Nat
  pier : Nat
  landed : Mem
  written : Bool
  waiting : Nat
  fault : List (Nat × Bool)
  done : Bool
  failedPiers : List Nat
deriving DecidableEq, Repr

/-- A stream slot (12 R265 to R273): `finished` holds the blocks after a halt's that had been written, `credit` the credit
cell's value as it was last observed, `ended` the descriptor whose entry is the slot's final outcome. -/
structure Stream where
  desc : List Byte
  ring : Nat
  idx : Nat
  armDone : Bool
  delivered : Nat
  next : Nat
  blocks : List Block
  cell : Nat
  cellBusy : Bool
  halt : Option Nat
  finished : List Nat
  credit : Nat
  denied : Bool
  ended : Option (Nat × Nat)
deriving DecidableEq, Repr

/-- A Parapet set of a context (11 R238). -/
structure ParaSet where
  parapet : Nat
  bankLog2 : Nat
  firstBank : Nat
  flow : Nat
  dying : Bool
deriving DecidableEq, Repr

/-- One sample-cache entry: its key fields, its pages of the context's cache region, its bytes; the cache lists its entries in the
order of their insertion (06 R111, R112, R114). -/
structure CacheEntry where
  key : List Byte
  dataset : Nat
  generation : Nat
  pages : List Nat
  size : Nat
deriving DecidableEq, Repr

/-- One row-stage entry (09 R191). -/
structure StageEntry where
  table : Nat
  version : Nat
  row : Nat
  off : Nat
  bytes : List Byte
deriving DecidableEq, Repr

/-- What the private part of a join table's header says (07 R143). -/
structure JoinShape where
  units : Nat
  bytesKey : Bool
  bucketLog2 : Nat
  first : Bool
  seed : Nat
  fmts : List Nat
  valid : Nat
deriving DecidableEq, Repr

/-- A row of a join table: its build ordinal, key bytes and payload codes, none for a null (07 R143, R144). -/
structure JoinRow where
  ordinal : Nat
  key : List Byte
  payload : List (Option Nat)
deriving DecidableEq, Repr

/-- A stored merge record (10 R203 to R206). -/
structure StoredRec where
  src : Nat
  key : Nat
  seq : Nat
  fmt : Nat
  payload : List Byte
deriving DecidableEq, Repr

/-- What a merge queue holds of one step (10 R204, R205). -/
structure StepStore where
  recs : List StoredRec
  dropped : List (Nat × Nat)
  closes : NMap Nat
deriving DecidableEq, Repr

/-- Optimiser parameters of a queue, in force from a step (15 R330). -/
structure OptParams where
  from_ : Nat
  opt : Nat
  wb : Nat
  lr : Nat
  eps : Nat
  beta : Nat
deriving DecidableEq, Repr

/-- A finalised step: its values by key, the skipped keys and the marks (10 R205, R215, R217). -/
structure FinalStep where
  values : List (Nat × List Nat)
  skipped : List Nat
  marked : List Nat
  block : Nat
  params : OptParams
  version : Nat
  sats : NMap Nat
  gaps : List Nat
deriving DecidableEq, Repr

/-- A merge queue (10 R202): `next` is the step that finalises next, `toApply` the first step with keys that are not
marked, `started` one more than the last step of which a ROW_APPLY item was dispatched, `u0` the table's update_version at its
creation. -/
structure MergeQueue where
  rows : Bool
  ufmt : Nat
  elems : Nat
  keyLimit : Nat
  cap : Nat
  sources : List Nat
  tableSet : Nat
  table : Nat
  stateTable : Option Nat
  dense : Nat
  params : List OptParams
  first : Nat
  next : Nat
  steps : NMap StepStore
  finals : NMap FinalStep
  toApply : Nat
  started : Nat
  u0 : Nat
  dying : Bool
deriving DecidableEq, Repr

/-- One journal frame; `flushing` while the Flush after its Write is under way (10 R211, R212). -/
structure JFrame where
  off : Nat
  len : Nat
  queue : Nat
  step : Nat
  kind : Nat
  table : Nat
  block : Nat
  blockOff : Nat
  blockLen : Nat
  groups : List Nat
  acked : Bool
  sent : Bool
  flushing : Bool
  waiting : Nat
  bytes : List Byte
deriving DecidableEq, Repr

/-- The journal area of a context (10 R211 to R213). -/
structure Journal where
  base : Nat
  len : Nat
  head : Nat
  next : Nat
  nextBlock : Nat
  frames : NMap JFrame
deriving DecidableEq, Repr

/-- What a save image that a PAUSE wrote stands for (02 R35): its bytes, the digest and roots in it, the flow-ledger entries,
the items that were not released, with their counters and the reorder windows they fill, the merge queues, the scratch
reservation by Pier, the streams with their positions, and the Parapet sets. -/
structure Save where
  bytes : List Byte
  key : List Byte
  flows : NMap Flow
  items : NMap Item
  queues : NMap MergeQueue
  scratch : NMap Mem
  streams : NMap Stream
  sets : NMap ParaSet
deriving DecidableEq, Repr

/-- The life of a context (15 R317). -/
inductive CtxState where
  | active | paused
deriving DecidableEq, Repr

/-- A context (15 R318, R319; 04 R70, R71). -/
structure Ctx where
  st : CtxState
  maxPrio : Nat
  backPressure : Bool
  pinned : Bool
  fifo : Bool
  quota : Nat
  reservation : Nat
  landing : Nat
  tensorTable : Nat
  recordBudget : Nat
  itemBudget : Nat
  timeout : Nat
  slice : Nat
  ratio : Nat
  maxRecord : Nat
  cachePages : Nat
  stagePages : Nat
  haltPages : Nat
  qlog : Log
  hlog : Log
  trace : Log
  traceMask : Nat
  rings : NMap Ring
  chains : NMap Chain
  ranges : NMap Range
  tensors : NMap Tensor
  streams : NMap Stream
  halts : NMap Halt
  nextHalt : Nat
  cache : List CacheEntry
  stage : List StageEntry
  queues : NMap MergeQueue
  journal : Journal
  sets : NMap ParaSet
  resident : Bool
  sliceStart : Nat
  draining : Bool
  swap : NMap Mem
  sentData : NMap (List Nat)
  areaBase : Nat
  poolBase : Nat
  closing : Bool
  saves : List Save
deriving DecidableEq, Repr

/-- The scheduler (04), and the next sequence number of each trace source (02 R28). -/
structure Sched where
  items : NMap Item
  nextItem : Nat
  traceSeq : NMap Nat
  flows : NMap Flow
  lastOut : Nat
  slicing : Bool
deriving DecidableEq, Repr

/-! ### Links (14, 16) -/

/-- Link states, with their codes of KIDUNER_STATE (14 R300, R316). -/
inductive LinkState where
  | down | detect | rate0 | eq | align | active | retrain | nap
deriving DecidableEq, Repr

/-- One transaction on its way out: a header and its data (14 R308, R309; 16 R347). -/
structure Packet where
  hdr : List Byte
  data : List Byte
deriving DecidableEq, Repr

/-- A frame as it was sent, kept for replay: its link fields with the acknowledgement and the credits of that moment, the
packets whose headers it carries, its data slots (kind, tag, 256 bytes), and on Span its timing record (14 R303, R304,
R306; 16 R340). -/
structure Sent where
  seq : Nat
  ack : Nat
  kind : Nat
  credits : List Nat
  hdrs : List Packet
  slots : List (Nat × Nat × List Byte)
  timing : Option Nat
deriving DecidableEq, Repr

/-- Why a link trains: from DETECT, in Recovery on a pair, into Nap, out of Nap, or the ALIGN of RETRAIN (14 R300, R315;
20 R428). -/
inductive Course where
  | training | recovery | napIn | napOut | realign
deriving DecidableEq, Repr

/-- One link: Kiduner or a Span port (14 R299 to R308, 16 R340). -/
structure Link where
  st : LinkState
  width : Nat
  firstLane : Nat
  reversed : Bool
  polarity : NMap Bool
  seen : NMap Nat
  farWidths : Nat
  ts2 : NMap Nat
  detected : List Nat
  failures : Nat
  entered : Nat
  seriesStart : Nat
  saved : Bool
  course : Course
  courseFrom : Nat
  presets : NMap Nat
  farPresets : NMap Nat
  presetAsks : NMap Nat
  queue : List Packet
  slots : List (Nat × Nat × List Byte)
  asks : List Nat
  holding : Bool
  replay : List Sent
  txSeq : Nat
  rxSeq : Nat
  discarding : Bool
  requests : Nat
  replayAsks : Nat
  resent : Nat
  crUsed : List Nat
  crGiven : List Nat
  crFar : List Nat
  napLink : Bool
  alignOk : Bool
  alignSeq : Option Nat
  partials : NMap (List Byte)
  stale : List (SpanHdr × List Byte)
  pulling : List (SpanHdr × List Byte)
deriving DecidableEq, Repr

/-- What the device holds of the Kiduner transaction layer (14 R310 to R315). -/
structure Kid where
  tags : NMap Nat
  waiting : List Nat
  accs : NMap Acc
  nextAcc : Nat
  instant : List (Nat × Nat)
  lines : NMap (List Byte)
  snooped : List Nat
  napStage : Nat
  napAsks : Nat
  napAskedAt : Nat
deriving DecidableEq, Repr

/-- A Span request that waits for its response (16 R353). -/
structure SpanReq where
  seq : Nat
  hdr : SpanHdr
  data : List Byte
  acc : Nat
  port : Nat
  issued : Nat
  first : Nat
deriving DecidableEq, Repr

/-- The source side of one (destination, channel) (16 R350 to R353). -/
structure SpanOut where
  next : Nat
  open_ : List SpanReq
  waiting : List (SpanHdr × List Byte × Nat)
deriving DecidableEq, Repr

/-- The destination side of one (source, channel) (16 R352). -/
structure SpanIn where
  applied : Nat
  responses : NMap Packet
deriving DecidableEq, Repr

/-- The Span transaction layer (16). -/
structure SpanState where
  outs : NMap SpanOut
  ins : NMap SpanIn
  spread : NMap Nat
  timing : NMap PortTiming
deriving DecidableEq, Repr

/-! ### Memory, NVMe and healing (17, 18) -/

/-- The audit of backing copies: the last place audited and the copy being read (17 R381). -/
structure Audit where
  pos : Nat
  target : Option (Nat × Nat)
  frame : Mem
  asked : List (Nat × Nat)
  waiting : Nat
  failed : Bool
deriving DecidableEq, Repr

/-- The Deck and its faults (17 R363 to R386); `held` are the parts of writes that wait for the rebuild of a row group, with
whose they are (17 R461). -/
structure DeckState where
  mem : Mem
  held : List (Nat × List Byte × Owner)
  gen : Nat
  bad : List Nat
  errTicks : NMap (List Nat)
  lost : List Nat
  stacksOut : List Nat
  unfilled : List Nat
  healed : List Nat
  displaced : NMap (List Nat)
  scrub : NMap Nat
  refreshed : NMap Nat
  withdrawn : Nat
  phyFails : NMap Nat
  audit : Audit
  pierMem : Mem
deriving DecidableEq, Repr

/-- The life of an NVMe controller (17 R378). -/
inductive NvmeLife where
  | ready | resetting (since : Nat) | lost
deriving DecidableEq, Repr

/-- One NVMe controller with its outstanding commands (17 R376 to R378). -/
structure NvmeCtl where
  life : NvmeLife
  timeouts : Nat
  cmds : NMap Nat
  landing : NMap (List Byte)
  sqTail : Nat
  cqHead : Nat
  phase : Bool
  nextCid : Nat
deriving DecidableEq, Repr

/-- A rebuild of a row group, waiting or running, with the Deck extents of its pair (18 R395 to R397). -/
structure Rebuild where
  ver : Nat
  group : Nat
  extents : List (Nat × Nat)
  state : Option Nat
  prior : Nat
  statePrior : Nat
  running : Bool
  frame : Mem
  asked : List (Nat × Nat)
  waiting : Nat
  once : List Nat
  fatal : Option (Nat × Nat)
  spill : Option Nat
  since : Nat
  written : Bool
deriving DecidableEq, Repr

/-- Healing state (18). -/
structure Heal where
  outOfService : Bool
  cores : Nat
  coreFaults : List Nat
  banksOut : List Nat
  bankFaults : NMap (List Nat)
  enginesOut : List Nat
  engineFaults : NMap (List Nat)
  hubFaults : NMap (List Nat)
  diesOut : List Nat
  log : Log
  rebuilds : NMap Rebuild
  nextJob : Nat
  spillUsed : Nat
deriving DecidableEq, Repr

/-! ### Tables (09, 10) -/

/-- One table version in use (09 R176 to R180, R198, R199). -/
structure Version where
  setBase : Nat
  slot : Nat
  desc : Nat
  version : Nat
  tableId : Nat
  ctx : Nat
  current : Bool
  retired : Bool
  by_ : Option (Nat × Nat × Nat)
  freeTail : List (Nat × Nat)
deriving DecidableEq, Repr

/-- A migration of one row group (09 R193 to R197): `since` is the tick at which its copy began, `after` the group that is to
move in once this one has left. -/
structure Migration where
  ver : Nat
  group : Nat
  old : Nat
  target : Nat
  phase : Nat
  inward : Bool
  prior : Nat
  held : List (Nat × Nat × List Byte)
  by_ : Option (Nat × Nat × Nat)
  frame : Mem
  asked : List (Nat × Nat)
  waiting : Nat
  failed : Bool
  since : Nat
  after : Option Nat
deriving DecidableEq, Repr

/-- What a commit makes of one group: its format, the offset in the group pool when promoted, the place of its new
backing copy, and its leaf (10 R220). -/
structure NewGroup where
  group : Nat
  fmt : Nat
  stride : Nat
  loc : Option Nat
  backing : Nat
  leaf : List Byte
deriving DecidableEq, Repr

/-- A version commit under way (10 R220): phase 0 waits for its step and reads its groups, 1 for its backing writes, 2 for
its COMMIT block. -/
structure Commit where
  ctx : Nat
  ring : Nat
  idx : Nat
  ver : Nat
  step : Nat
  queues : List Nat
  phase : Nat
  descBase : Nat
  descLen : Nat
  poolBase : Nat
  poolLen : Nat
  groupBase : Nat
  groupLen : Nat
  writes : Nat
  since : Nat
  newVer : Nat
  frame : Mem
  asked : List (Nat × Nat)
  failed : List Nat
  plan : List NewGroup
  deferred : List Nat
  block : Nat
deriving DecidableEq, Repr

/-- What a ROW_APPLY item placed in its apply slots for a key: kind 0 a row to be copied, 1 a row of a LOST group, 2 a row
that SKIP_ROW left unchanged, 3 a row on its way to the Causeway, 4 a row
held by a migration, 5 a row in place (10 R215, R217; 09 R195). -/
structure ApplySlot where
  item : Nat
  ctx : Nat
  queue : Nat
  step : Nat
  key : Nat
  ver : Nat
  row : List Byte
  sat : Nat
  kind : Nat
deriving DecidableEq, Repr

/-- The table machinery (09, 10). -/
structure Tables where
  versions : NMap Version
  nextVer : Nat
  migrations : NMap Migration
  commits : NMap Commit
  slots : List ApplySlot
  joinPending : NMap (JoinShape × List JoinRow)
deriving DecidableEq, Repr

/-- A Parapet's entries and its Deck shadow, as (set key, entry) lists by bank (11 R237 to R243). -/
structure ParapetState where
  entries : NMap (List (List Byte))
  shadow : NMap (List (List Byte))
  bad : List Nat
  applying : List (Nat × List (Nat × List Byte))
deriving DecidableEq, Repr

/-! ### Registers, configuration, power, boot, pads (19, 20, 21) -/

/-- Register storage by control-window offset (19 R407 to R415): stored RW words, SQ registers as events and seq,
64-bit pairs, the shadows and the Tollhouse's copies. -/
structure Regs where
  words : NMap Nat
  sq : NMap (Nat × Nat)
  pairs : NMap Nat
  readShadow : NMap Nat
  writeShadow : NMap Nat
  copies : NMap Nat
  busErrAddr : Nat
  adminBusy : Nat
  adminStatus : Nat
  adminCtx : Nat
  imageLen : Nat
  adminBytes : Option (List Byte)
  adminAsked : Nat
  adminMem : Mem
  adminImage : List Byte
  adminDue : Bool
  slowError : Bool
  slowCause : Nat
  slowBusy : Option (Nat × Nat × Nat)
  parked : List (Nat × Nat × Nat × Nat)
deriving DecidableEq, Repr

/-- The configuration in force (20 R434 to R439), and the configuration log: the stamp of each overlay switch with the
overlay that took effect (02 R27). -/
structure CfgState where
  package : List Byte
  loaded : Bool
  overlay : Option Nat
  pending : Option (Nat × Option Nat)
  powerCap : Nat
  log : List (Nat × Option Nat)
deriving DecidableEq, Repr

/-- Power (19 R422, 20 R440 to R447). -/
structure Power where
  off : Bool
  trim : Bool
  nap : Bool
  entering : Option Nat
  napTicks : Nat
  waking : Option Nat
  duty : Nat
  acc : Nat
  gated : Bool
  trimTemp : Bool
  hottest : Int
  source : Nat
  watts : Nat
  lastEval : Nat
deriving DecidableEq, Repr

/-- Boot, fuses, flash and mailbox (20 R425 to R433). -/
structure Boot where
  phase : Nat
  reason : Nat
  fuses : NMap Byte
  flash : NMap Byte
  imageLen : Nat
  header : List Byte
  digest : List Byte
  rollbackDone : Bool
  cmd : Nat
  respStatus : Nat
  busy : Bool
  collided : Bool
  respTag : Nat
  detail : Nat
  arg : NMap Byte
  out : NMap Byte
  landed : Mem
  asked : List (Nat × Nat)
  waiting : Nat
  failed : Bool
deriving DecidableEq, Repr

/-- Pads, management and boundary scan (21). -/
structure Pads where
  resetN : Bool
  boardPg : Bool
  alertN : Bool
  forcedOff : Bool
  jtagIr : Nat
  bypassBit : Bool
  cells : List Bool
  mgmtOut : List Byte
  mgmtNack : Bool
  outputsFloat : Bool
  tdo : Nat
deriving DecidableEq, Repr

/-- The whole module, and the commands that wait, first in, first out. -/
structure State where
  clock : Clock
  timing : Timing
  piers : NMap Pier
  trestle : Trestle
  sched : Sched
  ctxs : NMap Ctx
  kidLink : Link
  spanLinks : NMap Link
  kid : Kid
  span : SpanState
  deck : DeckState
  nvme : NMap NvmeCtl
  heal : Heal
  tables : Tables
  parapets : NMap ParapetState
  regs : Regs
  cfg : CfgState
  power : Power
  boot : Boot
  pads : Pads
  free : Nat
  pending : List Instr
deriving DecidableEq, Repr

/-- Faults of the model. -/
inductive Fault where
  /-- Raised by a command whose operand names a Pier, endpoint, channel, stack, Parapet or bank beyond the number the
  module has; safe. -/
  | noSuchUnit (unit : Nat)
deriving DecidableEq, Repr

/-- Refusals of the model. -/
inductive Refusal where
  /-- Raised by `exec` alone, for a command that has no meaning yet; safe. -/
  | notModelled (mnemonic : String)
deriving DecidableEq, Repr

/-! ### Reset -/

/-- A log that names no place. -/
def Log.none : Log := { base := 0, log2 := 0, produced := 0, acked := 0, head := 0, hdrBusy := false }

/-- A Pier in service with nothing on it; fields without a stated reset value are empty (log entry 1). -/
def Pier.fresh : Pier :=
  { item := none, queue := [], unbooked := [], flagged := false, flagTicks := [], lost := false
    light := [], lightWait := [], lightAt := none }

/-- A link that is DOWN and holds nothing (14 R316, 16 R362). -/
def Link.reset : Link :=
  { st := .down, width := 0, firstLane := 0, reversed := false, polarity := [], seen := [], farWidths := 0,
    ts2 := [], detected := [], failures := 0, entered := 0, seriesStart := 0, saved := false,
    course := .training, courseFrom := 0, presets := [], farPresets := [], presetAsks := [], queue := [], slots := [],
    asks := [], holding := false, replay := [], txSeq := 0, rxSeq := 65535, discarding := false, requests := 0,
    replayAsks := 0, resent := 0, crUsed := [0, 0, 0, 0], crGiven := [0, 0, 0, 0], crFar := [0, 0, 0, 0],
    napLink := false, alignOk := false, alignSeq := none, partials := [], stale := [], pulling := [] }

def PortTiming.reset : PortTiming :=
  { tnum := 0, txCapture := 0, lastSent := 0, rxCapture := 0, rxTnum := 0, record := none }

def ParapetState.reset : ParapetState := { entries := [], shadow := [], bad := [], applying := [] }

/-- The machine right after a cold reset: the ROM phase, before the root PLL locks (19, 20 R424, R425). -/
def State.reset : State :=
  { clock := { running := false, ticks := 0, count := 0 }
    timing := { locked := false, everLocked := false, stepOk := false, isRoot := false, onAlternate := false, depth := 0,
                parentLocked := false, est := 0, residual := 0, samples := [], lastAccepted := none,
                lastParent := 0, lastRoot := 0, correction := none, heldRate := none, lastCorrection := none,
                loss := 0, gain := 0 }
    piers := []
    trestle := { on := false, slot := 0, cycleBase := 0, table := 0, nextTable := none }
    sched := { items := [], nextItem := 0, traceSeq := [], flows := [], lastOut := 65535, slicing := false }
    ctxs := []
    kidLink := Link.reset
    spanLinks := []
    kid := { tags := [], waiting := [], accs := [], nextAcc := 0, instant := [], lines := [], snooped := [],
             napStage := 0, napAsks := 0, napAskedAt := 0 }
    span := { outs := [], ins := [], spread := [], timing := [] }
    deck := { mem := [], held := [], gen := 0, bad := [], errTicks := [], lost := [], stacksOut := [], unfilled := [], healed := [],
              displaced := [], scrub := [], refreshed := [], withdrawn := 0, phyFails := [],
              audit := { pos := 0, target := none, frame := [], asked := [], waiting := 0, failed := false },
              pierMem := [] }
    nvme := []
    heal := { outOfService := false, cores := 4, coreFaults := [], banksOut := [], bankFaults := [],
              enginesOut := [], engineFaults := [], hubFaults := [], diesOut := [], log := Log.none,
              rebuilds := [], nextJob := 0, spillUsed := 0 }
    tables := { versions := [], nextVer := 0, migrations := [], commits := [], slots := [], joinPending := [] }
    parapets := []
    regs := { words := [], sq := [], pairs := [], readShadow := [], writeShadow := [], copies := [],
              busErrAddr := 0, adminBusy := 0, adminStatus := 0, adminCtx := 0, imageLen := 0,
              adminBytes := none, adminAsked := 0, adminMem := [], adminImage := [], adminDue := false,
              slowError := false, slowCause := 0, slowBusy := none, parked := [] }
    cfg := { package := [], loaded := false, overlay := none, pending := none, powerCap := 1800, log := [] }
    power := { off := false, trim := false, nap := false, entering := none, napTicks := 0, waking := none,
               duty := 0, acc := 0, gated := false, trimTemp := false, hottest := 0, source := 0, watts := 0,
               lastEval := 0 }
    boot := { phase := 0, reason := 0, fuses := [], flash := [], imageLen := 0, header := [], digest := [],
              rollbackDone := false, cmd := 0, respStatus := 0, busy := false, collided := false, respTag := 0,
              detail := 0, arg := [], out := [], landed := [], asked := [], waiting := 0, failed := false }
    pads := { resetN := true, boardPg := true, alertN := true, forcedOff := false, jtagIr := 255,
              bypassBit := false, cells := [], mgmtOut := [], mgmtNack := false, outputsFloat := false, tdo := 0 }
    free := 0
    pending := [] }

end Sys2Proof.Machine
end

