-- ==== Sys2Proof/Machine/Flags.lean ====
section
/-!
DEFINITION. Event registers, counters and register storage: how an event sets an SQ register (19 R412), how a counter
advances (19 R410), and the store rules of the RW words (04 R75, 09 R201, 10 R222, 16 R362, 17 R387, 19 R415).
Registers are named by their control-window offset (19 R407).
-/

namespace Sys2Proof.Machine

open Sys2Proof

/-! ### Offsets of the SQ registers -/

abbrev evReg : Nat := 0x4
abbrev evSync : Nat := 0x1000
abbrev evSched : Nat := 0x3000
abbrev evAdmin : Nat := 0x4000
abbrev evRing : Nat := 0x4004
abbrev evDecode : Nat := 0x5000
abbrev evRel : Nat := 0x6000
abbrev evNum : Nat := 0x7000
abbrev evEmb : Nat := 0x8000
abbrev evMerge : Nat := 0x9000
abbrev evSel : Nat := 0xA000
abbrev evStream : Nat := 0xB000
abbrev evCmp : Nat := 0xC000
abbrev evKid : Nat := 0xD000
abbrev evSpan : Nat := 0xE000
abbrev evDeck : Nat := 0xF000
abbrev evHeal : Nat := 0x10000
abbrev evCfg : Nat := 0x11000
abbrev evPwr : Nat := 0x12000

/-- The SQ registers (19 R412). -/
def sqOffsets : List Nat :=
  [evReg, evSync, evSched, evAdmin, evRing, evDecode, evRel, evNum, evEmb, evMerge, evSel, evStream, evCmp, evKid,
   evSpan, evDeck, evHeal, evCfg, evPwr]

/-! ### Offsets of the counters -/

abbrev ctBusErr : Nat := 0x100
abbrev ctBadDoorbell : Nat := 0x4108
abbrev ctQuar : Nat := 0x5100
abbrev ctQuarCached : Nat := 0x5108
abbrev ctCacheHit : Nat := 0x5110
abbrev ctCacheMiss : Nat := 0x5118
abbrev ctCacheCrc : Nat := 0x5120
abbrev ctDecodeLost : Nat := 0x5128
abbrev ctRelBad : Nat := 0x6100
abbrev ctPromoted : Nat := 0x7100
abbrev ctDeferred : Nat := 0x7108
abbrev ctBadBlock : Nat := 0x7110
abbrev ctEmbBad : Nat := 0x8100
abbrev ctMigIn : Nat := 0x8108
abbrev ctMigOut : Nat := 0x8110
abbrev ctMigAbandoned : Nat := 0x8118
abbrev ctMigIgnored : Nat := 0x8120
abbrev ctStageFull : Nat := 0x8128
abbrev ctMergeDrop : Nat := 0x9100
abbrev ctMergeDup : Nat := 0x9108
abbrev ctApplyRows : Nat := 0x9110
abbrev ctJournal : Nat := 0x9118
abbrev ctSelBad : Nat := 0xA100
abbrev ctSearches : Nat := 0xA108
abbrev ctUpdates : Nat := 0xA110
abbrev ctParaFull : Nat := 0xA118
abbrev ctBlocks : Nat := 0xB100
abbrev ctHalts : Nat := 0xB108
abbrev ctRewritten : Nat := 0xB110
abbrev ctHaltLost : Nat := 0xB118
abbrev ctCmpBad : Nat := 0xC100
abbrev ctFrameBad : Nat := 0xC108
abbrev ctBytesIn : Nat := 0xC110
abbrev ctBytesOut : Nat := 0xC118
abbrev ctDigest : Nat := 0xC120
abbrev ctKidCorr : Nat := 0xD108
abbrev ctKidUncorr : Nat := 0xD110
abbrev ctKidReplay : Nat := 0xD118
abbrev ctKidRetrain : Nat := 0xD120
abbrev ctKidBad : Nat := 0xD128
abbrev ctSpanBad : Nat := 0xE100
abbrev ctSpanDup : Nat := 0xE108
abbrev ctSpanResend : Nat := 0xE110
abbrev ctSpanDenied : Nat := 0xE118
abbrev ctSpanCorr : Nat := 0xE120
abbrev ctSpanUncorr : Nat := 0xE128
abbrev ctDeckCorr : Nat := 0xF100
abbrev ctDeckUncorr : Nat := 0xF108
abbrev ctMirrorFix : Nat := 0xF110
abbrev ctUnprotected : Nat := 0xF118
abbrev ctNvmeBad : Nat := 0xF120
abbrev ctNvmeTimeout : Nat := 0xF128
abbrev ctAuditFail : Nat := 0xF130
abbrev ctReplay : Nat := 0x10100
abbrev ctRebuild : Nat := 0x10108
abbrev ctGroupLost : Nat := 0x10110
abbrev ctConfigFix : Nat := 0x10118
abbrev ctHealLost : Nat := 0x10120

/-- The 64-bit pairs that software may write (15 R339, 19 R420). -/
abbrev prAdminAddr : Nat := 0x4100
abbrev prSwitchAt : Nat := 0x11100

/-- The pairs whose value is not a stored counter (02 R20, 14 R316). -/
abbrev prCount : Nat := 0x1100
abbrev prLoss : Nat := 0x1108
abbrev prGain : Nat := 0x1110
abbrev prPolarity : Nat := 0xD100

/-- The _LO offsets of every 64-bit pair (19 R407). -/
def pairOffsets : List Nat :=
  [ctBusErr, prCount, prLoss, prGain, prAdminAddr, ctBadDoorbell,
   ctQuar, ctQuarCached, ctCacheHit, ctCacheMiss, ctCacheCrc, ctDecodeLost, ctRelBad, ctPromoted, ctDeferred,
   ctBadBlock, ctEmbBad, ctMigIn, ctMigOut, ctMigAbandoned, ctMigIgnored, ctStageFull] ++
  [ctMergeDrop, ctMergeDup, ctApplyRows, ctJournal, ctSelBad, ctSearches, ctUpdates, ctParaFull, ctBlocks, ctHalts,
   ctRewritten, ctHaltLost, ctCmpBad, ctFrameBad, ctBytesIn, ctBytesOut, ctDigest, prPolarity, ctKidCorr,
   ctKidUncorr, ctKidReplay, ctKidRetrain, ctKidBad, ctSpanBad, ctSpanDup, ctSpanResend, ctSpanDenied] ++
  [ctSpanCorr, ctSpanUncorr, ctDeckCorr, ctDeckUncorr, ctMirrorFix, ctUnprotected, ctNvmeBad, ctNvmeTimeout,
   ctAuditFail, ctReplay, ctRebuild, ctGroupLost, ctConfigFix, ctHealLost, prSwitchAt]

/-! ### RW words -/

abbrev rwSlowAddr : Nat := 0xC
abbrev rwSlowData : Nat := 0x10
abbrev rwRecordBudget : Nat := 0x300C
abbrev rwItemBudget : Nat := 0x3010
abbrev rwTimeout : Nat := 0x3014
abbrev rwSlice : Nat := 0x3018
abbrev rwAdminOp : Nat := 0x4008
abbrev rwAdminLen : Nat := 0x400C
abbrev rwMigrateRate : Nat := 0x8004
abbrev rwJournalLevel : Nat := 0x9004
abbrev rwResend : Nat := 0xE028
abbrev rwAuditRate : Nat := 0xF048
abbrev rwHealHead : Nat := 0x10008
abbrev rwOverlaySel : Nat := 0x11008
abbrev rwPwrRequest : Nat := 0x12008

/-- Each stored RW word with the mask of its RW fields and its reset value. -/
def rwTable : List (Nat × Nat × Nat) :=
  [(rwSlowAddr, 0x1FFFFFFF, 0x10000000), (rwRecordBudget, 0xFFFFFFFF, 0x001E8480),
   (rwItemBudget, 0xFFFFFFFF, 0x00800000), (rwTimeout, 0xFFFFFFFF, 0x01000000), (rwSlice, 0xFFFFFFFF, 0x00100000),
   (rwAdminOp, 0xFFFF0007, 0), (rwAdminLen, 0xFFFFFFFF, 0), (rwMigrateRate, 0xFFFF, 0x0200),
   (rwJournalLevel, 0xF, 1), (rwResend, 0xFFFFFFFF, 0x00080000), (rwAuditRate, 0xFFFF, 0x0010),
   (rwHealHead, 0xFFFFFFFF, 0), (rwOverlaySel, 0xF, 0), (rwPwrRequest, 0x3, 0)]

/-- The row of an RW word: its mask and reset value. -/
def rwRow (off : Nat) : Option (Nat × Nat) := (rwTable.find? (fun r => r.1 == off)).map (·.2)

/-- The value an RW word holds: what was stored, or its reset value. -/
def rwGet (s : State) (off : Nat) : Nat :=
  match NMap.find? s.regs.words off with
  | some v => v
  | none => match rwRow off with
    | some (_, r) => r
    | none => 0

/-- A store would put a reserved value in an RW field (19 R415). -/
def rwReserved (off v : Nat) : Bool :=
  if off = rwAdminOp then v % 8 = 0 || decide (5 ≤ v % 8)
  else if off = rwPwrRequest then v % 4 = 1 || v % 4 = 3
  else if off = rwSlowAddr then v % 4 != 0 || decide (4 ≤ bitsAt v 24 4)
  else false

/-- The value that a register's own store rule makes of a value (04 R75, 09 R201, 10 R222, 16 R362, 17 R387). -/
def rwClamp (off v : Nat) : Nat :=
  if off = rwRecordBudget ∨ off = rwItemBudget then max v 1024
  else if off = rwTimeout ∨ off = rwSlice then max v 65536
  else if off = rwResend then max v 16384
  else if off = rwMigrateRate then min (max v 64) 4096
  else if off = rwJournalLevel then min (max v 1) 9
  else if off = rwAuditRate then min v 256
  else v

/-- Store a value in an RW word under its mask and store rule; the Tollhouse keeps a copy (18 R393). -/
def rwStore (s : State) (off v : Nat) : State :=
  match rwRow off with
  | none => s
  | some (mask, _) =>
    let w := rwClamp off (v &&& mask)
    { s with regs := { s.regs with
        words := NMap.set s.regs.words off w
        copies := NMap.set s.regs.copies off w } }

/-! ### Events and counters -/

/-- The event bits and sequence number of an SQ register. -/
def sqGet (s : State) (off : Nat) : Nat × Nat := NMap.getD s.regs.sq off (0, 0)

/-- The word a read of an SQ register returns (19 R412). -/
def sqWord (s : State) (off : Nat) : Nat := (sqGet s off).1 + 65536 * (sqGet s off).2

/-- An event sets its bit and advances seq by one, even when the bit is already set (19 R412). -/
def event (s : State) (off bit : Nat) : State :=
  let p := sqGet s off
  { s with regs := { s.regs with sq := NMap.set s.regs.sq off (p.1 ||| 2 ^ bit, (p.2 + 1) % 65536) } }

/-- A write to an SQ register clears its event bits exactly when its upper half equals seq (19 R412). -/
def sqClear (s : State) (off w : Nat) : State :=
  let p := sqGet s off
  if bitsAt w 16 16 = p.2 then { s with regs := { s.regs with sq := NMap.set s.regs.sq off (0, p.2) } } else s

/-- The stored value of a 64-bit pair. -/
def pairGet (s : State) (off : Nat) : Nat := NMap.getD s.regs.pairs off 0

/-- A counter advances by `n` modulo 2^64 (19 R410). -/
def bump (s : State) (off n : Nat) : State :=
  { s with regs := { s.regs with pairs := NMap.set s.regs.pairs off ((pairGet s off + n) % 2 ^ 64) } }

/-- A fresh value that the spec leaves open; the counter advances (log entry 3). -/
def takeFree (s : State) : Nat × State := (Config.freeValue s.free, { s with free := s.free + 1 })

end Sys2Proof.Machine
end

