-- ==== Sys2Proof/Machine/Package.lean ====
section
/-!
DEFINITION. The configuration package in force and what it says: its sections, the Deck map, the host windows, NVMe
targets, routes and inbound windows (20 R434, R435; 16 R344, R345; 17 R367, R368, R373, R379).
-/

namespace Sys2Proof.Machine

open Sys2Proof

/-- Entry `k` of a package's directory: the image's bytes, empty when absent (20 R434). -/
def pkgImage (p : List Byte) (k : Nat) : List Byte :=
  (p.drop (leAt p (64 + 16 * k) 8)).take (leAt p (72 + 16 * k) 8)

/-- The base image of the configuration in force. -/
def baseImage (s : State) : List Byte := pkgImage s.cfg.package 0

/-- Overlay image `i` of the configuration in force. -/
def overlayImage (s : State) (i : Nat) : List Byte := pkgImage s.cfg.package (1 + i)

/-- A section of a base image, by its type; `none` when it is absent (20 R435). -/
def sectionIn (img : List Byte) (ty : Nat) : Option (List Byte) :=
  let n := leAt img 4 1
  ((List.range n).find? (fun k => leAt img (64 + 16 * k) 1 == ty)).map
    (fun k => (img.drop (leAt img (64 + 16 * k + 8) 8)).take (leAt img (64 + 16 * k + 4) 4))

def cfgSection (s : State) (ty : Nat) : List Byte := (sectionIn (baseImage s) ty).getD []

def gib : Nat := 2 ^ 30

/-- M, D and C of a base image, in bytes (17 R368). -/
def mapOf (img : List Byte) : Nat × Nat × Nat :=
  let d := (sectionIn img 1).getD []
  (leAt d 8 4 * gib, leAt d 12 4 * gib, leAt d 16 4 * gib)

/-- The Deck map in force: M, D and C in bytes (17 R367, R368). -/
def deckMap (s : State) : Nat × Nat × Nat := mapOf (baseImage s)

def deviceId (s : State) : Nat := if s.cfg.loaded then leAt (cfgSection s 1) 0 2 % 4096 else 0

def deckTop : Nat := 2 ^ 41
def reserveBase : Nat := 0x1E000000000

/-- The regions of R367. -/
inductive Region where
  | device | mirrored | partner | plain | copyPool | reserve | outside
deriving DecidableEq, Repr

/-- The region that a Deck offset lies in, with the plain region's withdrawn part moved down (17 R367, R384). -/
def regionOf (s : State) (a : Nat) : Region :=
  let (m, d, c) := deckMap s
  let top := reserveBase - s.deck.withdrawn * gib
  if a < d then .device
  else if a < m then .mirrored
  else if a < 2 ^ 40 then .plain
  else if a < 2 ^ 40 + m then .partner
  else if a < top - c then .plain
  else if a < top then .copyPool
  else if a < deckTop then .reserve
  else .outside

/-- The first Deck offset of the copy pool (17 R367, R384). -/
def poolStart (s : State) : Nat := reserveBase - s.deck.withdrawn * gib - (deckMap s).2.2

/-- A context's sample-cache pages and, after them, its row stage in the copy pool (06 R111, 09 R191, 17 R368). -/
def cacheBase (s : State) (x : Ctx) : Nat := poolStart s + x.poolBase
def stageBase (s : State) (x : Ctx) : Nat := cacheBase s x + 65536 * x.cachePages

/-- The interval [a, a + n) lies inside one region that contexts reach (17 R367). -/
def deckReachable (s : State) (a n : Nat) : Bool :=
  let (m, d, c) := deckMap s
  let top := reserveBase - s.deck.withdrawn * gib - c
  (decide (d ≤ a) && decide (a + n ≤ 2 ^ 40)) || (decide (2 ^ 40 + m ≤ a) && decide (a + n ≤ top))

/-- The interval lies in the mirrored region. -/
def inMirrored (s : State) (a n : Nat) : Bool :=
  let (m, d, _) := deckMap s
  decide (d ≤ a) && decide (a + n ≤ m)

/-- The interval lies wholly in one of the plain region's two intervals (17 R367). -/
def inPlain (s : State) (a n : Nat) : Bool :=
  let (m, _, c) := deckMap s
  let top := reserveBase - s.deck.withdrawn * gib - c
  (decide (m ≤ a) && decide (a + n ≤ 2 ^ 40)) || (decide (2 ^ 40 + m ≤ a) && decide (a + n ≤ top))

/-- A host interval lies inside one host window (17 R373). -/
def inHostWindow (s : State) (a n : Nat) : Bool :=
  let w := cfgSection s 2
  (List.range (w.length / 16)).any
    (fun k => decide (leAt w (16 * k) 8 ≤ a) && decide (a + n ≤ leAt w (16 * k) 8 + leAt w (16 * k + 8) 8))

/-- NVMe target `t`: port, controller, namespace, first LBA, LBA count, context (17 R379, 20 R435). -/
def nvmeTarget (s : State) (t : Nat) : Option (Nat × Nat × Nat × Nat × Nat × Nat) :=
  let w := cfgSection s 3
  if 32 * t + 32 ≤ w.length then
    let b := w.drop (32 * t)
    some (leAt b 0 1, leAt b 1 1, leAt b 4 4, leAt b 8 8, leAt b 16 8, leAt b 24 2)
  else none

/-- The route entry of a destination (16 R345). -/
def routeOf (s : State) (dst : Nat) : Nat := leAt (cfgSection s 4) (4 * (dst % 4096)) 4

/-! ### Addresses -/

def hostBase : Nat := 0x8000000000000
def scratchBase : Nat := 0x4000000000000
def scratchSize : Nat := 2 ^ 21

/-- Global addresses: device id in bits 63:52, local address in bits 51:0 (16 R343). -/
def gDev (a : Nat) : Nat := bitsAt a 52 12
def gLocal (a : Nat) : Nat := a % 2 ^ 52
def gAddr (dev loc : Nat) : Nat := dev * 2 ^ 52 + loc

def isOwn (s : State) (a : Nat) : Bool := gDev a == deviceId s

/-- The address names this device's Deck. -/
def isDeck (s : State) (a : Nat) : Bool := isOwn s a && decide (gLocal a < deckTop) && decide (a < 2 ^ 64)

/-- The address names this device's host memory (17 R372). -/
def isHost (s : State) (a : Nat) : Bool :=
  isOwn s a && decide (hostBase ≤ gLocal a) && decide (gLocal a < hostBase + 2 ^ 44) && decide (a < 2 ^ 64)

/-- An extent touches Pier scratch or a reserved local address (17 R372). -/
def localBad (loc n : Nat) : Bool :=
  !(decide (loc + n ≤ deckTop) || (decide (hostBase ≤ loc) && decide (loc + n ≤ hostBase + 2 ^ 44)))

/-- Addresses of NVMe data inside the model: 2^64 above the target and offset of R379. -/
def nvmeBase : Nat := 2 ^ 64

/-- A directory location (09 R180) as an address of the model: Deck and host locations as global addresses of this
device, NVMe locations above 2^64. -/
def locAddr (s : State) (l : Nat) : Nat :=
  let body := l % 2 ^ 62
  match bitsAt l 62 2 with
  | 0 => gAddr (deviceId s) (body % 2 ^ 52)
  | 1 => gAddr (deviceId s) (hostBase + body % 2 ^ 44)
  | _ => nvmeBase + body

/-- The location form of R180 from a tier and body. -/
def mkLoc (tier body : Nat) : Nat := tier * 2 ^ 62 + body

end Sys2Proof.Machine
end

