-- ==== Sys2Proof/Machine/Ops.lean ====
section
/-!
DEFINITION. The named operations over memory, logs, links and outside accesses that the meanings share: reading and
writing the Deck with its mirrored copy and its bad blocks (17 R365 to R370, R461), log rings (15 R325), the event
trace (02 R28), the healing log (18 R404), and issuing accesses to host memory, other devices and NVMe (14 R310,
16 R351 to R353, 17 R378).
-/

namespace Sys2Proof.Machine

open Sys2Proof

/-- Time since boot in ticks. -/
def now (s : State) : Nat := s.clock.ticks

/-! ### Sparse memory -/

/-- One byte: what is listed, or what an unlisted address reads as. -/
def memGet (d : Nat → Byte) (m : Mem) (a : Nat) : Byte := NMap.getD m a (d a)

/-- Write one byte; writing what an unlisted address reads as removes the entry. -/
def memSet (d : Nat → Byte) (m : Mem) (a : Nat) (b : Byte) : Mem :=
  if b = d a then NMap.erase m a else NMap.set m a b

/-- Write consecutive bytes. -/
def memPut (d : Nat → Byte) (m : Mem) (a : Nat) : List Byte → Mem
  | [] => m
  | b :: bs => memPut d (memSet d m a b) (a + 1) bs

/-- Read consecutive bytes. -/
def memTake (d : Nat → Byte) (m : Mem) (a n : Nat) : List Byte := (List.range n).map (fun k => memGet d m (a + k))

/-- The canonical form: addresses rising, no entry equal to what an unlisted address reads as. -/
def Memory.wf (d : Nat → Byte) (m : Mem) : Bool := NMap.sorted m && m.all (fun c => c.2 != d c.1)

def zeroByte (_ : Nat) : Byte := 0#8

/-! ### The Deck -/

/-- What a byte of the Deck that nothing has written reads as (log entry 5). -/
def deckDefault (s : State) (a : Nat) : Byte := if s.deck.gen = 0 then 0#8 else Config.deckByte s.deck.gen a

/-- The channel of a Deck offset (03 R45). -/
def channelOf (a : Nat) : Nat :=
  let u := a / 256
  let off := u / 512
  (bitsAt u 0 9 ^^^ bitsAt off 0 9 ^^^ bitsAt off 9 9 ^^^ (bitsAt off 18 6 * 8)) % 512

def partnerOf (a : Nat) : Nat := a ^^^ 2 ^ 40

/-- A read of the byte finds its block uncorrectable, or on a displaced unit that is not yet filled (17 R365, R383). -/
def badAt (s : State) (a : Nat) : Bool :=
  s.deck.bad.contains (a / 64) ||
  (decide (a < reserveBase) && s.deck.unfilled.contains (channelOf a) && !(s.deck.healed.contains (a / 64)))

def isMirrored (s : State) (a : Nat) : Bool := decide (a < (deckMap s).1)

/-- The offset of the other copy of a mirrored byte (17 R367, R369). -/
def twinOf (s : State) (a : Nat) : Option Nat :=
  let m := (deckMap s).1
  if a < m ∨ (2 ^ 40 ≤ a ∧ a < 2 ^ 40 + m) then some (partnerOf a) else none

def deckRaw (s : State) (a : Nat) : Byte := memGet (deckDefault s) s.deck.mem a

/-- What a read of one Deck byte returns (17 R369, R370). -/
def deckByteAt (s : State) (a : Nat) : Byte :=
  if badAt s a then
    match twinOf s a with
    | some b => if badAt s b then 0#8 else deckRaw s b
    | none => 0#8
  else deckRaw s a

/-- A read of the byte finds no good copy (17 R369, R370). -/
def unreadable (s : State) (a : Nat) : Bool := badAt s a && (twinOf s a).elim true (badAt s)

def deckRead (s : State) (a n : Nat) : List Byte := (List.range n).map (fun k => deckByteAt s (a + k))

/-- The blocks that an extent touches. -/
def blocksOf (a n : Nat) : List Nat := if n = 0 then [] else (List.range ((a + n - 1) / 64 - a / 64 + 1)).map (· + a / 64)

/-- Uncorrectable blocks of a channel in the last 1,048,576 ticks (17 R382). -/
def noteBlockError (s : State) (ch : Nat) : State :=
  let ts := (NMap.getD s.deck.errTicks ch []).filter (fun t => decide (now s < t + 1048576)) ++ [now s]
  { s with deck := { s.deck with errTicks := NMap.set s.deck.errTicks ch ts } }

/-- A read finds a block uncorrectable (17 R365). -/
def countBad (s : State) (b : Nat) : State := noteBlockError (event (bump s ctDeckUncorr 1) evDeck 0) (channelOf (b * 64))

/-- A write that covers only part of a bad block reads the block first (17 R461). -/
def readPartly (s : State) (a n : Nat) : State :=
  (blocksOf a n).foldl (fun s b =>
    if badAt s (b * 64) && !(decide (a ≤ b * 64) && decide (b * 64 + 64 ≤ a + n)) then countBad s b else s) s

/-- Before a write: each bad block that it touches gets the bytes a read would return, and reads good from then on;
a partly covered plain block outside the copy pool counts as lost (17 R461). -/
def healBlocks (s : State) (a n : Nat) : State :=
  (blocksOf a n).foldl (fun s b =>
    if badAt s (b * 64) then
      let whole := decide (a ≤ b * 64) && decide (b * 64 + 64 ≤ a + n)
      let old := deckRead s (b * 64) 64
      let s1 := { s with deck := { s.deck with
        mem := memPut (deckDefault s) s.deck.mem (b * 64) old
        bad := s.deck.bad.filter (· != b)
        healed := if s.deck.unfilled.contains (channelOf (b * 64)) then s.deck.healed ++ [b] else s.deck.healed } }
      if !whole && (twinOf s (b * 64)).isNone && regionOf s (b * 64) != .copyPool then bump s1 ctUnprotected 1 else s1
    else s) s

/-- Write Deck bytes in one place, over bad blocks made whole first (17 R461). -/
def deckCopy (s : State) (a : Nat) (bs : List Byte) : State :=
  let s1 := healBlocks s a bs.length
  { s1 with deck := { s1.deck with mem := memPut (deckDefault s1) s1.deck.mem a bs } }

/-- Write Deck bytes; what lies in the device and mirrored regions is written in both places (17 R369). -/
def deckPut (s : State) (a : Nat) (bs : List Byte) : State :=
  let s1 := deckCopy (readPartly s a bs.length) a bs
  deckCopy s1 (partnerOf a) (bs.take ((deckMap s).1 - a))

/-- The block lies in a group that waits for a rebuild or has one. -/
def inRebuild (s : State) (b : Nat) : Bool :=
  s.heal.rebuilds.any (fun r => r.2.extents.any (fun g => decide (g.1 ≤ b * 64) && decide (b * 64 < g.1 + g.2)))

/-- Cut bytes at the boundaries of blocks. -/
def blockParts (a : Nat) (bs : List Byte) : List (Nat × List Byte) :=
  (blocksOf a bs.length).map (fun b =>
    let lo := max a (b * 64)
    (lo, (bs.drop (lo - a)).take (min (a + bs.length) (b * 64 + 64) - lo)))

/-- A part covers only part of a bad block of a group under rebuild: it waits (17 R461). -/
def partHeld (s : State) (q : Nat × List Byte) : Bool :=
  decide (q.2.length < 64) && badAt s (q.1 / 64 * 64) && inRebuild s (q.1 / 64)

/-- Write Deck bytes for an owner; what must wait for a rebuild is kept until it has ended (17 R461). -/
def deckWriteParts (s : State) (own : Owner) (a : Nat) (bs : List Byte) : State :=
  let (wait, now_) := (blockParts a bs).partition (partHeld s)
  let s1 := now_.foldl (fun s q => deckPut s q.1 q.2) s
  { s1 with deck := { s1.deck with held := s1.deck.held ++ wait.map (fun q => (q.1, q.2, own)) } }

/-- Parts of a write that wait for a rebuild wait for no owner any more. -/
def freeHeld (s : State) (p : Owner → Bool) : State :=
  { s with deck := { s.deck with held := s.deck.held.map (fun q => if p q.2.2 then (q.1, q.2.1, .free 0) else q) } }

/-- Write Deck bytes that the device itself places. -/
def deckWrite (s : State) (a : Nat) (bs : List Byte) : State :=
  if s.heal.rebuilds.isEmpty then deckPut s a bs else deckWriteParts s (.free 0) a bs

/-! ### Stamps, logs and the event trace -/

def stamp (s : State) : Nat := s.clock.count

/-- Replace a context. -/
def setCtx (s : State) (c : Nat) (x : Ctx) : State := { s with ctxs := NMap.set s.ctxs c x }

def modCtx (s : State) (c : Nat) (f : Ctx → Ctx) : State := { s with ctxs := NMap.modify s.ctxs c f }

def modRing (s : State) (c r : Nat) (f : Ring → Ring) : State :=
  modCtx s c (fun x => { x with rings := NMap.modify x.rings r f })

def getRing (s : State) (c r : Nat) : Option Ring :=
  (NMap.find? s.ctxs c).bind (fun x => NMap.find? x.rings r)

def modDesc (s : State) (c r i : Nat) (f : Desc → Desc) : State :=
  modRing s c r (fun x => { x with descs := NMap.modify x.descs i f })

def getDesc (s : State) (c r i : Nat) : Option Desc := (getRing s c r).bind (fun x => NMap.find? x.descs i)

def modItem (s : State) (i : Nat) (f : Item → Item) : State :=
  { s with sched := { s.sched with items := NMap.modify s.sched.items i f } }

def getItem (s : State) (i : Nat) : Option Item := NMap.find? s.sched.items i

/-- A Pier, fresh when nothing has used it. -/
def getPier (s : State) (p : Nat) : Pier := NMap.getD s.piers p Pier.fresh

def setPier (s : State) (p : Nat) (x : Pier) : State := { s with piers := NMap.set s.piers p x }

/-! ### Outside accesses -/

/-- A Kiduner header (14 R309). -/
def kidHdr (op mod_ tag len addr : Nat) : List Byte :=
  natLE op 1 ++ natLE mod_ 1 ++ natLE tag 2 ++ natLE len 4 ++ natLE addr 8

/-- A Span header (16 R347). -/
def spanHdrBytes (h : SpanHdr) : List Byte :=
  natLE h.opcode 1 ++ natLE h.op 1 ++ natLE (h.channel + 8 * h.hops + (if h.resend then 128 else 0)) 1 ++
  natLE 0 1 ++ natLE h.src 2 ++ natLE h.dst 2 ++ natLE h.context 2 ++ natLE h.queue 2 ++ natLE h.seq 4 ++
  natLE h.length 4 ++ natLE h.step 4 ++ natLE h.address 8

/-- The link carries traffic (14 R300, R315). -/
def linkUp (l : Link) : Bool := l.st == .active || l.st == .nap

/-- Frames pass: traffic in ACTIVE and Nap, the first frames in ALIGN and in RETRAIN's ALIGN (14 R300). -/
def framesRun (l : Link) : Bool := linkUp l || l.st == .align || (l.st == .retrain && l.course == .realign)

/-- The channel of a packet's header: REQ 0, RSP 1 (14 R308, R310; 16 R348). -/
def packetChannel (p : Packet) : Nat := if leAt p.hdr 0 1 < 0x20 then 0 else 1

/-- The data slots of a packet in ascending address order, the last one filled up with zeros: WRITE_DATA with a request,
READ_DATA with an answer (14 R308). -/
def packetSlots (p : Packet) : List (Nat × Nat × List Byte) :=
  (chunksOf 256 p.data).map (fun d => (1 + packetChannel p, if p.hdr.length = 16 then leAt p.hdr 2 2 else 0,
    d ++ zeros (256 - d.length)))

/-- Credits that the far end has returned and this end has not used (14 R304, R308). -/
def creditsLeft (l : Link) (k : Nat) : Nat := (l.crFar.getD k 0 + 65536 - l.crUsed.getD k 0 % 65536) % 65536

/-- Count up one of four cumulative credit fields (14 R304). -/
def addCredit (cs : List Nat) (k n : Nat) : List Nat := cs.set k ((cs.getD k 0 + n) % 65536)

/-- The packets whose headers go into a frame with `n` places of 16 bytes, and those that wait: each channel keeps its
order and waits for its own credits alone (14 R303, R308). -/
def pickHdrs : Nat → List Nat → List Packet → List Packet × List Packet
  | _, _, [] => ([], [])
  | n, left, p :: ps =>
    let k := packetChannel p
    if n < p.hdr.length / 16 then ([], p :: ps)
    else if left.getD k 0 = 0 then
      let r := pickHdrs n left ps
      (r.1, p :: r.2)
    else
      let r := pickHdrs (n - p.hdr.length / 16) (left.set k (left.getD k 0 - 1)) ps
      (p :: r.1, r.2)

/-- A frame of the next sequence number, with the link fields of this moment (14 R304). -/
def newFrame (l : Link) (kind : Nat) (hdrs : List Packet) (slots : List (Nat × Nat × List Byte)) (timing : Option Nat) :
    Sent :=
  { seq := l.txSeq, ack := l.rxSeq, kind := kind, credits := l.crGiven, hdrs := hdrs, slots := slots, timing := timing }

/-- Send a frame, and keep it until it is acknowledged (14 R306). -/
def putFrame (l : Link) (f : Sent) : Link :=
  { l with replay := l.replay ++ [f], txSeq := (l.txSeq + 1) % 65536
           crUsed := addCredit (f.hdrs.foldl (fun cs p => addCredit cs (packetChannel p) 1) l.crUsed) 3 f.slots.length
           replayAsks := l.replayAsks + (if f.kind = 2 then 1 else 0) }

/-- The next frame with something to carry goes out: a link request, the headers that have places and credits, and the data
slots that have credits, while fewer than 64 frames are unacknowledged (14 R304, R306, R308). -/
def sendNext (l : Link) : Option Link :=
  if !(framesRun l) || 64 ≤ l.replay.length then none
  else
    let go := linkUp l && !l.holding
    let r := if go then pickHdrs 7 ((List.range 3).map (creditsLeft l)) l.queue else ([], l.queue)
    let all := l.slots ++ r.1.flatMap packetSlots
    let n := if go then min 119 (creditsLeft l 3) else 0
    if r.1.isEmpty && (all.take n).isEmpty && l.asks.isEmpty then none
    else some (putFrame { l with queue := r.2, slots := all.drop n, asks := l.asks.drop 1 }
      (newFrame l (l.asks.headD 1) r.1 (all.take n) none))

def pumpFuel : Nat → Link → Link
  | 0, l => l
  | f + 1, l => match sendNext l with
    | none => l
    | some l1 => pumpFuel f l1

/-- Send what can go: at most 64 frames stand unacknowledged (14 R306). -/
def pump (l : Link) : Link := pumpFuel 64 l

/-- Hand a packet to the Kiduner link. -/
def kidSend (s : State) (p : Packet) : State :=
  { s with kidLink := pump { s.kidLink with queue := s.kidLink.queue ++ [p] } }

def getSpanLink (s : State) (p : Nat) : Link := NMap.getD s.spanLinks p Link.reset

def setSpanLink (s : State) (p : Nat) (l : Link) : State := { s with spanLinks := NMap.set s.spanLinks p l }

/-- Hand a packet to a Span port. -/
def spanSend (s : State) (port : Nat) (p : Packet) : State :=
  let l := getSpanLink s port
  setSpanLink s port (pump { l with queue := l.queue ++ [p] })

/-- The ACTIVE ports of a port group, ascending (16 R351). -/
def activePorts (s : State) (mask : Nat) : List Nat :=
  (List.range 8).filter (fun p => bitAt mask p && (getSpanLink s p).st == .active)

/-- The ports that carry traffic to a destination: of the primary group, or of the alternate when none of the primary
is ACTIVE (16 R345, R351). -/
def portsTo (s : State) (dst : Nat) : List Nat :=
  let r := routeOf s dst
  let a := activePorts s (bitsAt r 0 8)
  if a.isEmpty then activePorts s (bitsAt r 8 8) else a

def hopsTo (s : State) (dst : Nat) : Nat := bitsAt (routeOf s dst) 16 4

def outKey (dst ch : Nat) : Nat := dst * 8 + ch

def SpanOut.fresh : SpanOut := { next := 0, open_ := [], waiting := [] }

/-- Put a request of a (destination, channel) on the wire with the next seq (16 R351, R353). -/
def spanIssue (s : State) (h : SpanHdr) (data : List Byte) (acc : Nat) : State :=
  let k := outKey h.dst h.channel
  let o := NMap.getD s.span.outs k SpanOut.fresh
  if 64 ≤ o.open_.length then
    { s with span := { s.span with outs := NMap.set s.span.outs k { o with waiting := o.waiting ++ [(h, data, acc)] } } }
  else
    let ports := portsTo s h.dst
    let port := if ports.isEmpty then 255 else ports.getD (h.channel % ports.length) 0
    let h1 := { h with seq := o.next }
    let q : SpanReq := { seq := o.next, hdr := h1, data := data, acc := acc, port := port, issued := s.clock.ticks,
                         first := s.clock.ticks }
    let s1 := { s with span := { s.span with
      outs := NMap.set s.span.outs k { o with next := (o.next + 1) % 2 ^ 32, open_ := o.open_ ++ [q] } } }
    if port = 255 then s1 else spanSend s1 port { hdr := spanHdrBytes h1, data := data }

/-- A spread request takes the channel `r mod a`, `r` counting the spread requests to its destination (16 R351); with no
port ACTIVE it keeps its own. -/
def spreadChannel (s : State) (d ch : Nat) : Nat × State :=
  let r := NMap.getD s.span.spread d 0
  let a := (portsTo s d).length
  (if a = 0 then ch else r % a, { s with span := { s.span with spread := NMap.set s.span.spread d (r + 1) } })

/-- The lowest Kiduner tag that is free (14 R309). -/
def freeTag (s : State) : Option Nat := NMap.freeFrom s.kid.tags 0 4096

def modAcc (s : State) (i : Nat) (f : Acc → Acc) : State :=
  { s with kid := { s.kid with accs := NMap.modify s.kid.accs i f } }

/-- An access that fails before it is issued; its owner hears at the end of the step (16 R346, 17 R373). -/
def failAtOnce (s : State) (i status : Nat) : State :=
  { s with kid := { s.kid with instant := s.kid.instant ++ [(i, status)] } }

def nvmeKey (port ctrl : Nat) : Nat := port * 16 + ctrl

def NvmeCtl.fresh : NvmeCtl :=
  { life := .ready, timeouts := 0, cmds := [], landing := [], sqTail := 0, cqHead := 0, phase := true, nextCid := 0 }

/-- Put an access on its way: over Kiduner, over Span or to an NVMe controller. -/
def launch (s : State) (i : Nat) : State :=
  match NMap.find? s.kid.accs i with
  | none => s
  | some a =>
    let s := modAcc s i (fun a => { a with st := .flying })
    if nvmeBase ≤ a.addr then
      match nvmeTarget s (bitsAt (a.addr - nvmeBase) 57 5) with
      | none => failAtOnce s i 3
      | some (port, ctrl, _) =>
        let k := nvmeKey port ctrl
        let c := NMap.getD s.nvme k NvmeCtl.fresh
        if c.life = .lost then failAtOnce s i 4
        else
          let c1 := { c with cmds := NMap.set c.cmds c.nextCid i, nextCid := (c.nextCid + 1) % 65536,
                             sqTail := (c.sqTail + 1) % 1024 }
          { s with nvme := NMap.set s.nvme k c1 }
    else if isOwn s a.addr then
      let h := gLocal a.addr - hostBase
      if a.owner != .mbx && !(inHostWindow s h a.len) then failAtOnce s i 3
      else match freeTag s with
      | none => { s with kid := { s.kid with waiting := s.kid.waiting ++ [i] } }
      | some t =>
        let op := if a.write then 4 else if a.shared then 2 else 1
        let s1 := { s with kid := { s.kid with tags := NMap.set s.kid.tags t i } }
        kidSend s1 { hdr := kidHdr op 0 t a.len h, data := if a.write then a.data else [] }
    else
      let d := gDev a.addr
      if hopsTo s d = 0 then failAtOnce s i 3
      else
        let h0 : SpanHdr := {
          opcode := if a.write then 1 else 2, op := 0, channel := 0, hops := 0, resend := false,
          src := deviceId s, dst := d, context := a.context, queue := 0, seq := 0, length := a.len, step := 0,
          address := a.addr }
        match a.tmpl with
        | none => spanIssue s h0 (if a.write then a.data else []) i
        | some (t, spread) =>
          let (c, s1) := if spread then spreadChannel s d t.channel else (t.channel, s)
          spanIssue s1 { t with channel := c, src := deviceId s, dst := d, context := a.context, length := a.len, seq := 0 }
            (if a.write then a.data else []) i

/-- The Pier that runs an item. -/
def pierOf (s : State) (id : Nat) : Option Nat :=
  (List.find? (fun p => p.2.item == some id) s.piers).map (·.1)

/-- The Pier whose engines make an access: the one that runs its item, or that carries its stream block. -/
def accPier (s : State) (o : Owner) : Option Nat :=
  match o with
  | .item i | .row i | .itemPut i | .itemMerge i => pierOf s i
  | .itemAtomic i _ | .signal i _ => pierOf s i
  | .stream c k b => (((NMap.find? s.ctxs c).bind (fun x => NMap.find? x.streams k)).bind (fun t =>
      List.find? (fun y => y.index == b && decide (y.pier < 256)) t.blocks)).map (·.pier)
  | _ => none

/-- The hub port that a Pier's light messages to a place outside the device go to: Kiduner, Span or the Causeway engine
(03 R39; which port of a kind a Pier uses is log entry 158). -/
def hubPort (s : State) (p a : Nat) : Nat :=
  if nvmeBase ≤ a then 268 + p % 2 else if isOwn s a then 256 + p % 8 else 264 + p % 4

/-- Queue a light message: at most two per destination, a third waits in its engine (03 R47). -/
def lightPost (s : State) (src dst i : Nat) : State :=
  let p := getPier s src
  let q := NMap.getD p.light dst []
  if q.length < 2 then setPier s src { p with light := NMap.set p.light dst (q ++ [i]) }
  else setPier s src { p with lightWait := NMap.set p.lightWait dst (NMap.getD p.lightWait dst [] ++ [i]) }

/-- Give a new access a number and put it on its way: from a Pier, one of 256 bytes or less takes the light path (03 R46). -/
def issue (s : State) (a : Acc) : State :=
  let i := s.kid.nextAcc
  let s1 := { s with kid := { s.kid with accs := NMap.set s.kid.accs i a, nextAcc := i + 1 } }
  match (if a.len ≤ 256 && s.trestle.on then accPier s a.owner else none) with
  | some p => lightPost s1 p (hubPort s p a.addr) i
  | none => launch s1 i

/-- A read of at most 65,536 bytes. -/
def accRead (s : State) (owner : Owner) (ctx addr len : Nat) : Acc :=
  { owner := owner, addr := addr, len := len, write := false, data := [], shared := false, context := ctx,
    tmpl := none, first := s.clock.ticks, st := .flying }

def accWrite (s : State) (owner : Owner) (ctx addr : Nat) (data : List Byte) : Acc :=
  { owner := owner, addr := addr, len := data.length, write := true, data := data, shared := false, context := ctx,
    tmpl := none, first := s.clock.ticks, st := .flying }

/-- Pieces of at most 65,536 bytes of an extent. -/
def pieces (addr len : Nat) : List (Nat × Nat) :=
  (List.range (ceilDiv len 65536)).map (fun k => (addr + 65536 * k, min 65536 (len - 65536 * k)))

/-- Read an extent outside the device in pieces; answers how many were issued. -/
def issueReads (s : State) (owner : Owner) (ctx addr len : Nat) : State :=
  (pieces addr len).foldl (fun s p => issue s (accRead s owner ctx p.1 p.2)) s

/-- Write bytes outside the device in pieces. -/
def issueWrites (s : State) (owner : Owner) (ctx addr : Nat) (data : List Byte) : State :=
  (pieces addr data.length).foldl
    (fun s p => issue s (accWrite s owner ctx p.1 ((data.drop (p.1 - addr)).take p.2))) s

/-- Write at a local place that the device itself chose: the Deck at once, host memory by a WRITE.  Answers whether
the acknowledgement is still to come. -/
def placeWrite (s : State) (owner : Owner) (ctx addr : Nat) (data : List Byte) : State × Bool :=
  if isDeck s addr then (deckWrite s (gLocal addr) data, false)
  else (issueWrites s owner ctx addr data, true)

/-! ### Logs -/

def logSize (which : Nat) : Nat := if which = 2 then 32 else 64

def ctxLog (x : Ctx) (which : Nat) : Log := if which = 0 then x.qlog else if which = 1 then x.hlog else x.trace

def setCtxLog (x : Ctx) (which : Nat) (l : Log) : Ctx :=
  if which = 0 then { x with qlog := l } else if which = 1 then { x with hlog := l } else { x with trace := l }

def logFull (l : Log) : Bool := decide (2 ^ l.log2 ≤ (l.produced + 2 ^ 32 - l.head) % 2 ^ 32)

def entryAddr (l : Log) (which : Nat) : Nat := l.base + 64 + (l.produced % 2 ^ l.log2) * logSize which

def logHeaderBytes (n : Nat) : List Byte := natLE n 8 ++ zeros 56

/-- An entry of a log was acknowledged: produced moves on and its header is written (15 R325). -/
def logAcked (s : State) (c which : Nat) : State :=
  match NMap.find? s.ctxs c with
  | none => s
  | some x =>
    let l := ctxLog x which
    let l1 := { l with acked := l.acked + 1 }
    if l1.hdrBusy then setCtx s c (setCtxLog x which l1)
    else
      (placeWrite (setCtx s c (setCtxLog x which { l1 with hdrBusy := !(isDeck s l1.base) }))
        (.logHeader c which) c l1.base (logHeaderBytes l1.acked)).1

/-- Count an entry that its log had no room for (06 R110, 12 R263, 15 R339). -/
def logDropped (s : State) (which : Nat) : State :=
  let s1 := event s evRing 2
  if which = 0 then event (bump s1 ctDecodeLost 1) evDecode 1
  else if which = 1 then event (bump s1 ctHaltLost 1) evStream 5
  else s1

/-- Append an entry to a context's log (15 R325). -/
def logWrite (s : State) (c which : Nat) (entry : List Byte) : State :=
  match NMap.find? s.ctxs c with
  | none => s
  | some x =>
    let l := ctxLog x which
    if l.log2 = 0 then s
    else if logFull l then logDropped s which
    else
      let s1 := setCtx s c (setCtxLog x which { l with produced := (l.produced + 1) % 2 ^ 32 })
      let (s2, wait) := placeWrite s1 (.log c which) c (entryAddr l which) entry
      if wait then s2 else logAcked s2 c which

/-- Trace sources of R28. -/
abbrev srcTollgate : Nat := 0x100
abbrev srcScheduler : Nat := 0x101
abbrev srcCauseway : Nat := 0x102
abbrev srcTollhouse : Nat := 0x103

/-- Take a stamp into the event trace of a context that enables the kind; each source numbers its records over all
contexts (02 R27, R28). -/
def trace (s : State) (c src kind object detail : Nat) : State :=
  match NMap.find? s.ctxs c with
  | none => s
  | some x =>
    if bitAt x.traceMask kind then
      let q := NMap.getD s.sched.traceSeq src 0
      let entry := natLE (stamp s) 8 ++ natLE q 4 ++ natLE src 2 ++ natLE kind 1 ++
        natLE (if s.timing.locked then 0 else 1) 1 ++ natLE object 8 ++ natLE (deviceId s) 2 ++ natLE c 2 ++
        natLE detail 4
      logWrite { s with sched := { s.sched with traceSeq := NMap.set s.sched.traceSeq src ((q + 1) % 2 ^ 32) } } c 2 entry
    else s

/-- The fields of a healing-log entry that differ from zero (18 R404). -/
structure HealEntry where
  kind : Nat
  unit : Nat := 0
  context : Nat := 0
  ring : Nat := 0
  index : Nat := 0
  table : Nat := 0
  version : Nat := 0
  group : Nat := 0
  row : Nat := 0
  rows : Nat := 0
  detail : Nat := 0
  address : Nat := 0
deriving DecidableEq, Repr

def healBytes (s : State) (e : HealEntry) : List Byte :=
  natLE (stamp s) 8 ++ natLE e.kind 1 ++ natLE 0 1 ++ natLE e.unit 2 ++ natLE e.context 2 ++ natLE e.ring 1 ++
  natLE 0 1 ++ natLE e.index 4 ++ natLE e.table 8 ++ natLE e.version 8 ++ natLE e.group 4 ++ natLE e.row 8 ++
  natLE e.rows 4 ++ natLE e.detail 4 ++ natLE e.address 8

/-- The healing log has room for an entry. -/
def healRoom (s : State) : Bool :=
  decide (s.heal.log.log2 ≠ 0) && !(logFull { s.heal.log with head := rwGet s rwHealHead })

/-- Write an entry to the healing log, or drop and count it when the log is full (18 R404). -/
def healLog (s : State) (e : HealEntry) : State :=
  let l := s.heal.log
  if l.log2 = 0 then s
  else if healRoom s then
    let s1 := { s with heal := { s.heal with log := { l with produced := (l.produced + 1) % 2 ^ 32 } } }
    issueWrites s1 .heal 0 (entryAddr l 0) (healBytes s e)
  else event (bump s ctHealLost 1) evHeal 5

/-- Every command's meaning ends here: the next state. -/
abbrev ok (s : State) : Host.Outcome State Fault Refusal := .next s

end Sys2Proof.Machine
end

