-- ==== Sys2Proof/Machine/Slots.lean ====
section
/-!
DEFINITION. Owned slots: the table in force, the pairs that an endpoint owns of a channel, and the booking of a Pier's reads
into the queue between its two engines (03 R37, R39, R40, R42, R43).
-/

namespace Sys2Proof.Machine

open Sys2Proof

/-- F of slot table `t` of the configuration: its length over that of one frame (20 R435). -/
def framesOf (s : State) (t : Nat) : Nat := (cfgSection s (8 + t)).length / (1024 * 272 * 4)

/-- The slots of one cycle of table `t` (03 R39). -/
def cycleSlots (s : State) (t : Nat) : Nat := framesOf s t * 1024

/-- The slot counter stands at a cycle boundary (03 R39). -/
def atBoundary (s : State) : Bool :=
  let c := cycleSlots s s.trestle.table
  c != 0 && (s.trestle.slot - s.trestle.cycleBase) % c == 0

/-- The first slots of the pairs that endpoint `e` owns for channel `c` as in_src, over one cycle, ascending (03 R40, R41). -/
def ownedPairs (s : State) (t e c : Nat) : List Nat :=
  let tab := cfgSection s (8 + t)
  ((List.range (framesOf s t * 512)).map (2 * ·)).filter (fun k => leAt tab ((k * 272 + e) * 4) 4 % 1024 == c)

/-- The first pair of channel `c` that endpoint `e` owns at or after a slot and has not booked (03 R43). -/
def firstPair (s : State) (e c from_ : Nat) (taken : List Nat) : Option Nat :=
  let t := s.trestle
  let n := cycleSlots s t.table
  let own := ownedPairs s t.table e c
  let at_ := (from_ - t.cycleBase) / n
  ((List.range (taken.length + 2)).flatMap (fun j => own.map (fun k => t.cycleBase + (at_ + j) * n + k))).find?
    (fun k => decide (from_ ≤ k) && !(taken.contains k))

/-- The pairs that a Pier's queue has booked. -/
def bookedPairs (q : List QEntry) : List Nat := q.flatMap (fun e => (e.units.filter (fun u => !u.landed)).map (·.slot))

/-- Book units in order, each on the first free pair whose header slot lies ahead; none when the table gives the Pier no
pair of a unit's channel (03 R43). -/
def bookUnits (s : State) (p : Nat) : List Nat → List Nat → Option (List QUnit)
  | _, [] => some []
  | taken, u :: us =>
    (firstPair s p (channelOf (u * 256)) (s.trestle.slot + 192) taken).bind (fun k =>
      (bookUnits s p (k :: taken) us).map (fun r => { unit := u, slot := k, landed := false } :: r))

/-- Form queue entries of 1 to 16 units of one operator while the queue and the landing buffer have room (03 R37). -/
def formEntries (s : State) (p landing : Nat) : Nat → Pier → Pier
  | 0, y => y
  | f + 1, y =>
    match y.unbooked with
    | [] => y
    | (op, _) :: _ =>
      let us := (y.unbooked.takeWhile (fun u => u.1 == op)).take 16
      let held := y.queue.foldl (fun a e => a + e.units.length) 0
      if 64 ≤ y.queue.length || landing / 256 < held + us.length then y
      else match bookUnits s p (bookedPairs y.queue) (us.map (·.2)) with
        | none => y
        | some bs => formEntries s p landing f
            { y with queue := y.queue ++ [{ op := op, units := bs }], unbooked := y.unbooked.drop us.length }

/-- The execute engine retires complete entries strictly in queue order (03 R37). -/
def retire (q : List QEntry) : List QEntry := q.dropWhile (fun e => e.units.all (·.landed))

/-- One more unit of entry `k` has landed. -/
def landUnit (q : List QEntry) (k unit : Nat) : List QEntry :=
  q.mapIdx (fun j e => if j = k then { e with units := e.units.map (fun u => if u.unit = unit then { u with landed := true } else u) }
    else e)

/-- The units of a queue, booked again on the table in force where their data slot lies at or after the boundary
(03 R42). -/
def rebook (s : State) (p : Nat) (q : List QEntry) : List QEntry :=
  let b := s.trestle.slot
  let kept := (bookedPairs q).filter (fun k => decide (k < b))
  (q.foldl (fun (a : List Nat × List QEntry) e =>
    let r := e.units.foldl (fun (c : List Nat × List QUnit) u =>
      if u.landed || decide (u.slot < b) then (c.1, c.2 ++ [u])
      else match firstPair s p (channelOf (u.unit * 256)) u.slot c.1 with
        | some k => (k :: c.1, c.2 ++ [{ u with slot := k }])
        | none => (c.1, c.2 ++ [u])) (a.1, [])
    (r.1, a.2 ++ [{ e with units := r.2 }])) (kept, [])).2

/-- Every Pier's queue, booked again after a switch. -/
def rebookAll (s : State) : State :=
  { s with piers := s.piers.map (fun p => (p.1, { p.2 with queue := rebook s p.1 p.2.queue })) }

/-- An endpoint is in service: a Pier that is not lost, or a hub port (03 R51). -/
def endpointUp (s : State) (e : Nat) : Bool := if e < 256 then !(getPier s e).lost else decide (e < 272)

/-- The destination that the light rotation gives endpoint `e` in light pair `m` (03 R47). -/
def lightDest (e m : Nat) : Nat := (e + 1 + m % 271) % 272

end Sys2Proof.Machine
end

