-- ==== Sys2Proof/Machine/Check.lean ====
section
/-!
DEFINITION. Check values and the hash function of the device: CRC-32C (13 R285), CRC-64 (14 R305) and
H64 (07 R121).
-/

namespace Sys2Proof.Machine

open Sys2Proof

/-- One bit of a reflected CRC: shift right, and xor the polynomial when the bit shifted out is 1. -/
def crcBit {w : Nat} (poly c : BitVec w) : BitVec w :=
  if c.getLsbD 0 then (c >>> 1) ^^^ poly else c >>> 1

/-- Eight bits of a reflected CRC. -/
def crcByte {w : Nat} (poly c : BitVec w) (b : Byte) : BitVec w :=
  let c0 := c ^^^ b.setWidth w
  crcBit poly (crcBit poly (crcBit poly (crcBit poly
    (crcBit poly (crcBit poly (crcBit poly (crcBit poly c0)))))))

/-- CRC-32C: reflected polynomial 0x82F6_3B78, initial value and final xor all ones (R285). -/
def crc32c (bs : List Byte) : W32 :=
  (bs.foldl (crcByte 0x82F63B78#32) 0xFFFFFFFF#32) ^^^ 0xFFFFFFFF#32

/-- The polynomial 0x42F0_E1EB_A9EA_3693 of R305 with its bits reflected. -/
def crc64Poly : W64 := BitVec.reverse 0x42F0E1EBA9EA3693#64

/-- CRC-64 of a frame message: reflected, initial value and final xor all ones (R305). -/
def crc64 (bs : List Byte) : W64 :=
  (bs.foldl (crcByte crc64Poly) 0xFFFFFFFFFFFFFFFF#64) ^^^ 0xFFFFFFFFFFFFFFFF#64

/-- The five constants of R121. -/
def h64C0 : W64 := 0x6A3D1C5792E4B0F1#64
def h64C1 : W64 := 0xC2B74E913A6D5F0B#64
def h64C2 : W64 := 0x8F13A6D527C4E96B#64
def h64C3 : W64 := 0xB4F15C2E9A73D86D#64
def h64C4 : W64 := 0x2F0AD79C1E58B3C7#64

/-- One round of H64 over the word `w` (R121). -/
def h64Round (h w : W64) : W64 :=
  let k := ((w * h64C1).rotateLeft 31) * h64C2
  ((h ^^^ k).rotateLeft 27) * 5#64 + h64C4

/-- H64 of a byte string under a seed (R121). -/
def h64 (bs : List Byte) (seed : W64) : W64 :=
  let h0 := seed ^^^ h64C0 ^^^ (BitVec.ofNat 64 bs.length * h64C1)
  let h1 := (chunksOf 8 bs).foldl (fun h c => h64Round h (BitVec.ofNat 64 (leNat c))) h0
  let h2 := (h1 ^^^ (h1 >>> 33)) * h64C3
  h2 ^^^ (h2 >>> 29)

end Sys2Proof.Machine
end

