-- ==== Sys2Proof/Machine/Inflate.lean ====
section
/-!
DEFINITION. Reading a raw DEFLATE stream (RFC 1951) as 13 R278 requires: stored, fixed and dynamic blocks,
distances up to 32 KiB; and writing a stream of stored blocks.
-/

namespace Sys2Proof.Machine

open Sys2Proof

/-- How a decompression ends badly: a codec error, or output past the limit given (06 R106, 13 R282). -/
inductive DecErr where
  | codec
  | excess
  deriving DecidableEq, Repr

/-- A bit reader, least significant bit first: bits held, their count, and the bytes to come. -/
structure BitReader where
  buf : Nat
  cnt : Nat
  rest : List Byte
  deriving DecidableEq, Repr

/-- Pull whole bytes until `n` bits are held or the input ends. -/
def BitReader.fill (n : Nat) : Nat → BitReader → BitReader
  | 0, r => r
  | f + 1, r =>
    if r.cnt ≥ n then r
    else
      match r.rest with
      | [] => r
      | b :: bs => BitReader.fill n f ⟨r.buf + b.toNat <<< r.cnt, r.cnt + 8, bs⟩

/-- Take `n` bits; none when the input is too short. -/
def BitReader.take (n : Nat) (r : BitReader) : Option (Nat × BitReader) :=
  let r := BitReader.fill n (n / 8 + 1) r
  if r.cnt < n then none
  else some (r.buf % 2 ^ n, ⟨r.buf >>> n, r.cnt - n, r.rest⟩)

/-- A canonical Huffman code: symbols per length 0 to 15, and the symbols in code order. -/
structure HuffCode where
  counts : List Nat
  syms : List Nat
  deriving DecidableEq, Repr

def huffOfLengths (lens : List Nat) : HuffCode :=
  let idx := lens.zipIdx
  ⟨(List.range 16).map (fun l => lens.countP (· = l)),
   ((List.range 15).map (· + 1)).flatMap (fun l =>
     idx.filterMap (fun (x, i) => if x = l then some i else none))⟩

/-- Codes left unused; negative when the lengths are over-subscribed. -/
def huffLeft (h : HuffCode) : Int :=
  ((List.range 15).map (· + 1)).foldl (fun (left : Int) l => 2 * left - (h.counts.getD l 0 : Nat)) 1

/-- Complete, or a single code of one bit, or empty: the sets a decoder accepts. -/
def huffUsable (h : HuffCode) : Bool :=
  decide (huffLeft h = 0) ||
  (decide (huffLeft h > 0) && decide (h.syms.length ≤ 1) && decide (h.counts.getD 1 0 = h.syms.length))

/-- Decode one symbol bit by bit over the lengths 1 to 15. -/
def huffDecode (h : HuffCode) : Nat → Nat → Nat → Nat → Nat → BitReader → Option (Nat × BitReader)
  | 0, _, _, _, _, _ => none
  | f + 1, len, code, first, index, r =>
    match r.take 1 with
    | none => none
    | some (b, r) =>
      let code := code + b
      let c := h.counts.getD len 0
      if code < first + c then
        match h.syms[index + (code - first)]? with
        | some s => some (s, r)
        | none => none
      else huffDecode h f (len + 1) (2 * code) (2 * (first + c)) (index + c) r

def BitReader.sym (h : HuffCode) (r : BitReader) : Option (Nat × BitReader) :=
  huffDecode h 15 1 0 0 0 r

def lenBase : List Nat :=
  [3, 4, 5, 6, 7, 8, 9, 10, 11, 13, 15, 17, 19, 23, 27, 31, 35, 43, 51, 59, 67, 83, 99, 115, 131,
   163, 195, 227, 258]

def lenExtra : List Nat :=
  [0, 0, 0, 0, 0, 0, 0, 0, 1, 1, 1, 1, 2, 2, 2, 2, 3, 3, 3, 3, 4, 4, 4, 4, 5, 5, 5, 5, 0]

def distBase : List Nat :=
  [1, 2, 3, 4, 5, 7, 9, 13, 17, 25, 33, 49, 65, 97, 129, 193, 257, 385, 513, 769, 1025, 1537, 2049,
   3073, 4097, 6145, 8193, 12289, 16385, 24577]

def distExtra : List Nat :=
  [0, 0, 0, 0, 1, 1, 2, 2, 3, 3, 4, 4, 5, 5, 6, 6, 7, 7, 8, 8, 9, 9, 10, 10, 11, 11, 12, 12, 13, 13]

/-- Output so far, newest byte first, with its length. -/
structure OutBuf where
  rev : List Byte
  len : Nat
  deriving DecidableEq, Repr

def OutBuf.empty : OutBuf := ⟨[], 0⟩

def OutBuf.push (o : OutBuf) (b : Byte) : OutBuf := ⟨b :: o.rev, o.len + 1⟩

def OutBuf.append (o : OutBuf) (bs : List Byte) : OutBuf := ⟨bs.reverse ++ o.rev, o.len + bs.length⟩

/-- Copy `n` bytes from `dist` back, byte by byte. -/
def OutBuf.copy (dist : Nat) : Nat → OutBuf → OutBuf
  | 0, o => o
  | n + 1, o => OutBuf.copy dist n (o.push (o.rev.getD (dist - 1) 0))

/-- The symbols of one compressed block. -/
def inflateSyms (limit : Nat) (lit dst : HuffCode) :
    Nat → BitReader → OutBuf → Except DecErr (BitReader × OutBuf)
  | 0, _, _ => .error .codec
  | f + 1, r, o =>
    match r.sym lit with
    | none => .error .codec
    | some (s, r) =>
      if s < 256 then
        if o.len + 1 > limit then .error .excess
        else inflateSyms limit lit dst f r (o.push (BitVec.ofNat 8 s))
      else if s = 256 then .ok (r, o)
      else if s > 285 then .error .codec
      else
        match r.take (lenExtra.getD (s - 257) 0) with
        | none => .error .codec
        | some (x, r) =>
          let n := lenBase.getD (s - 257) 0 + x
          match r.sym dst with
          | none => .error .codec
          | some (d, r) =>
            if d > 29 then .error .codec
            else
              match r.take (distExtra.getD d 0) with
              | none => .error .codec
              | some (y, r) =>
                let dist := distBase.getD d 0 + y
                if dist > o.len then .error .codec
                else if o.len + n > limit then .error .excess
                else inflateSyms limit lit dst f r (OutBuf.copy dist n o)

def fixedLit : HuffCode :=
  huffOfLengths (List.replicate 144 8 ++ List.replicate 112 9 ++ List.replicate 24 7 ++
    List.replicate 8 8)

def fixedDist : HuffCode := huffOfLengths (List.replicate 30 5)

def clOrder : List Nat := [16, 17, 18, 0, 8, 7, 9, 6, 10, 5, 11, 4, 12, 3, 13, 2, 14, 1, 15]

/-- `n` three-bit code-length lengths. -/
def readThrees : Nat → BitReader → Option (List Nat × BitReader)
  | 0, r => some ([], r)
  | n + 1, r =>
    match r.take 3 with
    | none => none
    | some (x, r) =>
      match readThrees n r with
      | none => none
      | some (xs, r) => some (x :: xs, r)

/-- The run-length coded code lengths of a dynamic block; `acc` newest first. -/
def readLengths (h : HuffCode) (total : Nat) :
    Nat → BitReader → List Nat → Option (List Nat × BitReader)
  | 0, _, _ => none
  | f + 1, r, acc =>
    if acc.length = total then some (acc.reverse, r)
    else if acc.length > total then none
    else
      match r.sym h with
      | none => none
      | some (s, r) =>
        if s < 16 then readLengths h total f r (s :: acc)
        else if s = 16 then
          match acc, r.take 2 with
          | p :: _, some (x, r) => readLengths h total f r (List.replicate (3 + x) p ++ acc)
          | _, _ => none
        else if s = 17 then
          match r.take 3 with
          | some (x, r) => readLengths h total f r (List.replicate (3 + x) 0 ++ acc)
          | none => none
        else
          match r.take 7 with
          | some (x, r) => readLengths h total f r (List.replicate (11 + x) 0 ++ acc)
          | none => none

/-- The two codes of a dynamic block. -/
def readDynamic (r : BitReader) : Option (HuffCode × HuffCode × BitReader) :=
  match r.take 14 with
  | none => none
  | some (x, r) =>
    let nlen := x % 32 + 257
    let ndist := x / 32 % 32 + 1
    let ncode := x / 1024 + 4
    if nlen > 286 || ndist > 30 then none
    else
      match readThrees ncode r with
      | none => none
      | some (ls, r) =>
        let cl := huffOfLengths ((List.range 19).map (fun i =>
          match clOrder.idxOf? i with
          | some j => ls.getD j 0
          | none => 0))
        if huffLeft cl ≠ 0 then none
        else
          match readLengths cl (nlen + ndist) (nlen + ndist + 1) r [] with
          | none => none
          | some (all, r) =>
            let lit := huffOfLengths (all.take nlen)
            let dst := huffOfLengths (all.drop nlen)
            if all.getD 256 0 = 0 || !huffUsable lit || !huffUsable dst then none
            else some (lit, dst, r)

/-- One block: whether it is the final one, and what is left after it. -/
def inflateBlock (limit work : Nat) (r : BitReader) (o : OutBuf) : Except DecErr (Bool × BitReader × OutBuf) :=
  match r.take 3 with
  | none => .error .codec
  | some (h, r) =>
    let kind := h / 2
    let step : Except DecErr (BitReader × OutBuf) :=
      if kind = 0 then
        let r : BitReader := ⟨r.buf >>> (r.cnt % 8), r.cnt - r.cnt % 8, r.rest⟩
        match r.take 32 with
        | none => .error .codec
        | some (x, r) =>
          let n := x % 65536
          if x / 65536 ≠ 65535 - n then .error .codec
          else
            let held := natLE r.buf (r.cnt / 8) ++ r.rest
            if held.length < n then .error .codec
            else if o.len + n > limit then .error .excess
            else .ok (⟨0, 0, held.drop n⟩, o.append (held.take n))
      else if kind = 1 then inflateSyms limit fixedLit fixedDist work r o
      else if kind = 2 then
        match readDynamic r with
        | none => .error .codec
        | some (lit, dst, r) => inflateSyms limit lit dst work r o
      else .error .codec
    match step with
    | .error e => .error e
    | .ok (r, o) => .ok (h % 2 == 1, r, o)

/-- One block after another until the final one. -/
def inflateBlocks (limit work : Nat) :
    Nat → BitReader → OutBuf → Except DecErr (BitReader × OutBuf)
  | 0, _, _ => .error .codec
  | f + 1, r, o =>
    match inflateBlock limit work r o with
    | .error e => .error e
    | .ok (final, r, o) => if final then .ok (r, o) else inflateBlocks limit work f r o

/-- The output of a raw DEFLATE stream, stopped once it would pass `limit` (R278, R282). -/
def inflate (limit : Nat) (bs : List Byte) : Except DecErr (List Byte) :=
  let work := 8 * bs.length + 1
  match inflateBlocks limit work work ⟨0, 0, bs⟩ OutBuf.empty with
  | .error e => .error e
  | .ok (_, o) => .ok o.rev.reverse

/-! ### How a stream is written -/

/-- Bits that are still to be read. -/
def BitReader.left (r : BitReader) : Nat := r.cnt + 8 * r.rest.length

/-- The bits that the fixed code takes for a literal or length symbol. -/
def fixedBits (s : Nat) : Nat := if s < 144 then 8 else if s < 256 then 9 else if s < 280 then 7 else 8

/-- The bits that the fixed code would take for the symbols of a block, up to its end. -/
def fixedCost (lit dst : HuffCode) : Nat → BitReader → Nat
  | 0, _ => 0
  | f + 1, r =>
    match r.sym lit with
    | none => 0
    | some (s, r) =>
      if s < 256 then fixedBits s + fixedCost lit dst f r
      else if s = 256 then fixedBits s
      else
        let x := lenExtra.getD (s - 257) 0
        match (r.take x).bind (fun q => q.2.sym dst) with
        | none => 0
        | some (d, r) =>
          let y := distExtra.getD d 0
          match r.take y with
          | none => 0
          | some (_, r) => fixedBits s + x + 5 + y + fixedCost lit dst f r

/-- A block of `n` output bytes at `r` that takes `bits` is no longer than the others it is preferred to: a fixed one than the
stored one, a dynamic one than both (R278). -/
def blockShortest (work : Nat) (r : BitReader) (n bits : Nat) : Bool :=
  match r.take 3 with
  | none => false
  | some (h, r1) =>
    let stored := 3 + r1.left % 8 + 32 + 8 * n + (if 65535 < n then 40 else 0)
    decide (n ≤ 65536) &&
    (if h / 2 = 0 then true
     else if h / 2 = 1 then decide (bits < stored)
     else match readDynamic r1 with
       | some (lit, dst, r2) => decide (bits < stored) && decide (bits < 3 + fixedCost lit dst work r2)
       | none => false)

/-- Every block of a stream keeps the rules by which the device writes one (R278). -/
def blocksShortest (limit work : Nat) : Nat → BitReader → OutBuf → Bool
  | 0, _, _ => false
  | f + 1, r, o =>
    match inflateBlock limit work r o with
    | .error _ => false
    | .ok (final, r1, o1) =>
      blockShortest work r (o1.len - o.len) (r.left - r1.left) && (final || blocksShortest limit work f r1 o1)

/-- A DEFLATE stream of `n` bytes as the device writes it (R278). -/
def deflateWritten (n : Nat) (bs : List Byte) : Bool :=
  let work := 8 * bs.length + 1
  blocksShortest n work work ⟨0, 0, bs⟩ OutBuf.empty

/-- Stored blocks of at most 65,535 bytes each: a DEFLATE stream of any input (R278). -/
def storedBlocks : List (List Byte) → List Byte
  | [] => [1#8, 0#8, 0#8, 0xFF#8, 0xFF#8]
  | [b] => 1#8 :: natLE b.length 2 ++ natLE (65535 - b.length) 2 ++ b
  | b :: c :: bs =>
    0#8 :: natLE b.length 2 ++ natLE (65535 - b.length) 2 ++ b ++ storedBlocks (c :: bs)

def deflateStored (bs : List Byte) : List Byte := storedBlocks (chunksOf 65535 bs)

end Sys2Proof.Machine
end

