-- ==== Sys2Proof/Machine/Zstd.lean ====
section
/-!
DEFINITION. Reading one Zstandard frame (RFC 8878) as 13 R279 requires, its XXH64 content checksum, and
writing a frame of raw blocks.
-/

namespace Sys2Proof.Machine

open Sys2Proof

def xxP1 : W64 := 0x9E3779B185EBCA87#64
def xxP2 : W64 := 0xC2B2AE3D27D4EB4F#64
def xxP3 : W64 := 0x165667B19E3779F9#64
def xxP4 : W64 := 0x85EBCA77C2B2AE63#64
def xxP5 : W64 := 0x27D4EB2F165667C5#64

def xxRound (acc lane : W64) : W64 := (acc + lane * xxP2).rotateLeft 31 * xxP1

def xxMerge (acc v : W64) : W64 := (acc ^^^ xxRound 0 v) * xxP1 + xxP4

def w64Of (bs : List Byte) : W64 := BitVec.ofNat 64 (leNat bs)

/-- The tail of XXH64: 8, 4 and 1 bytes at a time. -/
def xxTail (acc : W64) (bs : List Byte) : W64 :=
  let a := (chunksOf 8 (bs.take (8 * (bs.length / 8)))).foldl (fun a c =>
    (a ^^^ xxRound 0 (w64Of c)).rotateLeft 27 * xxP1 + xxP4) acc
  let r := bs.drop (8 * (bs.length / 8))
  let b := if r.length ≥ 4 then
      (a ^^^ (w64Of (r.take 4) * xxP1)).rotateLeft 23 * xxP2 + xxP3 else a
  (if r.length ≥ 4 then r.drop 4 else r).foldl (fun a x =>
    (a ^^^ (x.setWidth 64 * xxP5)).rotateLeft 11 * xxP1) b

/-- XXH64 with seed zero. -/
def xxh64 (bs : List Byte) : W64 :=
  let full := 32 * (bs.length / 32)
  let stripe := fun (v : W64 × W64 × W64 × W64) (c : List Byte) =>
    (xxRound v.1 (w64Of (slice c 0 8)), xxRound v.2.1 (w64Of (slice c 8 8)),
     xxRound v.2.2.1 (w64Of (slice c 16 8)), xxRound v.2.2.2 (w64Of (slice c 24 8)))
  let start :=
    if bs.length < 32 then xxP5
    else
      let v := (chunksOf 32 (bs.take full)).foldl stripe (xxP1 + xxP2, xxP2, 0#64, 0#64 - xxP1)
      let s := v.1.rotateLeft 1 + v.2.1.rotateLeft 7 + v.2.2.1.rotateLeft 12 + v.2.2.2.rotateLeft 18
      xxMerge (xxMerge (xxMerge (xxMerge s v.1) v.2.1) v.2.2.1) v.2.2.2
  let h := xxTail (start + BitVec.ofNat 64 bs.length) (bs.drop full)
  let h := (h ^^^ (h >>> 33)) * xxP2
  let h := (h ^^^ (h >>> 29)) * xxP3
  h ^^^ (h >>> 32)

/-- A bit string read from its end: the bits as a number, and how many are left. -/
structure BackBits where
  val : Nat
  pos : Nat
  deriving DecidableEq, Repr

/-- Open a backward bit string: its last byte holds the end mark. -/
def BackBits.open? (bs : List Byte) : Option BackBits :=
  match bs.getLast? with
  | none => none
  | some b =>
    if b = 0#8 then none
    else some ⟨leNat bs, 8 * (bs.length - 1) + Nat.log2 b.toNat⟩

/-- Take `n` bits; none past the start. -/
def BackBits.take (n : Nat) (r : BackBits) : Option (Nat × BackBits) :=
  if n > r.pos then none else some ((r.val >>> (r.pos - n)) % 2 ^ n, ⟨r.val, r.pos - n⟩)

/-- Look at `n` bits, zeros standing past the start. -/
def BackBits.peek (n : Nat) (r : BackBits) : Nat :=
  if n > r.pos then (r.val % 2 ^ r.pos) <<< (n - r.pos) else (r.val >>> (r.pos - n)) % 2 ^ n

/-- One cell of an FSE table: symbol, bits to read, and the base of the next state. -/
structure FseCell where
  sym : Nat
  bits : Nat
  base : Nat
  deriving DecidableEq, Repr

/-- An FSE decoding table of `2^log` cells. -/
structure FseTable where
  log : Nat
  cells : List FseCell
  deriving DecidableEq, Repr

/-- Spread positions: `n` symbols placed by the step of RFC 8878, skipping cells at or above `high`. -/
def fseSpread (size high : Nat) : Nat → Nat → List Nat → NMap Nat → NMap Nat
  | 0, _, _, m => m
  | _, _, [], m => m
  | f + 1, pos, s :: ss, m =>
    let next := (pos + size / 2 + size / 8 + 3) % size
    if pos ≥ high then fseSpread size high f next (s :: ss) m
    else fseSpread size high f next ss (NMap.set m pos s)

/-- The table of a normalised distribution; a probability of −1 takes one cell from the top. -/
def fseBuild (log : Nat) (probs : List Int) : FseTable :=
  let size := 2 ^ log
  let low := probs.zipIdx.filterMap (fun (p, s) => if p = -1 then some s else none)
  let top := low.zipIdx.foldl (fun m (s, i) => NMap.set m (size - 1 - i) s) ([] : NMap Nat)
  let high := size - low.length
  let seq := probs.zipIdx.flatMap (fun (p, s) => List.replicate p.toNat s)
  let placed := fseSpread size high (2 * size + 2) 0 seq top
  let start := probs.zipIdx.foldl (fun m (p, s) =>
    NMap.set m s (if p = -1 then 1 else p.toNat)) ([] : NMap Nat)
  let cells := (List.range size).foldl (fun (acc : List FseCell × NMap Nat) st =>
    let s := NMap.getD placed st 0
    let x := NMap.getD acc.2 s 1
    let nb := log - Nat.log2 x
    (⟨s, nb, (x <<< nb) - size⟩ :: acc.1, NMap.set acc.2 s (x + 1))) ([], start)
  ⟨log, cells.1.reverse⟩

def fseCell (t : FseTable) (st : Nat) : FseCell := t.cells.getD st ⟨0, 0, 0⟩

/-- Runs of zero probabilities: two-bit counts while they are 3. -/
def fseZeros : Nat → BitReader → Option (Nat × BitReader)
  | 0, _ => none
  | f + 1, r =>
    match r.take 2 with
    | none => none
    | some (x, r) =>
      if x = 3 then
        match fseZeros f r with
        | none => none
        | some (n, r) => some (n + 3, r)
      else some (x, r)

/-- The probabilities of an FSE table description; `acc` newest first. -/
def fseProbs (maxSym : Nat) : Nat → Nat → BitReader → List Int → Option (List Int × BitReader)
  | 0, _, _, _ => none
  | f + 1, remaining, r, acc =>
    if remaining = 1 then some (acc.reverse, r)
    else if acc.length > maxSym then none
    else
      let nb := Nat.log2 remaining + 1
      let threshold := 2 ^ (nb - 1)
      let cut := 2 * threshold - 1 - remaining
      match r.take (nb - 1) with
      | none => none
      | some (lowBits, r1) =>
        let wide := if lowBits < cut then some (lowBits, r1)
          else match r1.take 1 with
            | none => none
            | some (h, r2) =>
              let v := lowBits + h * threshold
              some (if v ≥ threshold then v - cut else v, r2)
        match wide with
        | none => none
        | some (v, r) =>
          let p : Int := (v : Int) - 1
          let used := if v = 0 then 1 else v - 1
          if used + 1 > remaining then none
          else if p = 0 then
            match fseZeros 200 r with
            | none => none
            | some (z, r) =>
              fseProbs maxSym f (remaining - used) r (List.replicate z 0 ++ 0 :: acc)
          else fseProbs maxSym f (remaining - used) r (p :: acc)

/-- An FSE table description: the table, and the bytes after it. -/
def fseRead (maxLog maxSym : Nat) (bs : List Byte) : Option (FseTable × List Byte) :=
  match BitReader.take 4 ⟨0, 0, bs⟩ with
  | none => none
  | some (x, r) =>
    let log := x + 5
    if log > maxLog then none
    else
      match fseProbs maxSym (maxSym + 2) (2 ^ log + 1) r [] with
      | none => none
      | some (ps, r) =>
        if ps.length > maxSym + 1 then none
        else some (fseBuild log ps, natLE r.buf (r.cnt / 8) ++ r.rest)

/-- A Huffman table of literals: longest code length, and per symbol its weight. -/
structure LitHuff where
  maxBits : Nat
  ranges : List (Nat × Nat × Nat)
  deriving DecidableEq, Repr

/-- The table from weights: symbols by ascending weight then number, each taking `2^(w-1)` places; a range
holds its end, its symbol and its code length. -/
def litHuffOf (weights : List Nat) : Option LitHuff :=
  let total := (weights.map (fun w => if w = 0 then 0 else 2 ^ (w - 1))).sum
  if total = 0 then none
  else
    let maxBits := Nat.log2 total + 1
    let left := 2 ^ maxBits - total
    let lw := Nat.log2 left + 1
    if maxBits > 11 || 2 ^ (lw - 1) ≠ left then none
    else
      let all := weights ++ [lw]
      let rs := ((List.range maxBits).map (· + 1)).foldl (fun (acc : Nat × List (Nat × Nat × Nat)) w =>
        all.zipIdx.foldl (fun (acc : Nat × List (Nat × Nat × Nat)) (x, s) =>
          if x = w then
            let e := acc.1 + 2 ^ (w - 1)
            (e, (e, s, maxBits + 1 - w) :: acc.2)
          else acc) acc) (0, [])
      some ⟨maxBits, rs.2.reverse⟩

/-- Two interleaved FSE states give the Huffman weights until the bits run out. -/
def fseWeights (t : FseTable) : Nat → Nat → Nat → BackBits → Option (List Nat)
  | 0, _, _, _ => none
  | f + 1, s1, s2, r =>
    let c := fseCell t s1
    match r.take c.bits with
    | none => some [c.sym, (fseCell t s2).sym]
    | some (x, r) =>
      match fseWeights t f s2 (c.base + x) r with
      | none => none
      | some ws => some (c.sym :: ws)

/-- A Huffman tree description: the table and the bytes after it. -/
def readLitHuff (bs : List Byte) : Option (LitHuff × List Byte) :=
  match bs with
  | [] => none
  | h :: rest =>
    let n := h.toNat
    if n ≥ 128 then
      let cnt := n - 127
      let bytes := ceilDiv cnt 2
      if rest.length < bytes then none
      else
        let ws := ((rest.take bytes).flatMap (fun b => [b.toNat / 16, b.toNat % 16])).take cnt
        match litHuffOf ws with
        | none => none
        | some t => some (t, rest.drop bytes)
    else if rest.length < n then none
    else
      match fseRead 6 12 (rest.take n) with
      | none => none
      | some (t, body) =>
        match BackBits.open? body with
        | none => none
        | some r =>
          match r.take t.log with
          | none => none
          | some (s1, r) =>
            match r.take t.log with
            | none => none
            | some (s2, r) =>
              match fseWeights t 256 s1 s2 r with
              | none => none
              | some ws =>
                if ws.length > 255 then none
                else
                  match litHuffOf ws with
                  | none => none
                  | some h => some (h, rest.drop n)

/-- `n` literals of one stream, which must be used up exactly. -/
def litStream (h : LitHuff) : Nat → BackBits → Option (List Byte)
  | 0, r => if r.pos = 0 then some [] else none
  | n + 1, r =>
    let v := r.peek h.maxBits
    match h.ranges.find? (fun x => v < x.1) with
    | none => none
    | some (_, s, len) =>
      match r.take len with
      | none => none
      | some (_, r) =>
        match litStream h n r with
        | none => none
        | some xs => some (BitVec.ofNat 8 s :: xs)

def litStreamBytes (h : LitHuff) (n : Nat) (bs : List Byte) : Option (List Byte) :=
  match BackBits.open? bs with
  | none => none
  | some r => litStream h n r

/-- Four streams behind a six-byte jump table. -/
def litFour (h : LitHuff) (n : Nat) (bs : List Byte) : Option (List Byte) :=
  if bs.length < 6 then none
  else
    let a := leAt bs 0 2
    let b := leAt bs 2 2
    let c := leAt bs 4 2
    let body := bs.drop 6
    let q := (n + 3) / 4
    if a + b + c > body.length || 3 * q > n then none
    else
      match litStreamBytes h q (body.take a), litStreamBytes h q ((body.drop a).take b),
        litStreamBytes h q ((body.drop (a + b)).take c),
        litStreamBytes h (n - 3 * q) (body.drop (a + b + c)) with
      | some w, some x, some y, some z => some (w ++ x ++ y ++ z)
      | _, _, _, _ => none

/-- What one block leaves for the next: the Huffman table, the three FSE tables and the offsets. -/
structure ZCtx where
  huff : Option LitHuff
  ll : Option FseTable
  off : Option FseTable
  ml : Option FseTable
  rep : Nat × Nat × Nat
  deriving DecidableEq, Repr

/-- The literals section: literals, the table kept, and the bytes after it. -/
def readLiterals (old : Option LitHuff) (bs : List Byte) :
    Option (List Byte × Option LitHuff × List Byte) :=
  match bs with
  | [] => none
  | h :: _ =>
    let kind := h.toNat % 4
    let sf := h.toNat / 4 % 4
    if kind ≤ 1 then
      let hl := if sf % 2 = 0 then 1 else if sf = 1 then 2 else 3
      let n := leAt bs 0 hl >>> (if sf % 2 = 0 then 3 else 4)
      let body := bs.drop hl
      if bs.length < hl then none
      else if kind = 0 then
        if body.length < n then none else some (body.take n, old, body.drop n)
      else
        match body with
        | [] => none
        | b :: rest => some (List.replicate n b, old, rest)
    else
      let hl := if sf ≤ 1 then 3 else if sf = 2 then 4 else 5
      let w := if sf ≤ 1 then 10 else if sf = 2 then 14 else 18
      let x := leAt bs 0 hl >>> 4
      let n := x % 2 ^ w
      let c := (x >>> w) % 2 ^ w
      let body := (bs.drop hl).take c
      if bs.length < hl + c then none
      else
        let tab := if kind = 2 then readLitHuff body
          else match old with
            | none => none
            | some t => some (t, body)
        match tab with
        | none => none
        | some (t, streams) =>
          match (if sf = 0 then litStreamBytes t n streams else litFour t n streams) with
          | none => none
          | some ls => some (ls, some t, bs.drop (hl + c))

def zLlBase : List Nat :=
  List.range 16 ++ [16, 18, 20, 22, 24, 28, 32, 40, 48, 64, 128, 256, 512, 1024, 2048, 4096, 8192,
    16384, 32768, 65536]

def zLlBits : List Nat :=
  List.replicate 16 0 ++ [1, 1, 1, 1, 2, 2, 3, 3, 4, 6, 7, 8, 9, 10, 11, 12, 13, 14, 15, 16]

def zMlBase : List Nat :=
  (List.range 32).map (· + 3) ++ [35, 37, 39, 41, 43, 47, 51, 59, 67, 83, 99, 131, 259, 515, 1027,
    2051, 4099, 8195, 16387, 32771, 65539]

def zMlBits : List Nat :=
  List.replicate 32 0 ++ [1, 1, 1, 1, 2, 2, 3, 3, 4, 4, 5, 7, 8, 9, 10, 11, 12, 13, 14, 15, 16]

def zLlDefault : FseTable :=
  fseBuild 6 [4, 3, 2, 2, 2, 2, 2, 2, 2, 2, 2, 2, 2, 1, 1, 1, 2, 2, 2, 2, 2, 2, 2, 2, 2, 3, 2, 1, 1,
    1, 1, 1, -1, -1, -1, -1]

def zOfDefault : FseTable :=
  fseBuild 5 [1, 1, 1, 1, 1, 1, 2, 2, 2, 1, 1, 1, 1, 1, 1, 1, 1, 1, 1, 1, 1, 1, 1, 1, -1, -1, -1,
    -1, -1]

def zMlDefault : FseTable :=
  fseBuild 6 [1, 4, 3, 2, 2, 2, 2, 2, 2, 1, 1, 1, 1, 1, 1, 1, 1, 1, 1, 1, 1, 1, 1, 1, 1, 1, 1, 1, 1,
    1, 1, 1, 1, 1, 1, 1, 1, 1, 1, 1, 1, 1, 1, 1, 1, 1, -1, -1, -1, -1, -1, -1, -1]

/-- One of the three sequence tables by its mode: predefined, RLE, FSE or repeat. -/
def zTable (mode maxLog maxSym : Nat) (dflt : FseTable) (old : Option FseTable) (bs : List Byte) :
    Option (FseTable × List Byte) :=
  if mode = 0 then some (dflt, bs)
  else if mode = 1 then
    match bs with
    | [] => none
    | b :: rest => if b.toNat > maxSym then none else some (⟨0, [⟨b.toNat, 0, 0⟩]⟩, rest)
  else if mode = 2 then fseRead maxLog maxSym bs
  else
    match old with
    | none => none
    | some t => some (t, bs)

/-- A sequence: literal length, match length, and the offset value before the repeat rules. -/
structure ZSeq where
  ll : Nat
  ml : Nat
  ov : Nat
  deriving DecidableEq, Repr

/-- `n` sequences from a backward bit string. -/
def zSeqs (tl to_ tm : FseTable) : Nat → Nat → Nat → Nat → BackBits → Option (List ZSeq)
  | 0, _, _, _, r => if r.pos = 0 then some [] else none
  | n + 1, sl, so, sm, r =>
    let cl := fseCell tl sl
    let co := fseCell to_ so
    let cm := fseCell tm sm
    match r.take co.sym with
    | none => none
    | some (xo, r) =>
      match r.take (zMlBits.getD cm.sym 0) with
      | none => none
      | some (xm, r) =>
        match r.take (zLlBits.getD cl.sym 0) with
        | none => none
        | some (xl, r) =>
          let q : ZSeq := ⟨zLlBase.getD cl.sym 0 + xl, zMlBase.getD cm.sym 0 + xm, 2 ^ co.sym + xo⟩
          if n = 0 then
            match zSeqs tl to_ tm 0 0 0 0 r with
            | none => none
            | some qs => some (q :: qs)
          else
            match r.take cl.bits with
            | none => none
            | some (a, r) =>
              match r.take cm.bits with
              | none => none
              | some (b, r) =>
                match r.take co.bits with
                | none => none
                | some (c, r) =>
                  match zSeqs tl to_ tm n (cl.base + a) (co.base + c) (cm.base + b) r with
                  | none => none
                  | some qs => some (q :: qs)

/-- The offset of a sequence and the repeat offsets after it. -/
def zOffset (q : ZSeq) (rep : Nat × Nat × Nat) : Nat × (Nat × Nat × Nat) :=
  let (a, b, c) := rep
  if q.ov > 3 then (q.ov - 3, (q.ov - 3, a, b))
  else
    let i := q.ov - 1 + (if q.ll = 0 then 1 else 0)
    if i = 0 then (a, (a, b, c))
    else if i = 1 then (b, (b, a, c))
    else if i = 2 then (c, (c, a, b))
    else (a - 1, (a - 1, a, b))

/-- Carry out the sequences over the literals. -/
def zExecute (limit window : Nat) :
    List ZSeq → List Byte → (Nat × Nat × Nat) → OutBuf →
    Except DecErr (OutBuf × (Nat × Nat × Nat))
  | [], lits, rep, o =>
    if o.len + lits.length > limit then .error .excess else .ok (o.append lits, rep)
  | q :: qs, lits, rep, o =>
    if lits.length < q.ll then .error .codec
    else
      let o := o.append (lits.take q.ll)
      let (off, rep) := zOffset q rep
      if off = 0 || off > o.len || off > window then .error .codec
      else if o.len + q.ml > limit then .error .excess
      else zExecute limit window qs (lits.drop q.ll) rep (OutBuf.copy off q.ml o)

/-- One compressed block. -/
def zBlock (limit window : Nat) (z : ZCtx) (bs : List Byte) (o : OutBuf) :
    Except DecErr (ZCtx × OutBuf) :=
  match readLiterals z.huff bs with
  | none => .error .codec
  | some (lits, huff, rest) =>
    match rest with
    | [] => .error .codec
    | b0 :: r1 =>
      let n0 := b0.toNat
      if n0 = 0 then
        if r1 ≠ [] then .error .codec
        else if o.len + lits.length > limit then .error .excess
        else .ok ({ z with huff := huff }, o.append lits)
      else
        let hl := if n0 < 128 then 1 else if n0 < 255 then 2 else 3
        let n := if n0 < 128 then n0 else if n0 < 255 then (n0 - 128) * 256 + leAt rest 1 1
          else leAt rest 1 2 + 0x7F00
        if rest.length < hl + 1 then .error .codec
        else
          let modes := leAt rest hl 1
          let body := rest.drop (hl + 1)
          if modes % 4 ≠ 0 then .error .codec
          else
            match zTable (modes / 64) 9 35 zLlDefault z.ll body with
            | none => .error .codec
            | some (tl, body) =>
              match zTable (modes / 16 % 4) 8 31 zOfDefault z.off body with
              | none => .error .codec
              | some (to_, body) =>
                match zTable (modes / 4 % 4) 9 52 zMlDefault z.ml body with
                | none => .error .codec
                | some (tm, body) =>
                  match BackBits.open? body with
                  | none => .error .codec
                  | some r =>
                    match r.take tl.log with
                    | none => .error .codec
                    | some (sl, r) =>
                      match r.take to_.log with
                      | none => .error .codec
                      | some (so, r) =>
                        match r.take tm.log with
                        | none => .error .codec
                        | some (sm, r) =>
                          match zSeqs tl to_ tm n sl so sm r with
                          | none => .error .codec
                          | some qs =>
                            match zExecute limit window qs lits z.rep o with
                            | .error e => .error e
                            | .ok (o, rep) =>
                              .ok (⟨huff, some tl, some to_, some tm, rep⟩, o)

/-- Blocks until the last one; answers the bytes after it. -/
def zBlocks (limit window : Nat) :
    Nat → List Byte → ZCtx → OutBuf → Except DecErr (List Byte × OutBuf)
  | 0, _, _, _ => .error .codec
  | f + 1, bs, z, o =>
    if bs.length < 3 then .error .codec
    else
      let h := leAt bs 0 3
      let last := h % 2 = 1
      let kind := h / 2 % 4
      let size := h / 8
      let body := bs.drop 3
      let cap := min window (128 * 1024)
      if size > cap then .error .codec
      else
        let next : Except DecErr (ZCtx × OutBuf × List Byte) :=
          if kind = 0 then
            if body.length < size then .error .codec
            else if o.len + size > limit then .error .excess
            else .ok (z, o.append (body.take size), body.drop size)
          else if kind = 1 then
            match body with
            | [] => .error .codec
            | b :: rest =>
              if o.len + size > limit then .error .excess
              else .ok (z, o.append (List.replicate size b), rest)
          else if kind = 2 then
            if body.length < size then .error .codec
            else
              match zBlock limit window z (body.take size) o with
              | .error e => .error e
              | .ok (z, o') =>
                if o'.len - o.len > cap then .error .codec else .ok (z, o', body.drop size)
          else .error .codec
        match next with
        | .error e => .error e
        | .ok (z, o, rest) => if last then .ok (rest, o) else zBlocks limit window f rest z o

/-- The header of a frame: size declared (when it is), window, checksum flag, and its length. -/
structure ZHeader where
  content : Option Nat
  window : Nat
  checksum : Bool
  len : Nat
  deriving DecidableEq, Repr

/-- The frame header with the refusals of R279. -/
def zFields (bs : List Byte) : Option (ZHeader × Nat) :=
  if bs.length < 6 || leAt bs 0 4 ≠ 0xFD2FB528 then none
  else
    let d := leAt bs 4 1
    let single := bitAt d 5
    let fcs := d / 64
    let fcsLen := if fcs = 0 then (if single then 1 else 0) else if fcs = 1 then 2
      else if fcs = 2 then 4 else 8
    let dictLen := if d % 4 = 3 then 4 else d % 4
    let wLen := if single then 0 else 1
    let len := 5 + wLen + dictLen + fcsLen
    if bitAt d 3 || bs.length < len then none
    else
      let w := leAt bs 5 1
      let dict := leAt bs (5 + wLen) dictLen
      let size := leAt bs (5 + wLen + dictLen) fcsLen + (if fcs = 1 then 256 else 0)
      let wbase := 2 ^ (10 + w / 8)
      let window := if single then size else wbase + wbase / 8 * (w % 8)
      some (⟨if fcsLen = 0 then none else some size, window, bitAt d 2, len⟩, dict)

/-- A frame header within R279's subset: no dictionary, and a window of at most 8 MiB. -/
def zHeader (bs : List Byte) : Option ZHeader :=
  (zFields bs).bind (fun h => if h.2 ≠ 0 || h.1.window > 8 * 2 ^ 20 then none else some h.1)

/-- The size a frame declares, when it carries one (06 R106 step 4). -/
def zstdDeclared (bs : List Byte) : Option Nat :=
  (zFields bs).bind (fun h => h.1.content)

/-- The output of exactly one Zstandard frame (R279). -/
def zstdDecode (limit : Nat) (bs : List Byte) : Except DecErr (List Byte) :=
  match zHeader bs with
  | none => .error .codec
  | some h =>
    match zBlocks limit h.window (bs.length + 1) (bs.drop h.len)
        ⟨none, none, none, none, (1, 4, 8)⟩ OutBuf.empty with
    | .error e => .error e
    | .ok (rest, o) =>
      let out := o.rev.reverse
      let sizeOk := match h.content with
        | some n => decide (n = o.len)
        | none => true
      let sumOk := if h.checksum then
          decide (rest.length = 4) && decide (leNat rest = (xxh64 out).toNat % 2 ^ 32)
        else decide (rest = [])
      if sizeOk && sumOk then .ok out else .error .codec

/-- A frame of `n` bytes with the header that the device writes under a window: Frame_Content_Size, a content checksum, and
Single_Segment when the input fits in the window (R279). -/
def zstdWritten (window n : Nat) (bs : List Byte) : Bool :=
  match zHeader bs with
  | none => false
  | some h =>
    let single := bitAt (leAt bs 4 1) 5
    h.content == some n && h.checksum && single == decide (n ≤ window) && (single || h.window == window)

/-- Raw blocks of at most 128 KiB, the last marked. -/
def zRawBlocks : List (List Byte) → List Byte
  | [] => natLE 1 3
  | [b] => natLE (1 + 8 * b.length) 3 ++ b
  | b :: c :: bs => natLE (8 * b.length) 3 ++ b ++ zRawBlocks (c :: bs)

/-- A frame of raw blocks with Frame_Content_Size and a content checksum, single-segment when the input
fits `window` (R279). -/
def zstdRaw (window : Nat) (bs : List Byte) : List Byte :=
  let single := decide (bs.length ≤ window)
  let wexp := Nat.log2 window - 10
  natLE 0xFD2FB528 4 ++ (if single then [0xA4#8] else [0x84#8, BitVec.ofNat 8 (8 * wexp)]) ++
    natLE bs.length 4 ++
    zRawBlocks (chunksOf (if single && bs.length < 128 * 1024 then max 1 bs.length else 128 * 1024) bs) ++
    natLE ((xxh64 bs).toNat % 2 ^ 32) 4

end Sys2Proof.Machine
end

