-- ==== Sys2Proof/Machine/Frames.lean ====
section
/-!
DEFINITION. Compressed streams and Causeway frames (13 R276 to R286).
-/

namespace Sys2Proof.Machine

open Sys2Proof

/-- Stream formats: 0 Causeway, 1 DEFLATE, 2 ZSTD. -/
def decodeStream (fmt limit : Nat) (bs : List Byte) : Except DecErr (List Byte) :=
  if fmt = 1 then inflate limit bs else zstdDecode limit bs

/-- A stream decodes to exactly these bytes. -/
def decodesTo (fmt : Nat) (bs out : List Byte) : Bool :=
  match decodeStream fmt out.length bs with
  | .ok x => x == out
  | .error _ => false

/-- The Zstandard window of a level (13 R276). -/
def levelWindow (level : Nat) : Nat := if level ≤ 3 then 2 ^ 18 else if level ≤ 6 then 2 ^ 20 else 2 ^ 22

/-- Input bytes per tick of a level; level 0 is STORED (13 R276). -/
def levelRate (level : Nat) : Nat :=
  [512, 256, 192, 128, 96, 64, 48, 32, 16, 8].getD level 512

/-- The largest stream of an input: the output bound of 13 R281 less the 64-byte header of a frame. -/
def streamBound (n : Nat) : Nat := n + 16 * ceilDiv n 4096 + 128

/-- The compressed stream of an input: the implementation's bytes, which decode to the input, keep the bound and are written as
the device writes a stream of that format and level; what is left open stays open under these rules (13 R276 to R279, R281;
log entry 8). -/
def compressStream (fmt level : Nat) (bs : List Byte) : List Byte :=
  let z := Config.compressBytes fmt level bs
  if z.length ≤ streamBound bs.length ∧ decodesTo fmt z bs ∧
    (if fmt = 1 then deflateWritten bs.length z else zstdWritten (levelWindow level) bs.length z) then z
  else if fmt = 1 then deflateStored bs else zstdRaw (levelWindow level) bs

/-- One CRC-32C per 4,096 bytes, padded to 64 bytes (13 R284). -/
def checkArray (bs : List Byte) : List Byte :=
  padTo 64 ((chunksOf 4096 bs).flatMap (fun c => natLE (crc32c c).toNat 4))

/-- Bytes of the check array of an original (13 R284, 17 R380). -/
def checkArrayLen (codec n : Nat) : Nat := if codec = 0 then roundUp (4 * ceilDiv n 4096) 64 else 0

/-- A Causeway frame: codec 0 STORED, 1 DEFLATE, 2 ZSTD (13 R284). -/
def frameOf (codec level tag gen : Nat) (bs : List Byte) : List Byte :=
  let body := if codec = 0 then bs else compressStream codec level bs
  let a := natLE 0x46434C49 4 ++ natLE codec 1 ++ natLE (if codec = 0 then 0 else level) 1 ++ natLE 0 2 ++
    natLE bs.length 4 ++ natLE body.length 4 ++ natLE (crc32c bs).toNat 4
  let b := natLE tag 8 ++ natLE gen 8 ++ zeros 24
  a ++ natLE (crc32c (a ++ b)).toNat 4 ++ b ++ (if codec = 0 then checkArray bs else []) ++ padTo 64 body

/-- The first two checks of a frame inside an area of `bs.length` bytes (13 R286). -/
def frameHeaderOk (bs : List Byte) : Bool :=
  let codec := leAt bs 4 1
  let level := leAt bs 5 1
  let n := leAt bs 8 4
  let p := leAt bs 12 4
  decide (64 ≤ bs.length) && leAt bs 0 4 == 0x46434C49 &&
  (crc32c (bs.take 20 ++ (bs.drop 24).take 40)).toNat == leAt bs 20 4 &&
  allZero ((bs.drop 6).take 2) && allZero ((bs.drop 40).take 24) && decide (codec < 3) &&
  (if codec = 0 then level == 0 && p == n else decide (1 ≤ level) && decide (level ≤ 9)) &&
  decide (1 ≤ n) && decide (n ≤ 67108864) && decide (64 + checkArrayLen codec n + p ≤ bs.length)

/-- The original bytes of a frame whose header has passed; none on a codec error, a wrong length or a wrong check. -/
def frameBody (bs : List Byte) : Option (List Byte) :=
  let codec := leAt bs 4 1
  let n := leAt bs 8 4
  let payload := (bs.drop (64 + checkArrayLen codec n)).take (leAt bs 12 4)
  let out := if codec = 0 then some payload else
    match decodeStream codec n payload with
    | .ok x => some x
    | .error _ => none
  match out with
  | some x => if x.length = n ∧ (crc32c x).toNat = leAt bs 16 4 then some x else none
  | none => none

/-- A device frame read with the tag and gen that the reader expects (13 R286). -/
def readFrame (bs : List Byte) (tag : Nat) (genOk : Nat → Bool) : Option (List Byte) :=
  if frameHeaderOk bs ∧ leAt bs 24 8 = tag ∧ genOk (leAt bs 32 8) then frameBody bs else none

end Sys2Proof.Machine
end

