-- ==== Sys2Proof/Machine/Float.lean ====
section
/-!
DEFINITION. Exact dyadic values, the rounding of 08 R156 and R157, and binary32 arithmetic with one RNE
rounding per operation (07 R138, 08 R155, R165).  Nothing is flushed; every NaN made is canonical.
-/

namespace Sys2Proof.Machine

open Sys2Proof

/-- A value on its way between formats: NaN, an infinity, or `(-1)^neg × m × 2^e` exactly. -/
inductive Num where
  | nan
  | inf (neg : Bool)
  | fin (neg : Bool) (m : Nat) (e : Int)
  deriving DecidableEq, Repr

/-- The rounding modes of R156; `sr` carries the random word of R157. -/
inductive RMode where
  | rne
  | rz
  | sr (word : Nat)
  deriving DecidableEq, Repr

/-- Whether a magnitude `hi + rem / 2^shift` grid steps is rounded up (R156, R157). -/
def roundsUp (mode : RMode) (hi rem shift : Nat) : Bool :=
  match mode with
  | .rz => false
  | .rne => decide (2 * rem > 2 ^ shift) || (decide (2 * rem = 2 ^ shift) && decide (hi % 2 = 1))
  | .sr r => decide (r < (rem <<< 32) >>> shift)

/-- `m × 2^e` rounded to a whole number of steps `2^q`. -/
def roundGrid (mode : RMode) (m : Nat) (e q : Int) : Nat :=
  if e ≥ q then m <<< (e - q).toNat
  else
    let shift := (q - e).toNat
    let hi := m >>> shift
    let rem := m % 2 ^ shift
    if roundsUp mode hi rem shift then hi + 1 else hi

/-- The exponent of the unbounded grid of a float format at the magnitude `m × 2^e` (R156). -/
def gridExp (mant : Nat) (bias : Int) (m : Nat) (e : Int) : Int :=
  max ((Nat.log2 m : Int) + e) (1 - bias) - mant

/-- `a × 2^x > b × 2^y`, exactly. -/
def dyadicGt (a : Nat) (x : Int) (b : Nat) (y : Int) : Bool :=
  if x ≥ y then decide (a <<< (x - y).toNat > b) else decide (a > b <<< (y - x).toNat)

/-- A float format (R151, R153): exponent bits, mantissa bits, bias, whether it has infinities, and its
largest finite magnitude `maxM × 2^maxE`. -/
structure FloatSpec where
  eb : Nat
  mb : Nat
  bias : Nat
  hasInf : Bool
  maxM : Nat
  maxE : Int
  deriving DecidableEq, Repr

/-- The magnitude code of a grid value `g × 2^q` that is in range. -/
def floatMagCode (f : FloatSpec) (g : Nat) (q : Int) : Nat :=
  if g = 0 then 0
  else
    let top := (Nat.log2 g : Int) + q
    if top < 1 - (f.bias : Int) then
      g <<< (q - (1 - (f.bias : Int) - f.mb)).toNat
    else
      let ef := (top + f.bias).toNat
      let k := Nat.log2 g
      let mant := if k ≤ f.mb then g <<< (f.mb - k) else g >>> (k - f.mb)
      ef * 2 ^ f.mb + (mant - 2 ^ f.mb)

/-- The code of the largest finite magnitude. -/
def floatMaxCode (f : FloatSpec) : Nat := floatMagCode f f.maxM f.maxE

/-- The code of infinity's magnitude: all-ones exponent, zero mantissa. -/
def floatInfCode (f : FloatSpec) : Nat := (2 ^ f.eb - 1) * 2 ^ f.mb

def floatSignBit (f : FloatSpec) (neg : Bool) : Nat := if neg then 2 ^ (f.eb + f.mb) else 0

/-- A finite magnitude rounded and clamped: its code without the sign, and whether it passed the largest
finite value (R156). `toInf` selects infinity on overflow. -/
def floatRound (f : FloatSpec) (mode : RMode) (toInf : Bool) (m : Nat) (e : Int) : Nat × Bool :=
  if m = 0 then (0, false)
  else
    let q := gridExp f.mb f.bias m e
    let g := roundGrid mode m e q
    if dyadicGt g q f.maxM f.maxE then
      (if toInf && f.hasInf then floatInfCode f else floatMaxCode f, true)
    else (floatMagCode f g q, false)

/-- The value of a float code (R153). `nan111` marks the E4M3 format, whose only NaN is e and m all ones. -/
def floatDecode (f : FloatSpec) (nan111 : Bool) (code : Nat) : Num :=
  let neg := bitAt code (f.eb + f.mb)
  let ef := bitsAt code f.mb f.eb
  let m := bitsAt code 0 f.mb
  if ef = 2 ^ f.eb - 1 && f.hasInf then
    if m = 0 then .inf neg else .nan
  else if nan111 && ef = 2 ^ f.eb - 1 && m = 2 ^ f.mb - 1 then .nan
  else if ef = 0 then .fin neg m (1 - (f.bias : Int) - f.mb)
  else .fin neg (m + 2 ^ f.mb) ((ef : Int) - f.bias - f.mb)

def specFp32 : FloatSpec := ⟨8, 23, 127, true, 2 ^ 24 - 1, 104⟩
def specBf16 : FloatSpec := ⟨8, 7, 127, true, 2 ^ 8 - 1, 120⟩
def specFp16 : FloatSpec := ⟨5, 10, 15, true, 2 ^ 11 - 1, 5⟩
def specFp8a : FloatSpec := ⟨4, 3, 7, false, 14, 5⟩
def specFp8b : FloatSpec := ⟨5, 2, 15, true, 7, 13⟩
def specFp4 : FloatSpec := ⟨2, 1, 1, false, 3, 1⟩
def specFp6a : FloatSpec := ⟨3, 2, 3, false, 7, 2⟩
def specFp6b : FloatSpec := ⟨2, 3, 1, false, 15, -1⟩

/-- The canonical NaN of FP32 (R155). -/
def f32Nan : W32 := 0x7FC00000#32

def f32Num (x : W32) : Num := floatDecode specFp32 false x.toNat

/-- A value rounded once to binary32 with RNE; overflow gives infinity, as IEEE 754 does. -/
def f32OfNum : Num → W32
  | .nan => f32Nan
  | .inf neg => BitVec.ofNat 32 (floatSignBit specFp32 neg + floatInfCode specFp32)
  | .fin neg m e =>
    BitVec.ofNat 32 (floatSignBit specFp32 neg + (floatRound specFp32 .rne true m e).1)

def f32IsNan (x : W32) : Bool := decide (f32Num x = .nan)

def f32IsFinite (x : W32) : Bool :=
  match f32Num x with
  | .fin _ _ _ => true
  | _ => false

/-- The exact sum of two finite values; an exact zero is +0 unless both addends are −0 (RNE). -/
def dyadicAdd (n1 : Bool) (m1 : Nat) (e1 : Int) (n2 : Bool) (m2 : Nat) (e2 : Int) : Num :=
  let e := min e1 e2
  let a : Int := (m1 <<< (e1 - e).toNat : Nat)
  let b : Int := (m2 <<< (e2 - e).toNat : Nat)
  let s := (if n1 then -a else a) + (if n2 then -b else b)
  if s = 0 then .fin (n1 && n2) 0 0 else .fin (decide (s < 0)) s.natAbs e

/-- Sum of two values under IEEE 754: opposite infinities give NaN. -/
def numAdd : Num → Num → Num
  | .nan, _ => .nan
  | _, .nan => .nan
  | .inf a, .inf b => if a = b then .inf a else .nan
  | .inf a, .fin _ _ _ => .inf a
  | .fin _ _ _, .inf b => .inf b
  | .fin n1 m1 e1, .fin n2 m2 e2 => dyadicAdd n1 m1 e1 n2 m2 e2

def numNeg : Num → Num
  | .nan => .nan
  | .inf a => .inf (!a)
  | .fin n m e => .fin (!n) m e

def numMul : Num → Num → Num
  | .nan, _ => .nan
  | _, .nan => .nan
  | .inf a, .inf b => .inf (a != b)
  | .inf a, .fin n m _ => if m = 0 then .nan else .inf (a != n)
  | .fin n m _, .inf b => if m = 0 then .nan else .inf (n != b)
  | .fin n1 m1 e1, .fin n2 m2 e2 => .fin (n1 != n2) (m1 * m2) (e1 + e2)

/-- Quotient with 64 guard bits and a sticky bit, enough for one correct rounding to binary32. -/
def numDiv : Num → Num → Num
  | .nan, _ => .nan
  | _, .nan => .nan
  | .inf _, .inf _ => .nan
  | .inf a, .fin n _ _ => .inf (a != n)
  | .fin n _ _, .inf b => .fin (n != b) 0 0
  | .fin n1 m1 e1, .fin n2 m2 e2 =>
    if m2 = 0 then (if m1 = 0 then .nan else .inf (n1 != n2))
    else
      let num := m1 <<< 64
      let q := num / m2
      let sticky := if num % m2 = 0 then 0 else 1
      .fin (n1 != n2) (2 * q + sticky) (e1 - e2 - 65)

/-- Square root with a sticky bit; a negative value other than −0 gives NaN. -/
def numSqrt : Num → Num
  | .nan => .nan
  | .inf neg => if neg then .nan else .inf false
  | .fin neg m e =>
    if m = 0 then .fin neg 0 0
    else if neg then .nan
    else
      let odd := e % 2 ≠ 0
      let m2 := (if odd then 2 * m else m) <<< 64
      let e2 := if odd then e - 1 else e
      let r := Nat.sqrt m2
      let sticky := if r * r = m2 then 0 else 1
      .fin false (2 * r + sticky) (e2 / 2 - 33)

def fadd (x y : W32) : W32 := f32OfNum (numAdd (f32Num x) (f32Num y))
def fsub (x y : W32) : W32 := f32OfNum (numAdd (f32Num x) (numNeg (f32Num y)))
def fmul (x y : W32) : W32 := f32OfNum (numMul (f32Num x) (f32Num y))
def fdiv (x y : W32) : W32 := f32OfNum (numDiv (f32Num x) (f32Num y))
def fsqrt (x : W32) : W32 := f32OfNum (numSqrt (f32Num x))

/-- `fp(n)` of R138: an integer converted to FP32 with RNE. -/
def fpNat (n : Nat) : W32 := f32OfNum (.fin false n 0)

def fpInt (z : Int) : W32 := f32OfNum (.fin (decide (z < 0)) z.natAbs 0)

/-- The device ordering of R128 as an integer key: −0 equals +0, every NaN is equal and above +infinity. -/
def f32Key (x : W32) : Int :=
  if f32IsNan x then 2 ^ 31
  else if x.getLsbD 31 then -((x.toNat % 2 ^ 31 : Nat) : Int)
  else (x.toNat : Int)

end Sys2Proof.Machine
end

