-- ==== Sys2Proof/Machine/Formats.lean ====
section
/-!
DEFINITION. The nineteen number formats: codes (05 R84), encodings (08 R151 to R154), packing (R152), and
conversion between formats with rounding, saturation and the NaN rules (R155 to R158).
-/

namespace Sys2Proof.Machine

open Sys2Proof

/-- A format code of R84. -/
abbrev Fmt := Nat

def fBin1 : Fmt := 0x01
def fTer : Fmt := 0x02
def fInt2 : Fmt := 0x03
def fInt4 : Fmt := 0x04
def fUint4 : Fmt := 0x05
def fFp4 : Fmt := 0x06
def fFp6a : Fmt := 0x07
def fFp6b : Fmt := 0x08
def fFp8a : Fmt := 0x09
def fFp8b : Fmt := 0x0A
def fInt8 : Fmt := 0x0B
def fUint8 : Fmt := 0x0C
def fInt16 : Fmt := 0x0D
def fFp16 : Fmt := 0x0E
def fBf16 : Fmt := 0x0F
def fFp32 : Fmt := 0x10
def fInt32 : Fmt := 0x11
def fInt64 : Fmt := 0x12
def fUint64 : Fmt := 0x13

/-- The codes 0x01 to 0x13 name formats; the rest are reserved (R84). -/
def fmtValid (c : Fmt) : Bool := decide (1 ≤ c) && decide (c ≤ 0x13)

/-- The sub-byte formats of 12 R246. -/
def fmtSubByte (c : Fmt) : Bool := decide (1 ≤ c) && decide (c ≤ 0x08)

/-- Storage bits of an element (R151); TER packs five digits to a byte and is treated apart. -/
def fmtBits (c : Fmt) : Nat :=
  if c = 1 then 1 else if c = 3 then 2 else if c = 4 ∨ c = 5 ∨ c = 6 then 4
  else if c = 7 ∨ c = 8 then 6 else if c = 2 then 8
  else if c = 9 ∨ c = 0xA ∨ c = 0xB ∨ c = 0xC then 8
  else if c = 0xD ∨ c = 0xE ∨ c = 0xF then 16
  else if c = 0x10 ∨ c = 0x11 then 32 else 64

/-- Bytes of a packed sequence of `n` elements (R152). -/
def packedBytes (c : Fmt) (n : Nat) : Nat :=
  if c = fTer then ceilDiv n 5 else ceilDiv (fmtBits c * n) 8

/-- Bytes of one element of a format that is not sub-byte; 1 for BYTE (code 0, R246). -/
def elemBytes (c : Fmt) : Nat := if c = 0 then 1 else fmtBits c / 8

/-- Elements that share one whole-byte group of R152. -/
def groupElems (c : Fmt) : Nat :=
  if c = fTer then 5 else if fmtBits c = 6 then 4 else if fmtBits c < 8 then 8 / fmtBits c else 1

def groupBytes (c : Fmt) : Nat := if c = fTer then 1 else if fmtBits c = 6 then 3
  else if fmtBits c < 8 then 1 else fmtBits c / 8

/-- The codes of one group of bytes. -/
def groupCodes (c : Fmt) (g : List Byte) : List Nat :=
  let v := leNat g
  if c = fTer then (List.range 5).map (fun j => (v / 3 ^ j) % 3)
  else (List.range (groupElems c)).map (fun j => bitsAt v (fmtBits c * j) (fmtBits c))

/-- The first `n` element codes of a packed sequence (R152); missing bytes read as zero. -/
def unpackCodes (c : Fmt) (n : Nat) (bs : List Byte) : List Nat :=
  ((chunksOf (groupBytes c) (slice bs 0 (groupBytes c * ceilDiv n (groupElems c)))).flatMap
    (groupCodes c)).take n

/-- The number that packs one group of codes. -/
def groupNumber (c : Fmt) : List Nat → Nat
  | [] => 0
  | x :: xs => if c = fTer then x + 3 * groupNumber c xs else x + 2 ^ fmtBits c * groupNumber c xs

/-- A packed sequence; bits and digits not used are zero (R152). -/
def packCodes (c : Fmt) (codes : List Nat) : List Byte :=
  slice ((chunksOf (groupElems c) codes).flatMap (fun g => natLE (groupNumber c g) (groupBytes c)))
    0 (packedBytes c codes.length)

/-- The float formats among the codes. -/
def floatSpec? (c : Fmt) : Option FloatSpec :=
  if c = fFp4 then some specFp4 else if c = fFp6a then some specFp6a
  else if c = fFp6b then some specFp6b else if c = fFp8a then some specFp8a
  else if c = fFp8b then some specFp8b else if c = fFp16 then some specFp16
  else if c = fBf16 then some specBf16 else if c = fFp32 then some specFp32 else none

def fmtIsFloat (c : Fmt) : Bool := (floatSpec? c).isSome

def fmtSigned (c : Fmt) : Bool :=
  decide (c = fInt2) || decide (c = fInt4) || decide (c = fInt8) || decide (c = fInt16) ||
  decide (c = fInt32) || decide (c = fInt64)

/-- The integer formats INT8 to INT64, UINT8 and UINT64 that keys and columns use (07 R120). -/
def fmtKeyInt (c : Fmt) : Bool :=
  decide (c = fInt8) || decide (c = fInt16) || decide (c = fInt32) || decide (c = fInt64) ||
  decide (c = fUint8) || decide (c = fUint64)

def fmtKeyFloat (c : Fmt) : Bool := decide (c = fFp16) || decide (c = fBf16) || decide (c = fFp32)

/-- The integer value of a code of an integer format, of TER or of BIN1 (R151, R154). -/
def intOfCode (c : Fmt) (code : Nat) : Int :=
  if c = fBin1 then (if code = 0 then -1 else 1)
  else if c = fTer then (if code = 0 then 0 else if code = 1 then 1 else -1)
  else if fmtSigned c then sintOf (fmtBits c) code
  else (code : Int)

/-- The exact value of an element code (R153, R154). -/
def numOfCode (c : Fmt) (code : Nat) : Num :=
  match floatSpec? c with
  | some f => floatDecode f (decide (c = fFp8a)) code
  | none => let z := intOfCode c code; .fin (decide (z < 0)) z.natAbs 0

/-- Lowest and highest value of an integer target, TER among them. -/
def intRange (c : Fmt) : Int × Int :=
  if c = fTer then (-1, 1)
  else if fmtSigned c then (-(2 ^ (fmtBits c - 1) : Nat), (2 ^ (fmtBits c - 1) - 1 : Nat))
  else (0, (2 ^ fmtBits c - 1 : Nat))

/-- An element written in a format: its code, whether it saturated (conv_sat), and whether a NaN was
written as zero or +1 (conv_nan). -/
structure Coded where
  code : Nat
  sat : Bool
  nan : Bool
  deriving DecidableEq, Repr

/-- The code of an in-range integer. -/
def codeOfInt (c : Fmt) (z : Int) : Nat :=
  if c = fTer then (if z = 0 then 0 else if z > 0 then 1 else 2) else intBits (fmtBits c) z

/-- An exact integer clamped into an integer target (R158). -/
def encodeInt (c : Fmt) (z : Int) : Coded :=
  let (lo, hi) := intRange c
  if z < lo then ⟨codeOfInt c lo, true, false⟩
  else if z > hi then ⟨codeOfInt c hi, true, false⟩
  else ⟨codeOfInt c z, false, false⟩

/-- The canonical NaN of a format that has one (R155); the others write zero (R158). -/
def canonicalNan? (c : Fmt) : Option Nat :=
  if c = fFp32 then some 0x7FC00000 else if c = fBf16 then some 0x7FC0
  else if c = fFp16 then some 0x7E00 else if c = fFp8b then some 0x7E
  else if c = fFp8a then some 0x7F else none

/-- A value converted to a format under a rounding mode (R155, R156, R158); `toInf` is CONVERT's INFINITY. -/
def encodeNum (c : Fmt) (mode : RMode) (toInf : Bool) (v : Num) : Coded :=
  if c = fBin1 then
    match v with
    | .nan => ⟨1, false, true⟩
    | .inf neg => ⟨if neg then 0 else 1, false, false⟩
    | .fin neg m _ => ⟨if neg && m ≠ 0 then 0 else 1, false, false⟩
  else
    match floatSpec? c with
    | some f =>
      match v with
      | .nan =>
        match canonicalNan? c with
        | some k => ⟨k, false, false⟩
        | none => ⟨0, false, true⟩
      | .inf neg =>
        if f.hasInf then ⟨floatSignBit f neg + floatInfCode f, false, false⟩
        else ⟨floatSignBit f neg + floatMaxCode f, true, false⟩
      | .fin neg m e =>
        let r := floatRound f mode toInf m e
        ⟨floatSignBit f neg + r.1, r.2, false⟩
    | none =>
      match v with
      | .nan => ⟨0, false, true⟩
      | .inf neg =>
        let (lo, hi) := intRange c
        ⟨codeOfInt c (if neg then lo else hi), true, false⟩
      | .fin neg m e =>
        let g := roundGrid mode m e 0
        encodeInt c (if neg then -(g : Int) else (g : Int))

/-- One element converted between formats (R158). -/
def convertCode (src dst : Fmt) (mode : RMode) (toInf : Bool) (code : Nat) : Coded :=
  encodeNum dst mode toInf (numOfCode src code)

/-- The bits of an element widened to FP32: exact except for INT32, INT64 and UINT64, which round to
nearest with ties to even (R158, R138). -/
def widenCode (c : Fmt) (code : Nat) : W32 := f32OfNum (numOfCode c code)

/-- FP32 bits written in an output format with RNE and saturation (R156). -/
def narrowF32 (c : Fmt) (x : W32) : Coded := encodeNum c .rne false (f32Num x)

/-- Every NaN that the device writes is canonical (R155). -/
def canonCode (c : Fmt) (code : Nat) : Nat :=
  if fmtIsFloat c && decide (numOfCode c code = .nan) then (canonicalNan? c).getD 0 else code

/-- The random word of stochastic rounding (R157). -/
def srWord (t rId e v : Nat) (salt : W64) : Nat :=
  (h64 (natLE t 8 ++ natLE rId 8 ++ natLE e 8 ++ natLE v 8) salt).toNat % 2 ^ 32

/-- The key of the device ordering of R128: exact value for integers, FP32 key for floats. -/
def orderKey (c : Fmt) (code : Nat) : Int :=
  if fmtIsFloat c then f32Key (widenCode c code) else intOfCode c code

end Sys2Proof.Machine
end

