-- ==== Sys2Proof/Machine/Operands.lean ====
section
/-!
DEFINITION. Operands: chain images and operator headers (05 R76 to R84), tensors, their extents and slices
(12 R246 to R250, R256), and skip runs mapped onto an operator's units (05 R90, R91, R463).
-/

namespace Sys2Proof.Machine

open Sys2Proof

/-! ### Chains -/

def chainOps (img : List Byte) : Nat := leAt img 0 1
def chainBufs (img : List Byte) : Nat := leAt img 1 1
def chainBufSize (img : List Byte) (i : Nat) : Nat := 256 * leAt img (8 + 2 * i) 2

/-- The 64 bytes of operator `k`. -/
def chainOp (img : List Byte) (k : Nat) : List Byte := slice img (64 + 64 * k) 64

def opCode (o : List Byte) : Nat := leAt o 0 1
def opFlags (o : List Byte) : Nat := leAt o 1 1
def opMark (o : List Byte) : Bool := bitAt (opFlags o) 0
def opMode (o : List Byte) : Nat := bitsAt (opFlags o) 1 2
def opOut (o : List Byte) : Bool := bitAt (opFlags o) 3
def opIn (o : List Byte) : Nat := leAt o 2 1
def opFmt (o : List Byte) : Nat := leAt o 3 1
/-- Operand reference 0, 1, 2 for src0 to src2 and 3 for dst. -/
def opRef (o : List Byte) (k : Nat) : Nat := leAt o (4 + 4 * k) 4
def opCount (o : List Byte) : Nat := leAt o 20 4

def refKind (r : Nat) : Nat := bitsAt r 28 4
def refPerItem (r : Nat) : Bool := bitAt r 27
def refIndex (r : Nat) : Nat := bitsAt r 0 24

/-- The operator that sets out, if one does (05 R81). -/
def outOp (img : List Byte) : Option Nat := (List.range (chainOps img)).find? (fun k => opOut (chainOp img k))

/-- The first operator-specific byte that is not zero and lies in none of the named fields. -/
def opStray (o : List Byte) (named : List (Nat × Nat)) : Option Nat :=
  ((List.range 40).map (· + 24)).find? (fun k =>
    leAt o k 1 != 0 && !(named.any (fun f => decide (f.1 ≤ k) && decide (k ≤ f.2))))

/-- The first offset of a list of (offset, failed) checks that fails. -/
def firstBad (cs : List (Nat × Bool)) : Option Nat := (cs.find? (·.2)).map (·.1)

/-- What an operator allows at install: skip modes, operand kinds of src0, src1, src2 and dst, format codes, its own
length, size and count fields as (offset, bytes), the fields of its 40 bytes, and its own checks (05 R84 to R87). -/
structure OpRule where
  skip : List Nat
  kinds : List (List Nat)
  fmtIn : List Nat
  fmtOut : List Nat
  lengths : List (Nat × Nat)
  named : List (Nat × Nat)
  check : List Byte → Option Nat

/-- Operand kinds: tensor, chain buffer, predecessor output (05 R82). -/
def kSrc : List Nat := [1, 2, 3]
def kDst : List Nat := [1, 2]
def kNone : List Nat := [0]
def kOpt : List Nat := [0, 1, 2, 3]

/-! ### Tensors -/

def Tensor.view (t : Tensor) : TView :=
  { base := t.base, fmt := t.fmt, dims := t.dims.take t.rank, strides := t.strides.take t.rank, first := 0 }

/-- Slice `i` of the outermost dimension; of a rank-1 tensor, element `i` alone (12 R250). -/
def TView.sliceAt (v : TView) (i : Nat) : TView :=
  match v.dims.length with
  | 0 => v
  | 1 =>
    if fmtSubByte v.fmt then { v with dims := [1], first := v.first + i }
    else { v with base := v.base + i * v.strides.getD 0 0, dims := [1] }
  | r + 2 => { v with base := v.base + i * v.strides.getD (r + 1) 0, dims := v.dims.take (r + 1),
                      strides := v.strides.take (r + 1) }

def TView.count (v : TView) : Nat := v.dims.foldl (· * ·) 1

/-- The byte of element `i` of a packed row, and the bytes of `n` elements from it (08 R152). -/
def packedSpan (fmt first n : Nat) : Nat × Nat :=
  let lo := if fmt = fTer then first / 5 else first * fmtBits fmt / 8
  let hi := if fmt = fTer then ceilDiv (first + n) 5 else ceilDiv ((first + n) * fmtBits fmt) 8
  (lo, hi - lo)

/-- The sum of the outer indices' strides with every index at its maximum. -/
def maxOffset : List Nat → List Nat → Nat
  | d :: ds, s :: ss => (d - 1) * s + maxOffset ds ss
  | _, _ => 0

/-- The span of a view's extent; zero when a dimension is zero (12 R247). -/
def TView.span (v : TView) : Nat :=
  if v.dims.any (· == 0) then 0
  else if fmtSubByte v.fmt then
    maxOffset (v.dims.drop 1) (v.strides.drop 1) + (packedSpan v.fmt v.first (v.dims.getD 0 1)).2
  else maxOffset v.dims v.strides + elemBytes v.fmt

/-- The lowest address of a view's extent. -/
def TView.lo (v : TView) : Nat :=
  if fmtSubByte v.fmt then v.base + (packedSpan v.fmt v.first 1).1 else v.base

/-- Offsets of the outer rows, the second dimension fastest. -/
def outerOffsets : List Nat → List Nat → List Nat
  | d :: ds, s :: ss =>
    (outerOffsets ds ss).flatMap (fun o => (List.range d).map (fun i => o + i * s))
  | _, _ => [0]

/-- The byte segments that a view reads, in index order (12 R247). -/
def TView.segments (v : TView) : List (Nat × Nat) :=
  let n := v.dims.getD 0 1
  let rows := outerOffsets (v.dims.drop 1) (v.strides.drop 1)
  if v.dims.any (· == 0) then []
  else if fmtSubByte v.fmt then
    let (lo, len) := packedSpan v.fmt v.first n
    rows.map (fun o => (v.base + o + lo, len))
  else
    let eb := elemBytes v.fmt
    let st := v.strides.getD 0 eb
    if st = eb then rows.map (fun o => (v.base + o, n * eb))
    else rows.flatMap (fun o => (List.range n).map (fun i => (v.base + o + i * st, eb)))

/-- The codes of elements `first` to `first + n - 1` of a packed row, out of the bytes that hold them (08 R152). -/
def rowCodes (fmt first n : Nat) (r : List Byte) : List Nat :=
  if fmt = fTer then (unpackCodes fmt (first % 5 + n) r).drop (first % 5)
  else
    let w := fmtBits fmt
    let x := leNat r
    (List.range n).map (fun k => bitsAt x (first * w % 8 + k * w) w)

/-- Rows of packed bytes as one densely packed sequence (08 R152). -/
def TView.dense (v : TView) (bs : List Byte) : List Byte :=
  if fmtSubByte v.fmt then
    let n := v.dims.getD 0 1
    if v.first = 0 then packCodes v.fmt ((chunksOf (packedBytes v.fmt n) bs).flatMap (unpackCodes v.fmt n))
    else packCodes v.fmt ((chunksOf (packedSpan v.fmt v.first n).2 bs).flatMap (rowCodes v.fmt v.first n))
  else bs

/-- A dense sequence of elements cut into the bytes of a view's segments (08 R152). -/
def TView.spread (v : TView) (bs : List Byte) : List Byte :=
  if fmtSubByte v.fmt then
    let n := v.dims.getD 0 1
    (chunksOf n (unpackCodes v.fmt v.count bs)).flatMap (packCodes v.fmt)
  else bs

/-- The byte offset of outer row `r`. -/
def stridedOffset : Nat → List Nat → List Nat → Nat
  | r, d :: ds, st :: ss => r % d * st + stridedOffset (r / d) ds ss
  | _, _, _ => 0

/-- The whole bytes that hold element `k` in index order: address, length, and the element's place among them. -/
def TView.place (v : TView) (k : Nat) : Nat × Nat × Nat :=
  let n := v.dims.getD 0 1
  let row := v.base + stridedOffset (k / n) (v.dims.drop 1) (v.strides.drop 1)
  let i := k % n
  if fmtSubByte v.fmt then
    let g := groupElems v.fmt
    (row + i / g * groupBytes v.fmt, packedBytes v.fmt (min g (n - i / g * g)), i % g)
  else (row + i * v.strides.getD 0 0, elemBytes v.fmt, 0)

/-- A tensor is dense (12 R256). -/
def denseFrom (eb : Nat) : Nat → List Nat → List Nat → Bool
  | span, d :: ds, s :: ss => decide (s = span) && denseFrom eb (span * d) ds ss
  | _, _, _ => true

def TView.isDense (v : TView) : Bool :=
  if fmtSubByte v.fmt then
    decide (v.strides.getD 0 0 = 0) &&
    denseFrom 1 (packedBytes v.fmt (v.dims.getD 0 1)) (v.dims.drop 1) (v.strides.drop 1)
  else denseFrom (elemBytes v.fmt) (elemBytes v.fmt) v.dims v.strides

/-- The interval of an operand over items 0 to n - 1 (12 R256). -/
def Tensor.interval (t : Tensor) (perItem : Bool) (n : Nat) : Nat × Nat :=
  if perItem then
    let a := t.view.sliceAt 0
    let b := t.view.sliceAt (n - 1)
    (a.lo, b.lo + b.span)
  else (t.view.lo, t.view.lo + t.view.span)

def intersects (a b : Nat × Nat) : Bool := decide (a.1 < b.2) && decide (b.1 < a.2)

/-! ### Skip runs -/

/-- A position lies in a run. -/
def inRuns (runs : List (Nat × Nat)) (p : Nat) : Bool := runs.any (fun r => decide (r.1 ≤ p) && decide (p < r.1 + r.2))

/-- Unit `u` of an operator with count `ck` is skipped (05 R463). -/
def unitSkipped (runs : List (Nat × Nat)) (c0 ck u : Nat) : Bool :=
  if runs.isEmpty || c0 = 0 || ck = 0 then false
  else if c0 ≤ ck then
    -- the position p with p * ck / c0 ≤ u < (p + 1) * ck / c0
    inRuns runs (((u + 1) * c0 - 1) / ck)
  else
    let lo := u * c0 / ck
    let hi := (u + 1) * c0 / ck
    decide (lo < hi) && (List.range (hi - lo)).all (fun k => inRuns runs (lo + k))

/-- Runs in order, from a predicate over positions. -/
def runsOf (n : Nat) (p : Nat → Bool) : List (Nat × Nat) :=
  ((List.range n).foldl (fun (acc : List (Nat × Nat)) i =>
    if p i then
      match acc with
      | (f, l) :: rest => if f + l = i then (f, l + 1) :: rest else (i, 1) :: acc
      | [] => [(i, 1)]
    else acc) []).reverse

/-- The union of two sets of runs over `n` positions. -/
def unionRuns (n : Nat) (a b : List (Nat × Nat)) : List (Nat × Nat) :=
  if b.isEmpty then a else if a.isEmpty then b else runsOf n (fun i => inRuns a i || inRuns b i)

/-- The first `n` list elements kept by a predicate on their position. -/
def keepUnits {α : Type} (p : Nat → Bool) (xs : List α) : List α :=
  ((List.range xs.length).zip xs).filterMap (fun q => if p q.1 then some q.2 else none)

end Sys2Proof.Machine
end

