-- ==== Sys2Proof/Machine/Scaled.lean ====
section
/-!
DEFINITION. Scaled blocks of 32 elements with escapes: layout, decoding, encoding, malformed blocks, and
the row stride of a group (08 R160 to R164, 09 R179).
-/

namespace Sys2Proof.Machine

open Sys2Proof

/-- The ten scaled formats of R160. -/
def fmtScaled (c : Fmt) : Bool :=
  [fBin1, fTer, fInt2, fInt4, fFp4, fFp6a, fFp6b, fFp8a, fFp8b, fInt8].contains c

/-- The tags a row group may carry (R179). -/
def tagValid (c : Fmt) : Bool :=
  fmtScaled c || decide (c = fFp16) || decide (c = fBf16) || decide (c = fFp32)

/-- `emax` of the scaled formats (R151). -/
def fmtEmax (c : Fmt) : Int :=
  if c = fInt4 then 2 else if c = fFp4 then 2 else if c = fFp6a then 4 else if c = fFp6b then 2
  else if c = fFp8a then 8 else if c = fFp8b then 15 else if c = fInt8 then 6 else 0

/-- Blocks of a vector of `n` elements. -/
def blockCount (n : Nat) : Nat := ceilDiv n 32

/-- P of R160: payload bytes of one block. -/
def payloadBytes (c : Fmt) : Nat := packedBytes c 32

/-- F of R160: payloads, scales and escape map, padded to a multiple of 4. -/
def fixedPart (c : Fmt) (n : Nat) : Nat :=
  let b := blockCount n
  roundUp (b * payloadBytes c + b + ceilDiv b 4) 4

/-- S of R179. -/
def rowStride (c : Fmt) (rowLen eRow : Nat) : Nat :=
  if fmtScaled c then fixedPart c rowLen + 4 * eRow
  else roundUp (packedBytes c rowLen) 4

/-- Bytes of a group of 4,096 rows (R179). -/
def groupSize (stride : Nat) : Nat := roundUp (4096 * stride) 256

/-- A value times a power of two. -/
def numScale (v : Num) (k : Int) : Num :=
  match v with
  | .nan => .nan
  | .inf n => .inf n
  | .fin n m e => .fin n m (e + k)

/-- Escape entries of R160: bits 15:0 value, 20:16 position, 31:21 reserved. -/
def escValue (w : Nat) : Nat := bitsAt w 0 16
def escPos (w : Nat) : Nat := bitsAt w 16 5
def escReserved (w : Nat) : Nat := bitsAt w 21 11

/-- Strictly ascending numbers. -/
def ascending : List Nat → Bool
  | [] => true
  | [_] => true
  | a :: b :: xs => decide (a < b) && ascending (b :: xs)

/-- Whether one block is malformed (R164): scale 0xFF, count 3, a bad escape entry, a TER byte at or
above 243, or entries past the area. -/
def blockMalformed (c : Fmt) (payload : List Byte) (scale cnt : Nat) (entries : List Nat)
    (inArea : Bool) : Bool :=
  decide (scale = 0xFF) || decide (cnt = 3) || !inArea ||
  entries.any (fun w => decide (escReserved w ≠ 0)) || !ascending (entries.map escPos) ||
  (decide (c = fTer) && payload.any (fun b => decide (b.toNat ≥ 243)))

/-- The decoded elements of one good block (R161), as FP32 bits. -/
def decodeBlock (c : Fmt) (payload : List Byte) (scale : Nat) (entries : List Nat) : List W32 :=
  (unpackCodes c 32 payload).zipIdx.map (fun (code, p) =>
    match entries.find? (fun w => escPos w = p) with
    | some w => widenCode fBf16 (escValue w)
    | none => f32OfNum (numScale (numOfCode c code) ((scale : Int) - 127)))

/-- Decodes the blocks of a vector in order, placing escape entries one block after another; answers the
values and the number of malformed blocks (R161, R164). -/
def decodeBlocks (c : Fmt) (bs : List Byte) (b f area : Nat) : Nat → Nat → Nat → List W32 × Nat
  | 0, _, _ => ([], 0)
  | n + 1, k, off =>
    let payload := slice bs (k * payloadBytes c) (payloadBytes c)
    let scale := leAt bs (b * payloadBytes c + k) 1
    let cnt := bitsAt (leAt bs (b * payloadBytes c + b + k / 4) 1) (2 * (k % 4)) 2
    let used := if cnt = 3 then 0 else cnt
    let entries := (List.range used).map (fun i => leAt bs (f + 4 * (off + i)) 4)
    let bad := blockMalformed c payload scale cnt entries (used == 0 || decide (f + 4 * (off + used) ≤ area))
    let vals := if bad then List.replicate 32 0#32 else decodeBlock c payload scale entries
    let rest := decodeBlocks c bs b f area n (k + 1) (off + used)
    (vals ++ rest.1, (if bad then 1 else 0) + rest.2)

/-- A scaled vector of `n` elements held in an area of `area` bytes: FP32 values and bad blocks. -/
def decodeVector (c : Fmt) (n area : Nat) (bs : List Byte) : List W32 × Nat :=
  let b := blockCount n
  let r := decodeBlocks c bs b (fixedPart c n) area b 0 0
  (r.1.take n, r.2)

/-- A row of a group under its tag (R179): FP32 values and bad blocks. -/
def decodeRow (c : Fmt) (rowLen stride : Nat) (bs : List Byte) : List W32 × Nat :=
  if fmtScaled c then decodeVector c rowLen stride bs
  else ((unpackCodes c rowLen bs).map (widenCode c), 0)

/-- The ranking of R162 on magnitudes: NaN first, infinity above finite, larger first. -/
def magKey (x : W32) : Nat :=
  if f32IsNan x then 2 ^ 32 else x.toNat % 2 ^ 31

/-- Insert a (key, index) pair so that keys descend and equal keys keep ascending index. -/
def rankInsert (x : Nat × Nat) : List (Nat × Nat) → List (Nat × Nat)
  | [] => [x]
  | y :: ys => if x.1 > y.1 || (x.1 = y.1 && x.2 < y.2) then x :: y :: ys else y :: rankInsert x ys

def rankOrder (xs : List (Nat × Nat)) : List (Nat × Nat) := xs.foldr rankInsert []

/-- `|x| > 2^t × m` on finite FP32 magnitudes, with an infinite `x` or `m` as R162 reads them. -/
def magAbove (x m : W32) (t : Nat) : Bool :=
  match f32Num x, f32Num m with
  | .fin _ a ea, .fin _ b eb => dyadicGt a ea b (eb + t)
  | .inf _, .fin _ _ _ => true
  | _, _ => false

/-- The escape candidates of one block (R162): positions, in rank order. -/
def escCandidates (xs : List W32) (k t : Nat) : List Nat :=
  let ranked := rankOrder (xs.zipIdx.map (fun (x, p) => (magKey x, p)))
  let m? := (ranked[k]?).map (fun r => xs.getD r.2 0)
  ((ranked.take k).map (·.2)).filter (fun p =>
    let x := xs.getD p 0
    !f32IsFinite x || (match m? with | some m => magAbove x m t | none => false))

/-- The scale byte of a block (R162) over its finite elements that are not escaped. -/
def blockScale (c : Fmt) (xs : List W32) (esc : List Nat) : Nat :=
  let mags := xs.zipIdx.filterMap (fun (x, p) =>
    if esc.contains p || !f32IsFinite x then none else some (x.toNat % 2 ^ 31))
  let top := mags.foldl max 0
  if top = 0 then 0
  else
    match f32Num (BitVec.ofNat 32 top) with
    | .fin _ m e =>
      let lg := (Nat.log2 m : Int) + e
      (min 254 (max 0 (lg - fmtEmax c + 127))).toNat
    | _ => 0

/-- A scaled element that is neither escaped nor NaN; an infinity saturates (R162). -/
def scaledCode (c : Fmt) (mode : RMode) (x : W32) (s : Nat) : Coded :=
  match f32Num x, floatSpec? c with
  | .inf neg, some f => ⟨floatSignBit f neg + floatMaxCode f, true, false⟩
  | v, _ => encodeNum c mode false (numScale v (127 - (s : Int)))

/-- One encoded block. -/
structure BlockEnc where
  codes : List Nat
  scale : Nat
  entries : List Nat
  sat : Nat
  nan : Nat
  deriving DecidableEq, Repr

/-- The encoder of R162 on one block, with its escape positions already decided. `mode p` is the rounding
mode of element `p`. -/
def encodeBlock (c : Fmt) (mode : Nat → RMode) (xs : List W32) (esc : List Nat) : BlockEnc :=
  let s := blockScale c xs esc
  let cs := xs.zipIdx.map (fun (x, p) =>
    if esc.contains p then (⟨0, false, false⟩ : Coded)
    else if f32IsNan x then ⟨0, false, true⟩
    else scaledCode c (mode p) x s)
  let entries := (xs.zipIdx.filterMap (fun (x, p) =>
    if esc.contains p then some ((narrowF32 fBf16 x).code + p * 2 ^ 16) else none))
  ⟨cs.map (·.code) ++ List.replicate (32 - xs.length) 0, s, entries,
   cs.countP (·.sat), cs.countP (·.nan)⟩

/-- An encoded vector: fixed part, escape entries, and the counts of R171. -/
structure VectorEnc where
  bytes : List Byte
  sat : Nat
  nan : Nat
  denied : Nat
  deriving DecidableEq, Repr

/-- Candidates of all blocks as (magnitude key, element index), ranked by R163. -/
def vectorCandidates (blocks : List (List W32)) (k t : Nat) : List (Nat × Nat) :=
  rankOrder (blocks.zipIdx.flatMap (fun (xs, j) =>
    (escCandidates xs k t).map (fun p => (magKey (xs.getD p 0), 32 * j + p))))

/-- The layout of R160 from encoded blocks; `room` escape entries follow the fixed part. -/
def layoutVector (c : Fmt) (n room : Nat) (es : List BlockEnc) : List Byte :=
  let payload := es.flatMap (fun e => packCodes c e.codes)
  let scales := es.map (fun e => BitVec.ofNat 8 e.scale)
  let escMap := packCodes fInt2 (es.map (fun e => e.entries.length))
  let fixed := payload ++ scales ++ escMap
  let entries := es.flatMap (fun e => e.entries.flatMap (fun w => natLE w 4))
  slice fixed 0 (fixedPart c n) ++ slice entries 0 (4 * room)

/-- Encode a vector with at most `room` escapes in all (R162, R163). -/
def encodeVector (c : Fmt) (mode : Nat → RMode) (k t room : Nat) (xs : List W32) : VectorEnc :=
  let blocks := chunksOf 32 xs
  let cands := vectorCandidates blocks k t
  let kept := (cands.take room).map (·.2)
  let es := blocks.zipIdx.map (fun (b, j) =>
    let esc := kept.filterMap (fun i => if i / 32 = j then some (i % 32) else none)
    encodeBlock c (fun p => mode (32 * j + p)) b esc)
  ⟨layoutVector c xs.length room es, (es.map (·.sat)).sum, (es.map (·.nan)).sum,
   cands.length - room⟩

/-- A row written in a group's tag (10 R217): unscaled tags convert, scaled tags encode. -/
def encodeRow (c : Fmt) (mode : Nat → RMode) (k t eRow : Nat) (xs : List W32) : VectorEnc :=
  if fmtScaled c then encodeVector c mode k t eRow xs
  else
    let cs := xs.zipIdx.map (fun (x, i) => encodeNum c (mode i) false (f32Num x))
    ⟨padTo 4 (packCodes c (cs.map (·.code))), cs.countP (·.sat), cs.countP (·.nan), 0⟩

/-- The promotion ladder of R173. -/
def promoteTo? (c : Fmt) : Option Fmt :=
  if c = fBin1 then some fTer else if c = fTer then some fInt2 else if c = fInt2 then some fInt4
  else if c = fInt4 then some fInt8 else if c = fFp4 then some fFp6a
  else if c = fFp6a ∨ c = fFp6b then some fFp8a
  else if c = fFp8a ∨ c = fFp8b ∨ c = fInt8 then some fBf16
  else if c = fFp16 ∨ c = fBf16 then some fFp32 else none

end Sys2Proof.Machine
end

