-- ==== Sys2Proof/Machine/Tables.lean ====
section
/-!
DEFINITION. Embedding tables as the device holds them: table descriptors and directories in the Deck (09 R176 to
R181), versions and their pins (09 R198 to R200), the state table of a table (10 R202), groups that need a rebuild
(18 R395 to R399), the eight places that rebuilds and migrations share (09 R196, 18 R397), migrations that are
abandoned (09 R196), the optimiser step and the write-back of a row (10 R216, R217).
-/

namespace Sys2Proof.Machine

open Sys2Proof

def modRebuild (s : State) (i : Nat) (f : Rebuild → Rebuild) : State :=
  { s with heal := { s.heal with rebuilds := NMap.modify s.heal.rebuilds i f } }

def modMigration (s : State) (i : Nat) (f : Migration → Migration) : State :=
  { s with tables := { s.tables with migrations := NMap.modify s.tables.migrations i f } }

/-! ### Descriptors and directories -/

/-- The fields of a table descriptor (09 R177). -/
structure TDesc where
  tableId : Nat
  rowCount : Nat
  rowLen : Nat
  dflt : Nat
  maxEsc : Nat
  escShift : Nat
  eRow : Nat
  updatable : Bool
  autoMigrate : Bool
  threshold : Nat
  budget : Nat
  salt : Nat
  version : Nat
  upd : Nat
  dir : Nat
  groups : Nat
  promoteHits : Nat
deriving DecidableEq, Repr

def parseTDesc (b : List Byte) : TDesc :=
  { tableId := leAt b 8 8, rowCount := leAt b 16 8, rowLen := leAt b 24 2, dflt := leAt b 26 1
    maxEsc := leAt b 27 1 % 4, escShift := leAt b 27 1 / 16, eRow := leAt b 28 2
    updatable := bitAt (leAt b 30 2) 0, autoMigrate := bitAt (leAt b 30 2) 1
    threshold := leAt b 32 4, budget := leAt b 36 4, salt := leAt b 40 8, version := leAt b 48 8, upd := leAt b 56 8
    dir := leAt b 64 8, groups := leAt b 72 4, promoteHits := leAt b 76 2 }

def tdesc (s : State) (base : Nat) : TDesc := parseTDesc (deckRead s base 256)

/-- The fields of a directory entry (09 R180). -/
structure DEntry where
  loc : Nat
  backing : Nat
  fmt : Nat
  state : Nat
  flags : Nat
  sat : Nat
  hits : Nat
  stride : Nat
  leaf : List Byte
deriving DecidableEq, Repr

def DEntry.inherited (e : DEntry) : Bool := bitAt e.flags 0
def DEntry.pinned (e : DEntry) : Bool := bitAt e.flags 1
def DEntry.dirty (e : DEntry) : Bool := bitAt e.flags 2
def DEntry.tier (e : DEntry) : Nat := e.loc / 2 ^ 62
def DEntry.size (e : DEntry) : Nat := groupSize e.stride

def withBit (v i : Nat) (on : Bool) : Nat := if bitAt v i = on then v else if on then v + 2 ^ i else v - 2 ^ i

def parseEntry (b : List Byte) : DEntry :=
  { loc := leAt b 0 8, backing := leAt b 8 8, fmt := leAt b 16 1, state := leAt b 17 1, flags := leAt b 18 1
    sat := leAt b 20 4, hits := leAt b 24 2, stride := leAt b 28 4, leaf := slice b 32 32 }

def entryBytes (e : DEntry) : List Byte :=
  natLE e.loc 8 ++ natLE e.backing 8 ++ natLE e.fmt 1 ++ natLE e.state 1 ++ natLE e.flags 1 ++ natLE 0 1 ++
  natLE e.sat 4 ++ natLE e.hits 2 ++ natLE 0 2 ++ natLE e.stride 4 ++ slice e.leaf 0 32

def dentry (s : State) (t : TDesc) (g : Nat) : DEntry := parseEntry (deckRead s (t.dir + 64 * g) 64)

/-- States of a group (09 R180). -/
abbrev gResident : Nat := 0
abbrev gTail : Nat := 1
abbrev gMigrating : Nat := 2
abbrev gRebuilding : Nat := 3
abbrev gLost : Nat := 4

def getVer (s : State) (v : Nat) : Option Version := NMap.find? s.tables.versions v

def modVer (s : State) (v : Nat) (f : Version → Version) : State :=
  { s with tables := { s.tables with versions := NMap.modify s.tables.versions v f } }

/-- Group `g` of a version in use: the table descriptor and the directory entry. -/
def groupOf (s : State) (v g : Nat) : Option (TDesc × DEntry) :=
  (getVer s v).bind (fun x =>
    let t := tdesc s x.desc
    if g < t.groups then some (t, dentry s t g) else none)

/-- One atomic write of a directory entry (09 R181). -/
def modEntry (s : State) (v g : Nat) (f : DEntry → DEntry) : State :=
  match getVer s v, groupOf s v g with
  | some _, some (t, e) => deckWrite s (t.dir + 64 * g) (entryBytes (f e))
  | _, _ => s

/-- The bytes of a table-set slot (09 R176). -/
def slotBase (set t : Nat) : Nat := set + 64 * t
def slotValid (s : State) (set t : Nat) : Bool := bitAt (leNat (deckRead s (slotBase set t) 8)) 63
def slotDesc (s : State) (set t : Nat) : Nat := leNat (deckRead s (slotBase set t) 8) % 2 ^ 41

/-- The atomic write of a slot's base and version (09 R176, R198). -/
def writeSlot (s : State) (set t base version : Nat) : State :=
  deckWrite s (slotBase set t) (natLE (2 ^ 63 + base) 8 ++ natLE version 8)

/-- The version in force of a slot (09 R176, R198). -/
def currentVer (s : State) (set t : Nat) : Option (Nat × Version) :=
  List.find? (fun p => p.2.current && !p.2.retired && p.2.setBase == set && p.2.slot == t &&
    slotValid s set t && slotDesc s set t == p.2.desc) s.tables.versions

/-- The versions of a table set's occupied slots (09 R199). -/
def currentVers (s : State) (set : Nat) : List Nat :=
  (s.tables.versions.filter (fun p => p.2.current && !p.2.retired && p.2.setBase == set &&
    slotValid s set p.2.slot && slotDesc s set p.2.slot == p.2.desc)).map (·.1)

/-- The descriptors that pin a version (09 R199). -/
def pinned (s : State) (v : Nat) : Bool :=
  s.ctxs.any (fun c => c.2.rings.any (fun r => r.2.descs.any (fun d => d.2.pins.contains v)))

/-- The version of a table that a descriptor's pins hold (09 R199). -/
def pinnedVer (s : State) (pins : List Nat) (set t : Nat) : Option (Nat × Version) :=
  pins.findSome? (fun v => match getVer s v with
    | some x => if x.setBase = set ∧ x.slot = t then some (v, x) else none
    | none => none)

/-- The version itself, and the versions in use whose directory holds the group at the same location (18 R395; a group that
migrates when its version is retired keeps its entry until the migration ends, 09 R197). -/
def holders (s : State) (v g : Nat) : List Nat :=
  match getVer s v, groupOf s v g with
  | some x, some (_, e) =>
    (s.tables.versions.filter (fun p => (p.1 == v || !p.2.retired) && p.2.setBase == x.setBase && p.2.slot == x.slot &&
      (match groupOf s p.1 g with | some (_, f) => f.loc == e.loc | none => false))).map (·.1)
  | _, _ => []

/-- Change the entry of a group in every version that holds it. -/
def modGroup (s : State) (v g : Nat) (f : DEntry → DEntry) : State :=
  (holders s v g).foldl (fun s w => modEntry s w g f) s

/-- The group is shared with another version: an entry that holds it is inherited (09 R200). -/
def sharedGroup (s : State) (v g : Nat) : Bool :=
  (holders s v g).any (fun w => (groupOf s w g).elim false (fun p => p.2.inherited))

/-- A migration of the group is under way: it has started, and the old place is not yet free (09 R194). -/
def movesNow (s : State) (v g : Nat) : Bool :=
  let hs := holders s v g
  s.tables.migrations.any (fun p => hs.contains p.2.ver && p.2.group == g && p.2.phase != 0)

/-- The Deck offset of a tensor handle's base in a context, for tensors of this device's Deck. -/
def handleBase (s : State) (x : Ctx) (h : Nat) : Option Nat :=
  (NMap.find? x.tensors h).bind (fun t => if isDeck s t.base then some (gLocal t.base) else none)

/-- The ROWS queues of the module, with context, number and table set. -/
def rowsQueues (s : State) : List (Nat × Nat × Nat × MergeQueue) :=
  s.ctxs.flatMap (fun c => c.2.queues.filterMap (fun q =>
    if q.2.rows then (handleBase s c.2 q.2.tableSet).map (fun b => (c.1, q.1, b, q.2)) else none))

/-- The state table's version of a table's version (10 R202). -/
def stateVer (s : State) (v : Nat) : Option Nat :=
  (getVer s v).bind (fun x =>
    (List.find? (fun q => q.2.2.1 == x.setBase && q.2.2.2.table == x.slot) (rowsQueues s)).bind (fun q =>
      q.2.2.2.stateTable.bind (fun k => (currentVer s x.setBase k).map (·.1))))

/-- The weight table's version of a state table's version. -/
def weightVer (s : State) (v : Nat) : Option Nat :=
  (getVer s v).bind (fun x =>
    (List.find? (fun q => q.2.2.1 == x.setBase && q.2.2.2.stateTable == some x.slot) (rowsQueues s)).bind (fun q =>
      (currentVer s x.setBase q.2.2.2.table).map (·.1)))

/-- The group whose location holds an address of the model, among versions in use (17 R370, 18 R395). -/
def groupAt (s : State) (a : Nat) : Option (Nat × Nat) :=
  (s.tables.versions.filter (fun p => !p.2.retired)).findSome? (fun p =>
    let t := tdesc s p.2.desc
    ((List.range t.groups).find? (fun g =>
      let e := dentry s t g
      let b := locAddr s e.loc
      decide (b ≤ a) && decide (a < b + e.size))).map (fun g => (p.1, g)))

/-! ### Group bytes -/

/-- Where row slot `j` of a group lies, as an address of the model (09 R179). -/
def rowAddr (s : State) (e : DEntry) (j : Nat) : Nat := locAddr s e.loc + j * e.stride

def inDeckTier (e : DEntry) : Bool := e.tier == 0

/-! ### The places of the Causeway engine -/

def placesUsed (s : State) : Nat :=
  (s.heal.rebuilds.filter (fun p => p.2.running)).length +
  (s.tables.migrations.filter (fun p => decide (1 ≤ p.2.phase) && decide (p.2.phase ≤ 3))).length

/-- The frame of a group's backing copy: where it lies and how long it is (17 R380). -/
def backingExtent (s : State) (e : DEntry) : Nat × Nat :=
  (locAddr s e.backing, 64 + checkArrayLen 0 e.size + e.size)

/-- The journal blocks of a table after its last COMMIT block that hold records of a group, and the SKIP blocks
between them: context, and block number (18 R396). -/
def journalBlocks (s : State) (table g : Nat) : List (Nat × Nat) :=
  s.ctxs.flatMap (fun c =>
    let fs := (c.2.journal.frames.map (·.2)).filter (fun f => f.table == table && f.acked)
    let last := (fs.filter (fun f => f.kind == 2)).foldl (fun a f => max a (f.block + 1)) 0
    ((fs.filter (fun f => f.kind != 2 && decide (last ≤ f.block) && f.groups.contains g)).map (fun f => (c.1, f.block))).eraseDups)

/-- Every extent that a rebuild reads: the backing frames and the journal frames (18 R396). -/
def rebuildNeeds (s : State) (r : Rebuild) : List (Nat × Nat) :=
  (match groupOf s r.ver r.group with
    | none => []
    | some (t, e) =>
      backingExtent s e ::
      (journalBlocks s t.tableId r.group).flatMap (fun b =>
        match NMap.find? s.ctxs b.1 with
        | none => []
        | some x => (x.journal.frames.filter (fun f => f.2.block == b.2)).map (fun f =>
            (locAddr s x.journal.base + f.2.off, f.2.len)))) ++
  (match r.state.bind (fun v => groupOf s v r.group) with
    | some (_, e) => [backingExtent s e]
    | none => [])

/-- Ask for the extents that a rebuild still needs. -/
def askRebuild (s : State) (i : Nat) : State :=
  match NMap.find? s.heal.rebuilds i with
  | none => s
  | some r =>
    let ctx := ((getVer s r.ver).map (·.ctx)).getD 0
    (rebuildNeeds s r).foldl (fun s g =>
      match NMap.find? s.heal.rebuilds i with
      | none => s
      | some r =>
        if r.asked.contains g then s
        else
          let s1 := modRebuild s i (fun r => { r with asked := r.asked ++ [g], waiting := r.waiting + (pieces g.1 g.2).length })
          issueReads s1 (.rebuild i) ctx g.1 g.2) s

/-- A migration that may not start is ignored and counted (09 R194). -/
def ignoreMigration (s : State) (i : Nat) (m : Migration) : State :=
  let s1 := event (bump s ctMigIgnored 1) evEmb 2
  let s2 := match m.by_ with
    | some (c, r, d) => modDesc s1 c r d (fun x => if x.status.isSome then x else
        { x with status := some 0, detail := 1, running := false })
    | none => s1
  { s2 with tables := { s2.tables with migrations := NMap.erase s2.tables.migrations i } }

/-- Free places go to waiting rebuilds ahead of waiting migrations; a migration waits for an earlier one of its group to end
(09 R194, R196; 18 R397). -/
def givePlacesFuel : Nat → State → State
  | 0, s => s
  | f + 1, s =>
    if 8 ≤ placesUsed s then s
    else match List.find? (fun p => !p.2.running && p.2.fatal.isNone) s.heal.rebuilds with
    | some (i, _) =>
      givePlacesFuel f (askRebuild (modRebuild s i (fun r => { r with running := true, since := now s })) i)
    | none => match List.find? (fun p => p.2.phase == 0 && !(movesNow s p.2.ver p.2.group)) s.tables.migrations with
      | some (i, m) =>
        let st := (groupOf s m.ver m.group).elim gLost (fun p => p.2.state)
        if (st != gResident && st != gTail) || sharedGroup s m.ver m.group || (getVer s m.ver).elim true (·.retired) then
          givePlacesFuel f (ignoreMigration s i m)
        else
        let s1 := modMigration s i (fun m => { m with phase := 1, prior := st })
        givePlacesFuel f (modGroup s1 m.ver m.group (fun e => { e with state := gMigrating }))
      | none => s

def givePlaces (s : State) : State := givePlacesFuel 9 s

/-! ### Migrations that end early -/

def migrationOf (s : State) (v g : Nat) : Option (Nat × Migration) :=
  let hs := holders s v g
  List.find? (fun p => hs.contains p.2.ver && p.2.group == g && decide (p.2.phase ≤ 3)) s.tables.migrations

/-- An apply has changed a row: its stage entries are invalidated, and a prefetch that is reading the row will not stage what
it read (09 R192). -/
def dropStageRow (s : State) (v row addr : Nat) : State :=
  match getVer s v with
  | none => s
  | some x => { s with
    ctxs := s.ctxs.map (fun c => (c.1, { c.2 with stage := c.2.stage.filter (fun e =>
      !(e.table == x.tableId && e.version == x.version && e.row == row)) }))
    sched := { s.sched with items := s.sched.items.map (fun p =>
      if p.2.lookups.any (fun l => l.2.addr == addr) then (p.1, { p.2 with
        lookups := p.2.lookups.map (fun l => if l.2.addr = addr then (l.1, { l.2 with stale := true }) else l) }) else p) } }

/-- The held rows of a migration go to a location, each on behalf of its ROW_APPLY item (09 R194 step 5, R196). -/
def writeHeld (s : State) (i loc : Nat) (m : Migration) : State :=
  let ctx := ((getVer s m.ver).map (·.ctx)).getD 0
  let base := locAddr s loc
  let stride := (groupOf s m.ver m.group).elim 1 (fun p => p.2.stride)
  let s1 := m.held.foldl (fun s h =>
    let a := base + h.2.1
    let s := dropStageRow s m.ver (m.group * 4096 + h.2.1 / max 1 stride) a
    if isDeck s a then deckWrite s (gLocal a) h.2.2
    else issueWrites (modItem s h.1 (fun it => { it with waiting := it.waiting + (pieces a h.2.2.length).length }))
      (.row h.1) ctx a h.2.2) s
  modMigration s1 i (fun m => { m with held := [] })

/-- A place in the Causeway that placement took for a group can be taken again (09 R196). -/
def giveTail (s : State) (m : Migration) : State :=
  if m.by_.isSome || m.target / 2 ^ 62 = 0 then s
  else modVer s m.ver (fun x => { x with freeTail := x.freeTail ++ [(m.target, (groupOf s m.ver m.group).elim 0 (fun p => p.2.size))] })

/-- Abandon a migration: the entry keeps its location and its earlier state, the held rows are written there, the target is
freed, and so is the place (09 R196). -/
def abandon (s : State) (i : Nat) : State :=
  match NMap.find? s.tables.migrations i with
  | none => s
  | some m =>
    let s1 := modGroup s m.ver m.group (fun e => { e with state := m.prior })
    let s2 := giveTail (writeHeld s1 i m.old m) m
    let s3 := event (bump s2 ctMigAbandoned 1) evEmb 1
    let s4 := match m.by_ with
      | some (c, r, d) => modDesc s3 c r d (fun x => if x.status.isSome then x else
          { x with status := some 0, detail := 2, running := false })
      | none => s3
    { s4 with tables := { s4.tables with migrations := NMap.erase s4.tables.migrations i }
              kid := { s4.kid with accs := s4.kid.accs.filter (fun p => p.2.owner != .migration i || p.2.write) } }

/-! ### Rebuilds -/

def isLostGroup (s : State) (v g : Nat) : Bool :=
  match groupOf s v g with
  | some (_, e) => e.state == gLost
  | none => false

/-- A group becomes LOST in every version that holds it (18 R399). -/
def makeLost (s : State) (v g : Nat) : State :=
  match getVer s v, groupOf s v g with
  | some x, some (_, e) =>
    if e.state = gLost then s
    else
      let s1 := modGroup s v g (fun e => { e with state := gLost })
      healLog (event (bump s1 ctGroupLost 1) evHeal 3)
        { kind := 8, table := x.tableId, version := x.version, group := g, row := g * 4096, address := e.loc }
  | _, _ => s

def startLog (s : State) (v g : Nat) : State :=
  match getVer s v, groupOf s v g with
  | some x, some (_, e) => healLog s { kind := 6, table := x.tableId, version := x.version, group := g, address := e.loc }
  | _, _ => s

/-- Rows of a group that were copied or held but whose keys are not marked are copied again after its rebuild, which
leaves them out (10 R215, 18 R396). -/
def slotsAgain (s : State) (vs : List Nat) (g : Nat) : State :=
  { s with tables := { s.tables with slots := s.tables.slots.map (fun z =>
      let marked := match (NMap.find? s.ctxs z.ctx).bind (fun x => NMap.find? x.queues z.queue) with
        | some m => decide (z.step < m.toApply) || (match NMap.find? m.finals z.step with
          | some f => f.marked.contains z.key
          | none => false)
        | none => true
      if 3 ≤ z.kind ∧ vs.contains z.ver ∧ z.key / 4096 = g ∧ !marked then { z with kind := 0 } else z) } }

/-- A group needs a rebuild: it and its state group become REBUILDING in every version that holds them and wait for a
place, or become LOST when the other of the pair is LOST (18 R395, R397). -/
def startRebuild (s : State) (v0 g : Nat) (spill : Option Nat) : State :=
  let v := (weightVer s v0).getD v0
  let st := stateVer s v
  match groupOf s v g with
  | none => s
  | some (_, e) =>
    if e.state = gRebuilding || s.heal.rebuilds.any (fun p => p.2.ver == v && p.2.group == g) then s
    else if e.state = gLost then (match st with | some w => makeLost s w g | none => s)
    else if (match st with | some w => isLostGroup s w g | none => false) then makeLost s v g
    else
      let s0 := match migrationOf s v g with | some (i, _) => abandon s i | none => s
      let s0 := match st.bind (fun w => migrationOf s0 w g) with | some (i, _) => abandon s0 i | none => s0
      let prior := (groupOf s0 v g).elim gResident (fun p => p.2.state)
      let statePrior := (st.bind (fun w => groupOf s0 w g)).elim gResident (fun p => p.2.state)
      let s0 := slotsAgain s0 ((v :: st.toList)) g
      let s1 := modGroup s0 v g (fun e => { e with state := gRebuilding })
      let s2 := match st with | some w => modGroup s1 w g (fun e => { e with state := gRebuilding }) | none => s1
      let s3 := startLog s2 v g
      let s4 := match st with | some w => startLog s3 w g | none => s3
      let own := fun w => (groupOf s0 w g).elim [] (fun p =>
        let a := locAddr s p.2.loc
        if isDeck s a then [(gLocal a, p.2.size)] else [])
      let r : Rebuild := {
        ver := v, group := g, extents := own v ++ st.elim [] own, state := st, prior := prior, statePrior := statePrior, running := false, frame := [],
        asked := [], waiting := 0, once := [], fatal := none, spill := spill, since := now s, written := false }
      givePlaces { s4 with heal := { s4.heal with rebuilds := NMap.set s4.heal.rebuilds s4.heal.nextJob r,
                                                  nextJob := s4.heal.nextJob + 1 } }

/-- The group that holds a Deck offset and can be rebuilt (17 R370). -/
def deckGroup (s : State) (a : Nat) : Option (Nat × Nat) :=
  match groupAt s (gAddr (deviceId s) a) with
  | some (v, g) => match groupOf s v g with
    | some (_, e) => if inDeckTier e && e.state != gLost then some (v, g) else none
    | none => none
  | none => none

/-- Malformed blocks of scaled rows are read (08 R164). -/
def countMalformed (s : State) (n : Nat) : State := if n = 0 then s else event (bump s ctBadBlock n) evNum 2

/-- A write covers only part of a bad block of a group: the read that it makes starts the rebuild (17 R370, R461). -/
def startPart (s : State) (q : Nat × List Byte) : State :=
  let b := q.1 / 64
  if 64 ≤ q.2.length || !(badAt s (b * 64)) || inRebuild s b || (twinOf s (b * 64)).isSome then s
  else match deckGroup s (b * 64) with
    | some (v, g) => startRebuild (countBad s b) v g none
    | none => s

/-- Write Deck bytes for an owner: a part that covers only some of a bad block of a group waits for the group's rebuild
(17 R461). -/
def deckWriteFor (s : State) (own : Owner) (a : Nat) (bs : List Byte) : State :=
  if (blocksOf a bs.length).any (fun b => badAt s (b * 64)) then
    deckWriteParts ((blockParts a bs).foldl startPart s) own a bs
  else deckPut s a bs

/-- The parts of a write for an owner that wait. -/
def heldParts (s s1 : State) : Nat := s1.deck.held.length - s.deck.held.length

/-! ### The optimiser -/

/-- A value that is zero, of either sign. -/
def f32Zero (x : W32) : Bool := x.toNat % 2 ^ 31 == 0

def zipW (f : W32 → W32 → W32) (a b : List W32) : List W32 := List.zipWith f a b

/-- One optimiser step: the row and its state after the merged value `g` (10 R216). -/
def optStep (opt : Nat) (lr eps beta : W32) (w st g : List W32) : List W32 × List W32 :=
  match opt with
  | 0 => (zipW (fun w g => fsub w (fmul lr g)) w g, [])
  | 1 =>
    let m := zipW (fun m g => fadd (fmul beta m) g) st g
    (zipW (fun w m => fsub w (fmul lr m)) w m, m)
  | 2 =>
    let a := zipW (fun a g => fadd a (fmul g g)) st g
    let q := zipW (fun a g =>
      let d := fadd (fsqrt a) eps
      if f32Zero d then 0#32 else fdiv g d) a g
    (zipW (fun w q => fsub w (fmul lr q)) w q, a)
  | _ =>
    let t := g.foldl (fun t g => fadd t (fmul g g)) 0#32
    let a := fadd (st.getD 0 0#32) (fdiv t (fpNat w.length))
    let d := fadd (fsqrt a) eps
    let r := if f32Zero d then 0#32 else fdiv lr d
    (zipW (fun w g => fsub w (fmul r g)) w g, [a])

/-- Write a row back in its group's tag (10 R217). -/
def writeBack (t : TDesc) (e : DEntry) (row upd : Nat) (sr : Bool) (w : List W32) : VectorEnc :=
  encodeRow e.fmt (fun k => if sr then .sr (srWord t.tableId row k upd (BitVec.ofNat 64 t.salt)) else .rne)
    t.maxEsc t.escShift t.eRow w

def f32Bytes (xs : List W32) : List Byte := xs.flatMap (fun x => natLE x.toNat 4)
def bytesF32 (bs : List Byte) : List W32 := (chunksOf 4 bs).map (fun c => BitVec.ofNat 32 (leNat c))

end Sys2Proof.Machine
end

