-- ==== Sys2Proof/Machine/Work.lean ====
section
/-!
DEFINITION. The life of a work item as shared operations: when it is Ready (04 R57), how its operator chain reads and
writes operands (05 R79 to R91), charges (04 R64), commits (04 R55, 05 R93) and passes what it did to its descriptor.
-/

namespace Sys2Proof.Machine

open Sys2Proof

/-- The device runs work: a Run or Trim state, in service, with its dies on (18 R401, 20 R440). -/
def running (s : State) : Bool :=
  !s.power.off && !s.power.nap && s.power.entering.isNone && s.power.waking.isNone && !s.heal.outOfService &&
  s.boot.phase == 4

def itemCtx (s : State) (it : Item) : Option Ctx := NMap.find? s.ctxs it.ctx

/-- The chain image that an item runs. -/
def itemImage (s : State) (it : Item) : List Byte :=
  match (itemCtx s it).bind (fun x => NMap.find? x.chains it.chain) with
  | some c => c.image
  | none => []

/-- The operator that an item runs next. -/
def itemOp (s : State) (it : Item) : List Byte := chainOp (itemImage s it) it.op

/-- Every operator of the item has run. -/
def chainDone (s : State) (it : Item) : Bool := decide (chainOps (itemImage s it) ≤ it.op)

/-- The count of operator 0 (05 R90). -/
def itemPositions (s : State) (it : Item) : Nat := opCount (chainOp (itemImage s it) 0)

/-- The skip marker of a whole item (05 R90). -/
def wholeRun (s : State) (it : Item) : List (Nat × Nat) :=
  let n := itemPositions s it
  if n = 0 then [] else [(0, n)]

/-- The marker of a whole item of a chain (05 R90). -/
def wholeOf (s : State) (c k : Nat) : List (Nat × Nat) :=
  match (NMap.find? s.ctxs c).bind (fun x => NMap.find? x.chains k) with
  | some ch => let n := opCount (chainOp ch.image 0); if n = 0 then [] else [(0, n)]
  | none => []

/-! ### Time-slicing -/

/-- A stream that is not halted, or whose resume runs (12 R264, R270). -/
def streamGoes (x : Ctx) (t : Stream) : Bool :=
  !t.denied && t.ended.isNone && (match t.halt with
    | none => true
    | some h => (NMap.find? x.halts h).elim false (fun y => y.running.isSome && !y.cancelled))

/-- The context has Ready or Pending items, or a stream with blocks to move (04 R71). -/
def wantsScratch (s : State) (c : Nat) (x : Ctx) : Bool :=
  x.st == .active && (x.streams.any (fun t => streamGoes x t.2) ||
    s.sched.items.any (fun p => p.2.ctx == c && (p.2.st == .pending || p.2.st == .ready)))

/-- The reservations of the contexts that have work, and of the pinned ones, need more than 1 MiB (04 R71). -/
def slicing (s : State) : Bool :=
  decide (2 ^ 20 < s.ctxs.foldl (fun a p => a + if p.2.pinned || wantsScratch s p.1 p.2 then p.2.reservation else 0) 0)

def residentBytes (s : State) : Nat := s.ctxs.foldl (fun a p => a + if p.2.resident then p.2.reservation else 0) 0

/-- Time-slicing begins, which is an event, or ends (04 R71, R75). -/
def noteSlicing (s : State) : State :=
  let on := slicing s
  let s1 := { s with sched := { s.sched with slicing := on } }
  if on && !s.sched.slicing then event s1 evSched 5 else s1

/-! ### Events about items -/

/-- A record or item of a descriptor was quarantined (04 R65, R75; 15 R335). -/
def countQuarantine (s : State) (c r i n : Nat) : State :=
  if n = 0 then s
  else
    let s1 := (List.range n).foldl (fun s _ => event s evSched 3) s
    let s2 := modRing s1 c r (fun x => { x with quarantined := (x.quarantined + n) % 2 ^ 64, statusDirty := true })
    modDesc s2 c r i (fun d => { d with quarantined := d.quarantined + n })

/-! ### Readiness -/

/-- What a queue has stored of a step (10 R204). -/
def stepOf (m : MergeQueue) (step : Nat) : StepStore := NMap.getD m.steps step { recs := [], dropped := [], closes := [] }

/-- A DENSE key of a step is final: its step is, or it holds a contribution from every source (10 R206). -/
def denseFinal (m : MergeQueue) (step k : Nat) : Bool :=
  decide (step < m.next) ||
  (let rs := (stepOf m step).recs.filter (fun r => r.key == k)
   m.sources.all (fun d => rs.any (fun r => r.src == d)))

/-- The ROW_APPLY operator of a chain. -/
def rowApplyOp (img : List Byte) : Option (List Byte) :=
  ((List.range (chainOps img)).map (chainOp img)).find? (fun o => opCode o == 0x23)

def itemQueue (s : State) (it : Item) (q : Nat) : Option MergeQueue := (itemCtx s it).bind (fun x => NMap.find? x.queues q)

/-- The DENSE keys that a SCATTER_MERGE item reads: the first and how many (10 R208). -/
def scatterKeys (o : List Byte) (idx : Nat) : Nat × Nat :=
  let split := 2 ^ bitsAt (leAt o 25 1) 0 3
  let q := leAt o 36 4 / split
  (idx / split * leAt o 36 4 + idx % split * q, q)

/-- The scheduler holds an item until data of another unit exists: a ROW_APPLY until its step is the next to apply and
has finalised, a first SCATTER_MERGE until the keys it reads are final (10 R208, R215). -/
def heldForStep (s : State) (it : Item) : Bool :=
  let img := itemImage s it
  let o := chainOp img 0
  let apply := match rowApplyOp img with
    | some r => match itemQueue s it (leAt r 24 2) with
      | some m => decide (m.toApply ≤ leAt r 28 4) && !(leAt r 28 4 == m.toApply && NMap.has m.finals m.toApply)
      | none => false
    | none => false
  let scatter := opCode o == 0x22 && opCount o != 0 && (match itemQueue s it (leAt o 30 2) with
    | some m => (List.range (scatterKeys o it.index).2).any (fun k =>
        let key := (scatterKeys o it.index).1 + k
        decide (key < m.keyLimit) && !(denseFinal m (leAt o 40 4) key))
    | none => false)
  apply || scatter

/-- The outside timeout of a held item runs: for a ROW_APPLY, once the step before has been applied (10 R208, R215). -/
def holdTimed (s : State) (it : Item) : Bool :=
  match rowApplyOp (itemImage s it) with
  | some r => match itemQueue s it (leAt r 24 2) with
    | some m => leAt r 28 4 == m.toApply
    | none => true
  | none => true

/-- Operand sources that hold table sets give no record (13 R292): src1 of the gather family. -/
def isTableOperand (o : List Byte) (k : Nat) : Bool :=
  (opCode o == 0x20 || opCode o == 0x21 || opCode o == 0x23) && k == 1

/-- The chain of an item names a table of a context: a gather any table of its set, a ROW_APPLY the tables of its queue
(10 R220; log entry 182). -/
def namesTable (s : State) (it : Item) (slot : Nat) : Bool :=
  let img := itemImage s it
  ((List.range (chainOps img)).map (chainOp img)).any (fun o =>
    (isTableOperand o 1 && opCode o != 0x23) || (opCode o == 0x23 && (match itemQueue s it (leAt o 24 2) with
      | some m => m.table == slot || m.stateTable == some slot
      | none => false)))

/-- An item pins a successor that its VERSION_COMMIT has not yet placed in the slot, and names its table (10 R220). -/
def heldForCommit (s : State) (it : Item) : Bool :=
  match getDesc s it.ctx it.ring it.idx with
  | some d => s.tables.commits.any (fun c => decide (c.2.phase ≤ 1) && d.pins.contains c.2.newVer &&
      (getVer s c.2.ver).elim true (fun v => namesTable s it v.slot))
  | none => false

/-- The conditions of R57 other than the first operator's WAIT. -/
def otherConds (s : State) (it : Item) : Bool :=
  decide (it.counter = 0) && !(heldForCommit s it) &&
  (match it.flow with
    | none => true
    | some f => match NMap.find? s.sched.flows f with
      | some fl => decide ((it.seq + 2 ^ 32 - fl.release) % 2 ^ 32 < 2 ^ fl.wlog)
      | none => true) &&
  (match itemCtx s it with
    | some x => x.resident && x.st == .active && !x.draining && !x.closing
    | none => false)

def waitsFirst (s : State) (it : Item) : Bool :=
  let o := chainOp (itemImage s it) 0
  opCode o == 0x49 && opCount o != 0

/-- The 64-bit value of a Deck cell. -/
def cellValue (s : State) (a : Nat) : Nat := leNat (deckRead s (gLocal a) 8)

/-- A held first-operator condition starts: the waiting time runs, and a CELL_GE compares once (05 R94). -/
def startWait (s : State) (it : Item) : Item :=
  let o := chainOp (itemImage s it) 0
  if it.waitSince.isSome then it
  else
    let it1 := { it with waitSince := some (now s) }
    if waitsFirst s it && leAt o 24 1 == 2 then
      { it1 with gate := it.gate || decide (leAt o 32 8 ≤ cellValue s (leAt o 40 8)) }
    else it1

/-- Make an item Ready: it enters its priority queue with the tick at which it does (04 R57, R58). -/
def setReady (s : State) (i : Nat) : State :=
  modItem s i (fun it => { it with st := .ready, arrival := now s, waitSince := none })

/-- Look at one Pending item: start its held wait, or make it Ready. -/
def refreshItem (s : State) (i : Nat) : State :=
  match getItem s i with
  | none => s
  | some it =>
    if it.st = .pending ∧ otherConds s it then
      let it1 := if waitsFirst s it || (heldForStep s it && holdTimed s it) then startWait s it else it
      let s1 := modItem s i (fun _ => it1)
      if (waitsFirst s it && !it1.gate) || heldForStep s it then s1 else setReady s1 i
    else s

/-- Items whose conditions hold become Ready, in ascending id (04 R57, R58). -/
def refreshReady (s : State) : State := (NMap.keys s.sched.items).foldl refreshItem s

/-! ### Operands -/

/-- One operand as an operator reads it: its bytes packed densely in index order, its format and element count, where
it lies, whether it is a predecessor that was skipped whole, the runs that it gives the operator, and the runs as they stand in a
predecessor's release record. -/
structure Operand where
  kind : Nat
  fmt : Nat
  bytes : List Byte
  base : Nat
  span : Nat
  gone : Bool
  runs : List (Nat × Nat)
  marker : List (Nat × Nat)
deriving DecidableEq, Repr

def Operand.none : Operand :=
  { kind := 0, fmt := 0, bytes := [], base := 0, span := 0, gone := false, runs := [], marker := [] }

/-- The tensor view that an operand names, for an item index. -/
def tensorView (x : Ctx) (r idx : Nat) : Option TView :=
  (NMap.find? x.tensors (refIndex r)).map (fun t => if refPerItem r then t.view.sliceAt idx else t.view)

/-- The predecessor `p` of an item: its descriptor, whether the mode is ALL, and its out operand (05 R82, 15 R327). -/
def predOf (s : State) (it : Item) (p : Nat) : Option (Desc × Bool) :=
  match it.preds.drop p with
  | (r, i, all) :: _ => (getDesc s it.ctx r i).map (fun d => (d, all))
  | [] => none

def predView (x : Ctx) (d : Desc) (idx : Nat) : Option TView :=
  (NMap.find? x.chains d.chain).bind fun c =>
    (outOp c.image).bind fun k => tensorView x (opRef (chainOp c.image k) 3) idx

/-- A view's bytes as this item can see them: the Deck at once, other memory once it has landed. -/
def viewBytes (s : State) (landed : Mem) (v : TView) : List Byte :=
  v.dense (v.segments.flatMap (fun g =>
    if isDeck s g.1 then deckRead s (gLocal g.1) g.2 else memTake zeroByte landed g.1 g.2))

/-- The extents of a view that lie outside the device and have not been asked for. -/
def viewMissing (s : State) (asked : List (Nat × Nat)) (v : TView) : List (Nat × Nat) :=
  if v.span = 0 || isDeck s v.base then []
  else v.segments.filter (fun g => !(asked.contains g))

/-- Where an item keeps the skip runs of a tensor or of the accumulators that its chain has written. -/
def runsKey (r : Nat) : Nat := 16 + r

/-- The skip runs that an earlier operator of the chain left with what it wrote to a tensor or to the accumulators (05 R91,
R463). -/
def runsAt (it : Item) (r : Nat) : List (Nat × Nat) := (NMap.getD it.bufs (runsKey r) ⟨[], []⟩).runs

def keepRuns (s : State) (id r : Nat) (runs : List (Nat × Nat)) : State :=
  modItem s id (fun it => { it with bufs := NMap.set it.bufs (runsKey r) ⟨[], runs⟩ })

/-- The bytes of chain buffer `k`: what the item's operators wrote, and beyond that bytes that are free (05 R83; log entry
174). -/
def bufBytes (img : List Byte) (it : Item) (k : Nat) (bs : List Byte) : List Byte :=
  bs ++ (List.range (chainBufSize img k - bs.length)).map (fun j =>
    BitVec.ofNat 8 (Config.unstated 0x132 [it.ctx, it.ring, it.idx, it.index, it.op, k, bs.length + j]))

/-- The operand `k` of an operator (0 to 2 for src, 3 for dst), with the extents still to be asked for. -/
def readOperand (s : State) (x : Ctx) (it : Item) (o : List Byte) (k : Nat) : Operand × List (Nat × Nat) :=
  let r := opRef o k
  if refKind r = 1 then
    match tensorView x r it.index with
    | some v => ({ Operand.none with kind := 1, fmt := v.fmt, bytes := viewBytes s it.landed v, base := v.lo,
                                     span := v.span, runs := runsAt it r }, viewMissing s it.asked v)
    | none => (Operand.none, [])
  else if refKind r = 2 then
    let b := NMap.getD it.bufs (refIndex r) ⟨[], []⟩
    ({ Operand.none with kind := 2, bytes := bufBytes (itemImage s it) it (refIndex r) b.bytes, runs := b.runs }, [])
  else if refKind r = 3 then
    match predOf s it (refIndex r) with
    | none => (Operand.none, [])
    | some (d, all) =>
      let rel := NMap.getD d.released it.index { skipped := true, runs := [] }
      let whole := if all then d.created && d.released.all (fun q => q.2.skipped)
                   else rel.skipped || rel.runs == wholeOf s it.ctx d.chain
      if whole then ({ Operand.none with kind := 3, gone := true, runs := wholeRun s it,
                                             marker := wholeOf s it.ctx d.chain }, [])
      else
        let runs := if all then [] else rel.runs
        match predView x d it.index with
        | some v => ({ Operand.none with kind := 3, fmt := v.fmt, bytes := viewBytes s it.landed v, base := v.lo,
                                         span := v.span, runs := runs, marker := runs }, viewMissing s it.asked v)
        | none => (Operand.none, [])
  else if refKind r = 4 then
    ({ Operand.none with kind := 4, bytes := it.accum.flatMap (fun w => natLE w 4), runs := runsAt it r }, [])
  else (Operand.none, [])

/-- 256-byte units of an extent, each rounded up on its own (07 R126). -/
def unitsOf (n : Nat) : Nat := ceilDiv n 256

/-- Units outside scratch of an operand: tensors and predecessor outputs (07 R126). -/
def Operand.units (p : Operand) : Nat := if p.kind = 1 || p.kind = 3 then unitsOf p.bytes.length else 0

/-! ### The result of an operator's step -/

/-- What one operator did: bytes for its dst, its charge, the skip runs it carries on, what it counts, and whether an
operand check failed. -/
structure OpRes where
  out : List Byte := []
  writes : List (Nat × List Byte) := []
  accum : Option (List Nat) := none
  cost : Nat := 0
  runs : List (Nat × Nat) := []
  counters : Counters := []
  events : List (Nat × Nat) := []
  bumps : List (Nat × Nat) := []
  bad : Bool := false
  badBump : Nat := 0
  badEvent : Nat × Nat := (0, 0)
  noop : Bool := false
deriving DecidableEq, Repr

/-- A no-op: it writes nothing, leaves the skip runs alone and charges 4 (05 R85). -/
def noOp : OpRes := { cost := 4, noop := true }

/-- Everything an operator's arithmetic reads. -/
structure OpIn where
  op : List Byte
  src0 : Operand
  src1 : Operand
  src2 : Operand
  dst : Operand
  runs : List (Nat × Nat)
  c0 : Nat
  index : Nat
  n : Nat
  seed : List Nat
  view : Option TView
deriving DecidableEq, Repr

def OpIn.count (i : OpIn) : Nat := opCount i.op
def OpIn.mode (i : OpIn) : Nat := opMode i.op
def OpIn.skipped (i : OpIn) (u : Nat) : Bool := unitSkipped i.runs i.c0 i.count u
def OpIn.keep (i : OpIn) (u : Nat) : Bool := !(i.skipped u)
/-- The runs that go on to the next operator: all of them under PASS, none otherwise (05 R91). -/
def OpIn.runsOn (i : OpIn) : List (Nat × Nat) := if i.mode = 1 then i.runs else []

/-- Writes of bytes at an offset of the dst tensor's extent, cut over its segments. -/
def OpIn.putAt (i : OpIn) (off : Nat) (bs : List Byte) : List (Nat × List Byte) :=
  match i.view with
  | none => []
  | some v =>
    (v.segments.foldl (fun (acc : Nat × List (Nat × List Byte)) g =>
      let lo := max off acc.1
      let hi := min (off + bs.length) (acc.1 + g.2)
      (acc.1 + g.2, if lo < hi then acc.2 ++ [(g.1 + (lo - acc.1), (bs.drop (lo - off)).take (hi - lo))] else acc.2))
      (0, [])).2

/-- Units of an output written outside scratch. -/
def OpIn.outUnits (i : OpIn) (n : Nat) : Nat := if refKind (opRef i.op 3) = 1 then unitsOf n else 0

def addCounters (a b : Counters) : Counters := b.foldl (fun m p => NMap.set m p.1 (NMap.getD m p.1 0 + p.2)) a

/-- Issue reads for extents an item still needs; each is asked for once per run. -/
def askExtents (s : State) (id : Nat) (miss : List (Nat × Nat)) : State :=
  miss.foldl (fun s g =>
    match getItem s id with
    | none => s
    | some it =>
      if it.asked.contains g then s
      else
        let s1 := modItem s id (fun it => { it with asked := it.asked ++ [g], waiting := it.waiting + (pieces g.1 g.2).length })
        issueReads s1 (.item id) it.ctx g.1 g.2) s

/-- Write Deck bytes for an item, which waits for the parts that wait (17 R461). -/
def itemDeckWrite (s : State) (id a : Nat) (bs : List Byte) : State :=
  let s1 := deckWriteFor s (.itemPut id) a bs
  let k := heldParts s s1
  if k = 0 then s1 else modItem s1 id (fun it => { it with waiting := it.waiting + k })

/-- Write bytes for an item at a global address: the Deck at once, other memory as acknowledged writes. -/
def itemWrite (s : State) (id ctx addr : Nat) (bs : List Byte) : State :=
  if bs.isEmpty then s
  else if isDeck s addr then
    itemDeckWrite s id (gLocal addr) bs
  else
    let s1 := modItem s id (fun it => { it with waiting := it.waiting + (pieces addr bs.length).length })
    issueWrites s1 (.itemPut id) ctx addr bs

/-- Cut bytes over segments. -/
def zipSegments : List (Nat × Nat) → List Byte → List (Nat × List Byte)
  | [], _ => []
  | g :: gs, bs => (g.1, bs.take g.2) :: zipSegments gs (bs.drop g.2)

/-- Write an operator's output to its dst: a tensor's segments, a chain buffer or the accumulators. -/
def writeDst (s : State) (id : Nat) (x : Ctx) (it : Item) (o : List Byte) (out : List Byte)
    (runs : List (Nat × Nat)) : State :=
  let r := opRef o 3
  if refKind r = 1 then
    match tensorView x r it.index with
    | some v => (zipSegments v.segments (v.spread out)).foldl (fun s g => itemWrite s id it.ctx g.1 g.2) (keepRuns s id r runs)
    | none => s
  else if refKind r = 2 then modItem s id (fun it => { it with bufs := NMap.set it.bufs (refIndex r) ⟨out, runs⟩ })
  else if refKind r = 4 then keepRuns s id r runs
  else s

/-- What the record of an input operand hashes, with its kind byte (13 R292). -/
def inputHashed (p : Operand) : Option (Byte × List Byte) :=
  if p.kind = 1 then some (1#8, p.bytes)
  else if p.kind = 3 then
    some (3#8, p.marker.flatMap (fun r => natLE r.1 4 ++ natLE r.2 4) ++ (if p.gone then [] else p.bytes))
  else none

/-- The record of an input operand for the result digest (13 R292). -/
def inputRecord (p : Operand) : Option (List Byte) := (inputHashed p).map (fun h => h.1 :: blake3 h.2)

def noteInput (it : Item) (k : Nat) (p : Operand) : Item :=
  match inputRecord p with
  | some b => { it with records := NMap.set it.records (it.op * 4 + k) b }
  | none => it

/-- Bytes that the records of operands hash (13 R297). -/
def hashedBytes (ps : List Operand) : Nat := (ps.map (fun p => ((inputHashed p).map (·.2.length)).getD 0)).sum

/-- The item's descriptor asks for a result digest (15 R326). -/
def wantsDigest (s : State) (it : Item) : Bool :=
  match getDesc s it.ctx it.ring it.idx with
  | some d => bitAt (leAt d.raw 1 1) 0
  | none => false

/-! ### Commit -/

/-- A commit seen by its dependents: each counter falls by one (04 R55). -/
def decrement (s : State) (ids : List Nat) : State :=
  ids.foldl (fun s i => modItem s i (fun it => { it with counter := it.counter - 1 })) s

/-- Apply a 64-bit operation of SIGNAL or ATOMIC to a Deck cell, and let CELL_GE waits on it see the result
(05 R93, R94; 16 R348). -/
def cellNew (op old operand compare : Nat) : Nat :=
  if op = 1 then (old + operand) % 2 ^ 64
  else if op = 2 then (if old = compare then operand else old)
  else max old operand

/-- A CELL_GE wait on the cell that now holds is marked for its release, and a stream sees its credit cell's value
(05 R94, 12 R268). -/
def touchCell (s : State) (a : Nat) : State :=
  let v := cellValue s a
  { s with
    sched := { s.sched with items := s.sched.items.map (fun p =>
      let o := if p.2.st = .running then itemOp s p.2 else chainOp (itemImage s p.2) 0
      if opCode o = 0x49 ∧ leAt o 24 1 = 2 ∧ leAt o 40 8 = a ∧ p.2.waitSince.isSome ∧ leAt o 32 8 ≤ v then
        (p.1, { p.2 with hit := true })
      else p) }
    ctxs := s.ctxs.map (fun c => (c.1, { c.2 with streams := c.2.streams.map (fun t =>
      if leAt t.2.desc 32 8 = a then (t.1, { t.2 with credit := v }) else t) })) }

def cellOp (s : State) (a op operand compare : Nat) : State :=
  let old := cellValue s a
  touchCell (deckWrite s (gLocal a) (natLE (cellNew op old operand compare) 8)) a

/-- An ATOMIC request to a cell of another device, on a channel (16 R348, R359). -/
def issueAtomic (s : State) (owner : Owner) (ctx ch a op operand compare : Nat) : State :=
  let h : SpanHdr := {
    opcode := 3, op := op, channel := ch, hops := 0, resend := false, src := 0, dst := gDev a, context := ctx,
    queue := 0, seq := 0, length := 16, step := 0, address := a }
  issue s { accWrite s owner ctx a (natLE operand 8 ++ natLE compare 8) with tmpl := some (h, false) }

/-- A SIGNAL takes effect: on this device at once, elsewhere as an ATOMIC on channel 7 (05 R93, 16 R359). -/
def signalNow (s : State) (owner : Owner) (ctx : Nat) (o : List Byte) : State :=
  let a := leAt o 40 8
  let op := if leAt o 24 1 = 1 then 1 else 3
  if isDeck s a then cellOp s a op (leAt o 32 8) 0 else issueAtomic s owner ctx 7 a op (leAt o 32 8) 0

/-- At a skip commit every SIGNAL that has not taken effect does (05 R93). -/
def skipSignals (s : State) (id : Nat) (it : Item) : State :=
  let img := itemImage s it
  ((List.range (chainOps img)).filter (fun k => opCode (chainOp img k) == 0x48 && !(it.signals.contains k) &&
      opCount (chainOp img k) != 0)).foldl
    (fun s k =>
      let s1 := signalNow s (.skipSignal it.ctx it.ring it.idx) it.ctx (chainOp img k)
      let s2 := if isDeck s (leAt (chainOp img k) 40 8) then s1
                else modDesc s1 it.ctx it.ring it.idx (fun d => { d with waiting := d.waiting + 1 })
      modItem s2 id (fun it => { it with signals := it.signals ++ [k] })) s

/-- A Pier gives up its item: its queue and landing space are free again. -/
def freePier (s : State) (id : Nat) : State :=
  match pierOf s id with
  | none => s
  | some p =>
    let x := getPier s p
    setPier s p { x with item := none, queue := [], unbooked := [], flagged := false }

/-- Codes of R96 in order of precedence; a smaller rank comes first. -/
def statusRank (c : Nat) : Nat :=
  if c = 0x3F || c = 0x10 || c = 0x11 then 0 else if c = 0x30 then 1 else if c = 0x21 then 2 else if c = 0x22 then 3
  else if c = 0x20 then 4 else if c = 0x01 then 5 else 6

/-- A descriptor's status takes a code that precedes it, also when its items are all released (05 R96; 16 R353, R355). -/
def worsen (d : Desc) (code : Nat) : Desc :=
  match d.status with
  | none => { d with worst := d.worst ++ [code] }
  | some st => if statusRank code < statusRank st then { d with status := some code, detail := 0 } else d

/-- The status that an item's outcome asks of its descriptor (05 R96, 04 R65). -/
def itemStatus (it : Item) : Nat :=
  if it.skip = some .denied then 0x3F
  else if it.skip = some .refused then 0x10
  else if it.skip = some .tooMany then 0x11
  else if it.lost then 0x30
  else if it.skip = some .timeout then 0x21
  else if it.halted.isSome then 0x22
  else 0

/-- The writes of an item that are under way: puts, stores, merges, atomics and signals. -/
def isItemWrite (id : Nat) (o : Owner) : Bool :=
  match o with
  | .itemPut i | .itemMerge i => i == id
  | .itemAtomic i _ | .signal i _ => i == id
  | _ => false

/-- The writes that an item which ends as a skip leaves under way are its descriptor's from now on: the completion entry
follows their acknowledgements (04 R60, 01 R12).  Its reads are given up. -/
def leaveWrites (s : State) (id : Nat) (it : Item) : State :=
  let own := Owner.skipSignal it.ctx it.ring it.idx
  let n := (s.kid.accs.filter (fun q => isItemWrite id q.2.owner)).length +
    (s.deck.held.filter (fun q => isItemWrite id q.2.2)).length
  let free := fun (a : Acc) => if isItemWrite id a.owner then { a with owner := own }
    else if a.owner = .item id || a.owner = .row id then { a with owner := .free a.context } else a
  modDesc { s with
      kid := { s.kid with accs := s.kid.accs.map (fun q => (q.1, free q.2)) }
      deck := { s.deck with held := s.deck.held.map (fun q => if isItemWrite id q.2.2 then (q.1, q.2.1, own) else q) } }
    it.ctx it.ring it.idx (fun d => { d with waiting := d.waiting + n })

/-- Enter the quarantines that a run decided in the log, each with its event and its count (06 R110, R117). -/
def flushLogs (s : State) (c : Nat) (es : List (List Byte)) : State :=
  es.foldl (fun s e => logWrite (event (bump s ctQuar (leAt e 32 4)) evDecode 0) c 0 e) s

/-- An item that commits passes its outcome to its descriptor and its dependents (04 R55, R65; 05 R96). -/
def commitItem (s : State) (id : Nat) : State :=
  match getItem s id with
  | none => s
  | some it =>
    let s := flushLogs (if it.skip.isSome then skipSignals (leaveWrites s id it) id it else s) it.ctx it.logs
    let own := it.skip = some .own
    let runs := if it.skip.isSome then wholeRun s it
      else if (outOp (itemImage s it)).isSome then it.outRuns else unionRuns (itemPositions s it) it.outRuns it.runs
    let src := (pierOf s id).getD srcScheduler
    let s := freePier s id
    let s := if it.skip.isSome then { s with tables := { s.tables with
      slots := s.tables.slots.filter (fun z => z.item != id)
      joinPending := s.tables.joinPending.filter (fun q => q.1 / 32 != id) } } else s
    let s := modItem s id (fun it => { it with
      st := .committed, bufs := [], accum := [], waitSince := none, landed := [], asked := [], runs := [], logs := [] })
    let s := trace s it.ctx src 6 id 0
    let s := decrement s it.dependents
    let s := match it.flow with
      | some f => { s with sched := { s.sched with
          flows := NMap.modify s.sched.flows f (fun fl => { fl with ahead := fl.ahead + 1 }) } }
      | none => s
    let quar := it.quarantined + (if own then 1 else 0)
    let s := countQuarantine s it.ctx it.ring it.idx quar
    let yielded := it.skip.isNone && decide ((runsOf (itemPositions s it) (inRuns runs)).foldl
      (fun a r => a + r.2) 0 < itemPositions s it)
    let s := modDesc s it.ctx it.ring it.idx (fun d => { d with
      committed := d.committed + 1
      yielded := d.yielded || yielded
      released := NMap.set d.released it.index { skipped := it.skip.isSome, runs := runs }
      worst := d.worst ++ (if itemStatus it = 0 then [] else [itemStatus it])
      detail := match it.halted with | some h => h | none => d.detail
      counters := if it.skip.isSome then d.counters else addCounters d.counters it.counters
      inputs := if it.skip.isSome then d.inputs else
        it.records.foldl (fun m q => NMap.set m (q.1 * 2 ^ 18 + it.index) q.2) d.inputs })
    match getDesc s it.ctx it.ring it.idx with
    | none => s
    | some d => if d.committed = d.n then
        decrement (modDesc s it.ctx it.ring it.idx (fun d => { d with waiters := [] })) d.waiters
      else s

/-- Commit as a skip for a cause; the item's outputs are discarded (04 R64, R65, R67). -/
def skipItem (s : State) (id : Nat) (cause : SkipCause) : State :=
  commitItem (modItem s id (fun it => { it with skip := some cause })) id

/-! ### Running one operator -/

/-- The item runs on a Pier, is not held, and its next operator has this opcode. -/
def opEnabled (s : State) (it : Item) (code : Nat) : Bool :=
  running s && it.st == .running && !(chainDone s it) && opCode (itemOp s it) == code && !it.overBudget &&
  it.recordOver.isNone && it.fault.isEmpty && it.halted.isNone

/-- Every Deck unit that the item's operators up to `op` read has landed (03 R37). -/
def unitsLanded (s : State) (id op : Nat) : Bool :=
  (pierOf s id).elim true (fun p =>
    (getPier s p).queue.all (fun e => decide (op < e.op) || e.units.all (·.landed)) &&
    (getPier s p).unbooked.all (fun u => decide (op < u.1)))

/-- The reads of the item's next operator have landed.  Writes of earlier operators that are still on their way do not hold
it. -/
def readsLanded (s : State) (id : Nat) : Bool :=
  s.kid.accs.all (fun p => p.2.owner != .item id && (p.2.owner != .row id || p.2.write)) &&
  unitsLanded s id ((getItem s id).elim 0 (·.op))

/-- The first `n` bytes of segments. -/
def takeSegments : Nat → List (Nat × Nat) → List (Nat × Nat)
  | _, [] => []
  | n, g :: gs => if n = 0 then [] else (g.1, min n g.2) :: takeSegments (n - g.2) gs

/-- How many bytes of source `j` an operator reads in order, where its fields say it; the microcode orders its other reads by
itself, and they form no entries: rows of a table, a decoder's extents, a join table's rows (05 R89; log entry 160). -/
def fetchBytes (o : List Byte) (j span : Nat) : Nat :=
  let n := opCount o
  let c := opCode o
  if n = 0 || isTableOperand o j || (j == 2 && (c == 0x01 || c == 0x02 || c == 0x18 || c == 0x19)) || (j == 1 && c == 0x12) then 0
  else if j != 0 then span
  else if c = 0x38 || c = 0x39 || c = 0x3A || c = 0x40 || c = 0x41 then min n span
  else if c = 0x42 then min (32 * n) span
  else if c = 0x31 then min (4 * n * leAt o 24 2) span
  else if c = 0x1A || c = 0x28 || c = 0x30 then min (packedBytes (opIn o) n) span
  else span

/-- The view that a source operand is read through: a tensor, or a predecessor's output that is no whole-item marker. -/
def fetchView (s : State) (x : Ctx) (it : Item) (r : Nat) : Option TView :=
  if refKind r = 1 then tensorView x r it.index
  else if refKind r = 3 then
    (predOf s it (refIndex r)).bind (fun d =>
      if (NMap.getD d.1.released it.index { skipped := true, runs := [] }).skipped && !d.2 then none else predView x d.1 it.index)
  else none

/-- The Deck units that the operators from `k` up to the next dependence mark read, each with its operator (03 R37, R38;
05 R89). -/
def segmentUnits (s : State) (x : Ctx) (it : Item) (img : List Byte) : Nat → Nat → List (Nat × Nat)
  | 0, _ => []
  | f + 1, k =>
    if chainOps img ≤ k then []
    else
      let o := chainOp img k
      let units := [0, 1, 2].flatMap (fun j =>
        match fetchView s x it (opRef o j) with
        | some v => if isDeck s v.base then (takeSegments (fetchBytes o j v.span) v.segments).flatMap (fun g =>
            if g.2 = 0 then [] else
            (List.range ((g.1 + g.2 - 1) / 256 - g.1 / 256 + 1)).map (fun u => (k, u + gLocal g.1 / 256))) else []
        | none => [])
      let stop := opCode o == 0x49 || opMark (chainOp img (k + 1))
      units ++ (if stop then [] else segmentUnits s x it img f (k + 1))

/-- The fetch engine of the item's Pier takes up the reads of the segment that starts at operator `k`. -/
def fetchFrom (s : State) (id k : Nat) : State :=
  match getItem s id, pierOf s id with
  | some it, some p =>
    match itemCtx s it with
    | none => s
    | some x =>
      let y := getPier s p
      setPier s p (formEntries s p x.landing 64
        { y with queue := retire y.queue, unbooked := y.unbooked ++ segmentUnits s x it (itemImage s it) 32 k })
  | _, _ => s

/-- The queue of the item's Pier holds no entry and waits for none. -/
def queueDrained (s : State) (id : Nat) : Bool :=
  (pierOf s id).elim true (fun p => (retire (getPier s p).queue).isEmpty && (getPier s p).unbooked.isEmpty)

/-- Go on to the next operator with a charge.  Past a dependence mark the fetch engine goes on, every entry before the mark
having retired (03 R38, 05 R89). -/
def advance (s : State) (id cost : Nat) : State :=
  let s1 := modItem s id (fun it => { it with op := it.op + 1, charge := it.charge + cost, waitSince := none, lookups := [] })
  match getItem s1 id with
  | none => s1
  | some it =>
    let img := itemImage s1 it
    if (opMark (chainOp img it.op) || opCode (chainOp img (it.op - 1)) == 0x49) && queueDrained s1 id then fetchFrom s1 id it.op
    else s1

/-- Put an operator's result into effect, or stop before it when the charge would pass the item budget (04 R64). -/
def applyRes (s : State) (id : Nat) (x : Ctx) (it : Item) (o : List Byte) (r : OpRes) : State :=
  if r.bad || (refKind (opRef o 3) == 2 && decide (chainBufSize (itemImage s it) (refIndex (opRef o 3)) < r.out.length)) then
    let s1 := if r.badBump = 0 then s else event (bump s r.badBump 1) r.badEvent.1 r.badEvent.2
    skipItem s1 id .own
  else if it.budget < it.charge + r.cost then modItem s id (fun it => { it with overBudget := true })
  else if r.noop then
    advance (modItem s id (fun it => { it with outRuns := if opOut o then it.runs else it.outRuns })) id r.cost
  else
    let s := writeDst s id x it o r.out r.runs
    let s := r.writes.foldl (fun s w => itemWrite s id it.ctx w.1 w.2) s
    let s := r.events.foldl (fun s e => event s e.1 e.2) s
    let s := r.bumps.foldl (fun s e => bump s e.1 e.2) s
    let s := modItem s id (fun it => { it with
      runs := r.runs
      accum := match r.accum with | some a => a | none => it.accum
      outRuns := if opOut o then r.runs else it.outRuns
      counters := addCounters it.counters r.counters })
    advance s id r.cost

/-- What to do with an operator: it cannot run now, something was done instead, or it runs on its operands. -/
inductive OpTake where
  | idle
  | moved (s : State)
  | go (s : State) (x : Ctx) (it : Item) (i : OpIn)
deriving DecidableEq, Repr

/-- The item's next operator has opcode `code`: operands outside the device are read first, and a count of zero is a
no-op that charges 4 (05 R85). -/
def takeOp (s : State) (id code : Nat) : OpTake :=
  match getItem s id with
  | none => .idle
  | some it =>
    match itemCtx s it with
    | none => .idle
    | some x =>
      if !(opEnabled s it code) then .idle
      else
        let o := itemOp s it
        let a := readOperand s x it o 0
        let b := readOperand s x it o 1
        let c := readOperand s x it o 2
        let miss := a.2 ++ (if isTableOperand o 1 then [] else b.2) ++ c.2
        if !miss.isEmpty then .moved (askExtents s id miss)
        else if !(readsLanded s id) then .idle
        else
          let srcs := [a.1, if isTableOperand o 1 then Operand.none else b.1, c.1]
          let fresh := !(NMap.has it.records (4 * it.op)) && !(NMap.has it.records (4 * it.op + 1)) &&
            !(NMap.has it.records (4 * it.op + 2))
          let it1 := if wantsDigest s it && fresh then
              ((List.range 3).zip srcs).foldl (fun (y : Item) q => noteInput y q.1 q.2) it
            else it
          let s1 := if wantsDigest s it && fresh then bump (modItem s id (fun _ => it1)) ctDigest (hashedBytes srcs) else s
          if opCount o = 0 then .moved (applyRes s1 id x it1 o noOp)
          else
            let n := itemPositions s it
            let runs := unionRuns n a.1.runs (unionRuns n b.1.runs c.1.runs)
            let dview := if refKind (opRef o 3) = 1 then tensorView x (opRef o 3) it.index else none
            let d := if refKind (opRef o 3) = 1 then
                (match tensorView x (opRef o 3) it.index with
                  | some v => { Operand.none with kind := 1, fmt := v.fmt, base := v.lo, span := v.span }
                  | none => Operand.none)
              else if refKind (opRef o 3) = 2 then
                { Operand.none with kind := 2, span := chainBufSize (itemImage s it) (refIndex (opRef o 3)) }
              else if refKind (opRef o 3) = 4 then { Operand.none with kind := 4, span := 65536 }
              else Operand.none
            let i : OpIn := {
              op := o, src0 := a.1, src1 := b.1, src2 := c.1, dst := d, runs := runs, c0 := n, index := it.index,
              n := ((getDesc s it.ctx it.ring it.idx).map (·.n)).getD 1
              seed := [it.ctx, it.ring, it.idx, it.index, it.op], view := dview }
            .go s1 x it1 i

/-- Run the item's next operator when it has opcode `code`; `f` computes the result. -/
def runOp (s : State) (id code : Nat) (f : State → Ctx → Item → OpIn → OpRes) : State :=
  match takeOp s id code with
  | .idle => s
  | .moved t => t
  | .go s x it i => applyRes s id x it i.op (f s x it i)

end Sys2Proof.Machine
end

