-- ==== Sys2Proof/Machine/Landing.lean ====
section
/-!
DEFINITION. What an answer to an outside access does, by the owner of the access: data lands, an acknowledgement
counts, or a failing status ends, halts or repeats the access (14 R310, 15 R462, 16 R355, 18 R400).
-/

namespace Sys2Proof.Machine

open Sys2Proof

def landBytes (m : Mem) (a : Nat) (bs : List Byte) : Mem := memPut zeroByte m a bs

def modStream (s : State) (c k : Nat) (f : Stream → Stream) : State :=
  modCtx s c (fun x => { x with streams := NMap.modify x.streams k f })

def modHalt (s : State) (c k : Nat) (f : Halt → Halt) : State :=
  modCtx s c (fun x => { x with halts := NMap.modify x.halts k f })

def modBlock (s : State) (c k b : Nat) (f : Block → Block) : State :=
  modStream s c k (fun st => { st with blocks := st.blocks.map (fun y => if y.index = b then f y else y) })

def modFrame (s : State) (c k : Nat) (f : JFrame → JFrame) : State :=
  modCtx s c (fun x => { x with journal := { x.journal with frames := NMap.modify x.journal.frames k f } })

def modCommit (s : State) (i : Nat) (f : Commit → Commit) : State :=
  { s with tables := { s.tables with commits := NMap.modify s.tables.commits i f } }

/-- Write a log's header again when entries were acknowledged while it was on its way (15 R325). -/
def headerDone (s : State) (c which : Nat) (sent : List Byte) : State :=
  match NMap.find? s.ctxs c with
  | none => s
  | some x =>
    let l := ctxLog x which
    if leAt sent 0 8 = l.acked then setCtx s c (setCtxLog x which { l with hdrBusy := false })
    else issueWrites s (.logHeader c which) c l.base (logHeaderBytes l.acked)

/-- The healing log's entry was acknowledged (18 R404). -/
def healAcked (s : State) : State :=
  let l := { s.heal.log with acked := s.heal.log.acked + 1 }
  let s1 := { s with heal := { s.heal with log := { l with hdrBusy := true } } }
  if l.hdrBusy then s1 else issueWrites s1 .healHeader 0 l.base (logHeaderBytes l.acked)

def healHeaderDone (s : State) (sent : List Byte) : State :=
  let l := s.heal.log
  if leAt sent 0 8 = l.acked then { s with heal := { s.heal with log := { l with hdrBusy := false } } }
  else issueWrites s .healHeader 0 l.base (logHeaderBytes l.acked)

/-! ### Answers to peers -/

def spanFresh : SpanIn := { applied := 2 ^ 32 - 1, responses := [] }

def inKey (src ch : Nat) : Nat := src * 8 + ch

/-- The response to a request: header fields copied with src and dst exchanged (16 R347). -/
def responseTo (h : SpanHdr) (opcode status : Nat) (data : List Byte) : SpanHdr :=
  { h with opcode := opcode, op := status, hops := 0, resend := false, src := h.dst, dst := h.src, queue := 0,
           length := data.length, step := 0, address := 0 }

/-- The response opcode of a request (16 R348). -/
def responseOp (opcode : Nat) : Nat := 0x1F + opcode

/-- Send a packet to a device by the route table; without an ACTIVE port it is lost and the peer resends. -/
def routeSend (s : State) (dst ch : Nat) (p : Packet) : State :=
  let ports := portsTo s dst
  if ports.isEmpty then s else spanSend s (ports.getD (ch % ports.length) 0) p

/-- Answer a request of a peer, and keep the response for duplicates (16 R350, R352). -/
def answerPeer (s : State) (h : SpanHdr) (status : Nat) (data : List Byte) : State :=
  let p : Packet := { hdr := spanHdrBytes (responseTo h (responseOp h.opcode) status data), data := data }
  let k := inKey h.src h.channel
  let y := NMap.getD s.span.ins k spanFresh
  let rs := (NMap.set y.responses h.seq p).filter (fun q => decide ((y.applied + 2 ^ 32 - q.1) % 2 ^ 32 < 64))
  routeSend { s with span := { s.span with ins := NMap.set s.span.ins k { y with responses := rs } } } h.src h.channel p

/-- A good answer: `data` is what a read returned, or an ATOMIC's previous value. -/
def accGood (s : State) (a : Acc) (data : List Byte) : State :=
  match a.owner with
  | .slot c r i =>
    let s1 := trace s c srcTollgate 2 i 0
    modRing s1 c r (fun x => { x with head := some data, waiting := 0 })
  | .arg c r => modRing s c r (fun x => { x with arg := some ((x.arg.getD []) ++ data), waiting := x.waiting - 1 })
  | .admin => { s with regs := { s.regs with adminBytes := some data, adminAsked := s.regs.adminAsked - 1 } }
  | .image =>
    { s with regs := { s.regs with
      adminAsked := s.regs.adminAsked - 1
      adminMem := if a.write then s.regs.adminMem else landBytes s.regs.adminMem a.addr data } }
  | .mbx => { s with boot := { s.boot with landed := landBytes s.boot.landed a.addr data,
                                           waiting := s.boot.waiting - 1 } }
  | .item i => modItem s i (fun it => { it with
      landed := landBytes it.landed a.addr data, waiting := it.waiting - 1 })
  | .row i => modItem s i (fun it => { it with
      landed := if a.write then it.landed else landBytes it.landed a.addr data, waiting := it.waiting - 1 })
  | .itemPut i => modItem s i (fun it => { it with waiting := it.waiting - 1, answers := NMap.set it.answers a.addr 1 })
  | .itemAtomic i k => modItem s i (fun it => { it with
      waiting := it.waiting - 1, answers := NMap.set it.answers k (leNat data) })
  | .itemMerge i => modItem s i (fun it => { it with waiting := it.waiting - 1 })
  | .signal i _ => modItem s i (fun it => { it with waiting := it.waiting - 1 })
  | .skipSignal c r i => modDesc s c r i (fun d => { d with waiting := d.waiting - 1 })
  | .stream c k b => modBlock s c k b (fun y => { y with
      landed := if a.write then y.landed else landBytes y.landed a.addr data, waiting := y.waiting - 1 })
  | .shards c r i => modDesc s c r i (fun d => { d with mem := landBytes d.mem a.addr data, waiting := d.waiting - 1 })
  | .deliveryCell c k =>
    if a.write then modStream s c k (fun y => { y with cellBusy := false })
    else issueWrites s a.owner c a.addr (natLE (max (leNat data) (((NMap.find? s.ctxs c).bind (fun x =>
      NMap.find? x.streams k)).elim 0 (·.cell))) 8)
  | .resume c h => modHalt s c h (fun y => { y with
      landed := if a.write then y.landed else landBytes y.landed a.addr data, waiting := y.waiting - 1 })
  | .completion c r i => modRing (modCtx (modDesc s c r i (fun d => { d with pins := [] })) c (fun x => { x with
      streams := x.streams.filter (fun t => t.2.ended != some (r, i)) })) c r (fun x => { x with
      written := (i + 1) % 2 ^ 32, statusDirty := true
      wake := match NMap.find? x.descs i with
        | some d => if bitAt (leAt d.raw 1 1) 1 then some i else x.wake
        | none => x.wake })
  | .trailer c r i => modDesc s c r i (fun d => { d with trailerDone := true })
  | .status c r => modRing s c r (fun x => { x with statusBusy := false })
  | .log c w => logAcked s c w
  | .logHeader c w => headerDone s c w a.data
  | .heal => healAcked s
  | .healHeader => healHeaderDone s a.data
  | .journal c k => modFrame s c k (fun f => { f with waiting := f.waiting - 1 })
  | .backing j => modCommit s j (fun y => { y with
      writes := y.writes - 1, frame := if a.write then y.frame else landBytes y.frame a.addr data })
  | .rebuild i => modRebuild s i (fun y => { y with
      frame := if a.write then y.frame else landBytes y.frame a.addr data, waiting := y.waiting - 1 })
  | .migration i => modMigration s i (fun y => { y with
      frame := if a.write then y.frame else landBytes y.frame a.addr data, waiting := y.waiting - 1 })
  | .audit => { s with deck := { s.deck with audit := { s.deck.audit with
      frame := if a.write then s.deck.audit.frame else landBytes s.deck.audit.frame a.addr data
      waiting := s.deck.audit.waiting - 1 } } }
  | .swtch c r => modRing s c r (fun x => { x with mem := landBytes x.mem a.addr data, waiting := x.waiting - 1 })
  | .free _ => s
  | .peer h _ => answerPeer s h 0 (if a.write then [] else data)

/-- Whether an access lies in a pageable range of its context (12 R252). -/
def accPageable (s : State) (a : Acc) : Bool :=
  match NMap.find? s.ctxs a.context with
  | none => false
  | some x => x.ranges.any (fun p => p.2.pageable && decide (p.2.base ≤ a.addr) &&
      decide (a.addr + a.len ≤ p.2.base + p.2.len))

/-- An access is repeated 65,536 ticks after a failing answer (15 R462, 18 R400). -/
def accRepeat (s : State) (i : Nat) (a : Acc) (status : Nat) : State :=
  { s with kid := { s.kid with
    accs := NMap.set s.kid.accs i { a with st := .failed status (now s + 65536) } } }

/-- The owner's item loses an access for good. -/
def dropAcc (s : State) (i : Nat) : State := { s with kid := { s.kid with accs := NMap.erase s.kid.accs i } }

/-- Give up accesses: their later answers are discarded (04 R67, 18 R391). -/
def orphan (s0 : State) (p : Owner → Bool) : State :=
  let s := freeHeld s0 p
  { s with kid := { s.kid with accs := (s.kid.accs.filter (fun q => !(p q.2.owner) || q.2.st == .flying)).map (fun q =>
      if p q.2.owner then (q.1, { q.2 with owner := .free q.2.context }) else q) } }

/-- A DENIED or UNMAPPED answer over Span ends the item (16 R355). -/
def denyItem (s : State) (id : Nat) : State :=
  match getItem s id with
  | none => s
  | some it => if it.st = .running ∧ it.skip.isNone then
      skipItem (event (bump s ctSpanDenied 1) evSpan 4) id .denied else s

/-- A request of the device's own was answered DENIED or UNMAPPED over Span (16 R355). -/
def spanRefused (s : State) (i : Nat) : State := event (bump (dropAcc s i) ctSpanDenied 1) evSpan 4

/-- The accesses of a transfer that were answered not-present, in the order of their answers (12 R262). -/
def noteFault (old : List (Nat × Bool)) (a : Acc) : List (Nat × Bool) := old ++ [(a.addr, a.write)]

/-- A failing answer with a status of R310. -/
def accBad (s : State) (i : Nat) (a : Acc) (status : Nat) : State :=
  let remote := !(isOwn s a.addr) && decide (a.addr < nvmeBase)
  let deny := remote && (status = 2 || status = 3)
  let page := status = 1 && accPageable s a
  match a.owner with
  | .row id =>
    if a.write then accRepeat s i a status
    else modItem (dropAcc s i) id (fun it => { it with
      waiting := it.waiting - 1, answers := NMap.set it.answers a.addr status })
  | .item id | .itemPut id =>
    if page then
      modItem (dropAcc s i) id (fun it => { it with
        waiting := it.waiting - 1
        fault := noteFault it.fault a })
    else if deny then denyItem (dropAcc s i) id
    else accRepeat s i a status
  | .itemAtomic id _ | .itemMerge id | .signal id _ =>
    if deny then denyItem (dropAcc s i) id else accRepeat s i a status
  | .skipSignal c r d =>
    if page then modDesc (dropAcc s i) c r d (fun d => { d with waiting := d.waiting - 1 })
    else if deny then modDesc (spanRefused s i) c r d (fun d => worsen { d with waiting := d.waiting - 1 } 0x3F)
    else accRepeat s i a status
  | .stream c k b =>
    if page then
      modBlock (dropAcc s i) c k b (fun y => { y with
        waiting := y.waiting - 1
        fault := noteFault y.fault a })
    else if deny then modStream (modBlock (spanRefused s i) c k b (fun y => { y with waiting := y.waiting - 1 })) c k
      (fun y => { y with denied := true })
    else accRepeat s i a status
  | .deliveryCell c k =>
    if deny then modStream (spanRefused s i) c k (fun y => { y with cellBusy := false, denied := true })
    else accRepeat s i a status
  | .resume c h =>
    if page then
      modHalt (dropAcc s i) c h (fun y => { y with
        waiting := y.waiting - 1
        fault := noteFault y.fault a })
    else if deny then modHalt (spanRefused s i) c h (fun y => { y with waiting := y.waiting - 1, denied := true })
    else accRepeat s i a status
  | .completion _ _ _ | .trailer _ _ _ | .status _ _ | .logHeader _ _ | .healHeader =>
    event (accRepeat s i a status) evRing 3
  | .image => if a.write then event (accRepeat s i a status) evRing 3 else accRepeat s i a status
  | .log _ w => logDropped (dropAcc s i) w
  | .heal => event (bump (dropAcc s i) ctHealLost 1) evHeal 5
  | .rebuild k => if a.write then accRepeat s i a status else modRebuild (dropAcc s i) k (fun y => { y with
      waiting := y.waiting - 1
      asked := y.asked.filter (fun g => !(decide (g.1 ≤ a.addr) && decide (a.addr < g.1 + g.2)))
      once := y.once ++ ((y.asked.filter (fun g => decide (g.1 ≤ a.addr) && decide (a.addr < g.1 + g.2))).map (·.1)) })
  | .migration k => if a.write && (NMap.find? s.tables.migrations k).elim true (fun m => m.phase == 3) then
      accRepeat s i a status else modMigration (dropAcc s i) k (fun y => { y with waiting := y.waiting - 1, failed := true })
  | .backing j => if a.write then accRepeat s i a status else modCommit (dropAcc s i) j (fun y => { y with
      writes := y.writes - 1, failed := y.failed ++ [a.addr] })
  | .mbx =>
    let s := dropAcc s i
    { s with boot := { s.boot with waiting := s.boot.waiting - 1, failed := true } }
  | .swtch c r => modRing (dropAcc s i) c r (fun x => { x with waiting := x.waiting - 1, memFail := true })
  | .audit =>
    let s := dropAcc s i
    { s with deck := { s.deck with audit := { s.deck.audit with
      waiting := s.deck.audit.waiting - 1, failed := true } } }
  | .free _ => dropAcc s i
  | .peer h pg => answerPeer (dropAcc s i) h (if status = 1 && pg then 1 else 4) []
  | _ => accRepeat s i a status

/-- The end of an access: OK with its data, or a failing status of R310. -/
def accDone (s : State) (i status : Nat) (data : List Byte) : State :=
  match NMap.find? s.kid.accs i with
  | none => s
  | some a => if status = 0 then accGood (dropAcc s i) a data else accBad s i a status

/-- Accesses that failed before they were issued reach their owners. -/
def settleInstant (s : State) : State :=
  s.kid.instant.foldl (fun s p => accDone s p.1 p.2 []) { s with kid := { s.kid with instant := [] } }

/-- The end of a step: failed issues reach their owners, items whose conditions hold become Ready, and time-slicing begins or
ends. -/
def settle (s : State) : State := noteSlicing (refreshReady (settleInstant s))

/-- The next state of a step that may have issued accesses or changed items. -/
abbrev finish (s : State) : Host.Outcome State Fault Refusal := ok (settle s)

/-! ### Answers over Kiduner -/

/-- A waiting access takes a tag that has become free. -/
def nextTag (s : State) : State :=
  match s.kid.waiting with
  | [] => s
  | i :: rest => launch { s with kid := { s.kid with waiting := rest } } i

/-- An open transaction ends: its tag is free again. -/
def closeTag (s : State) (t : Nat) : State := nextTag { s with kid := { s.kid with tags := NMap.erase s.kid.tags t } }

/-- An arrival that the Tollgate drops (14 R312). -/
def kidBad (s : State) : State := event (bump s ctKidBad 1) evKid 3

/-- The fill of access `i` to a cached line is kept unless a snoop met that access (14 R313, R314). -/
def keepLine (s : State) (i : Nat) (a : Acc) (data : List Byte) : State :=
  if !a.shared then s
  else
    let line := (gLocal a.addr - hostBase) / 64
    if s.kid.snooped.contains i then
      { s with kid := { s.kid with snooped := s.kid.snooped.filter (· != i) } }
    else
      let ls := if s.kid.lines.length < 2 ^ 20 then s.kid.lines else s.kid.lines.drop 1
      { s with kid := { s.kid with lines := NMap.set ls line data } }

/-- READ_DATA: the data slots of a host answer fill the read's landing space (14 R308, R310, R312). -/
def hostRead (s : State) (tag : Nat) (data : List Byte) : State :=
  match NMap.find? s.kid.tags tag with
  | none => kidBad s
  | some i =>
    match NMap.find? s.kid.accs i with
    | none => kidBad s
    | some a =>
      if a.write || a.len != data.length then kidBad s
      else accDone (closeTag (keepLine s i a data) tag) i 0 data

/-- READ_DONE: a failing status ends a read without data (14 R310). -/
def hostReadDone (s : State) (tag status : Nat) : State :=
  match NMap.find? s.kid.tags tag with
  | none => kidBad s
  | some i =>
    match NMap.find? s.kid.accs i with
    | none => kidBad s
    | some a => if a.write || status = 0 || 4 < status then kidBad s else accDone (closeTag s tag) i status []

/-- WRITE_DONE: a write is visible in host memory, or failed (14 R310). -/
def hostWriteDone (s : State) (tag status : Nat) : State :=
  match NMap.find? s.kid.tags tag with
  | none => kidBad s
  | some i =>
    match NMap.find? s.kid.accs i with
    | none => kidBad s
    | some a => if !a.write || 4 < status then kidBad s else accDone (closeTag s tag) i status []

def execReadData (tag : Nat) (data : List Byte) (s : State) : Host.Outcome State Fault Refusal :=
  finish (hostRead s tag data)

def execReadDone (tag status : Nat) (s : State) : Host.Outcome State Fault Refusal :=
  finish (hostReadDone s tag status)

def execWriteDone (tag status : Nat) (s : State) : Host.Outcome State Fault Refusal :=
  finish (hostWriteDone s tag status)

/-! ### Repeats -/

/-- A failed access is due again; out of service only the healing log is still written (18 R401). -/
def accDue (s : State) (i : Nat) : Option Acc :=
  match NMap.find? s.kid.accs i with
  | some a => match a.st with
    | .failed _ due => if due ≤ now s ∧ (!s.heal.outOfService ∨ a.owner = .healHeader) then some a else none
    | .flying => none
  | none => none

/-- The reads that HOST_READ_RETRY repeats (15 R462). -/
def isDeviceRead (a : Acc) : Bool :=
  match a.owner with
  | .slot _ _ _ | .arg _ _ | .admin => true
  | .image => !a.write
  | _ => false

/-- The writes that HOST_WRITE_RETRY repeats (15 R462). -/
def isDeviceWrite (a : Acc) : Bool :=
  match a.owner with
  | .completion _ _ _ | .trailer _ _ _ | .status _ _ | .logHeader _ _ | .healHeader => true
  | .image => a.write
  | _ => false

/-- The outside timeout that bounds an access (15 R462, 16 R353). -/
def accTimeout (s : State) (a : Acc) : Nat :=
  match a.owner with
  | .admin => rwGet s rwTimeout
  | _ => match NMap.find? s.ctxs a.context with
    | some x => x.timeout
    | none => rwGet s rwTimeout

/-- The next request of a channel that waited for room (16 R353). -/
def nextWaiting (s : State) (k : Nat) : State :=
  let o := NMap.getD s.span.outs k SpanOut.fresh
  match o.waiting with
  | [] => s
  | (h, data, acc) :: rest =>
    spanIssue { s with span := { s.span with outs := NMap.set s.span.outs k { o with waiting := rest } } } h data acc

/-- The outside timeout of an access has passed, counted from its first issue. -/
def accLate (s : State) (a : Acc) : Bool := decide (a.first + accTimeout s a ≤ now s)

/-- The access goes by Span. -/
def overSpan (s : State) (a : Acc) : Bool := decide (a.addr < nvmeBase) && !(isOwn s a.addr)

/-- A Span request that has timed out leaves its channel: it is sent no more, and a late response matches nothing
(16 R353). -/
def closeRequest (s : State) (i : Nat) : State :=
  match NMap.find? s.kid.accs i with
  | none => s
  | some a =>
    if !(overSpan s a) then s
    else
      let ks := (s.span.outs.filter (fun o => o.2.open_.any (·.acc == i) || o.2.waiting.any (fun w => w.2.2 == i))).map (·.1)
      ks.foldl (fun s k =>
        let o := NMap.getD s.span.outs k SpanOut.fresh
        let o1 := { o with open_ := o.open_.filter (fun q => q.acc != i), waiting := o.waiting.filter (fun w => w.2.2 != i) }
        nextWaiting { s with span := { s.span with outs := NMap.set s.span.outs k o1 } } k) (dropAcc s i)

/-- The read of a descriptor, argument block or admin operand timed out (15 R462). -/
def readTimedOut (s : State) (i : Nat) (a : Acc) : State :=
  let s := dropAcc s i
  match a.owner with
  | .slot c r _ => modRing s c r (fun y => { y with head := some [] })
  | .arg c r => modRing s c r (fun y => { y with argFail := some 0x21, waiting := y.waiting - 1 })
  | .admin | .image => { s with regs := { s.regs with adminAsked := s.regs.adminAsked - 1, adminDue := true } }
  | _ => s

/-- HOST_READ_RETRY: a failed read of the device's own is repeated every 65,536 ticks until the timeout (15 R462). -/
def execHostReadRetry (acc : Nat) (s : State) : Host.Outcome State Fault Refusal :=
  match accDue s acc with
  | none => ok s
  | some a =>
    if !(isDeviceRead a) then ok s
    else if a.first + accTimeout s a ≤ now s then finish (readTimedOut s acc a)
    else finish (launch s acc)

/-- HOST_WRITE_RETRY: a failed write that must not be lost is repeated without limit (15 R462). -/
def execHostWriteRetry (acc : Nat) (s : State) : Host.Outcome State Fault Refusal :=
  match accDue s acc with
  | none => ok s
  | some a => if isDeviceWrite a then finish (launch s acc) else ok s

/-- OUTSIDE_ACCESS_RETRY: an item's failed access is repeated every 65,536 ticks (18 R400). -/
def execOutsideAccessRetry (acc : Nat) (s : State) : Host.Outcome State Fault Refusal :=
  match accDue s acc with
  | none => ok s
  | some a =>
    match a.owner with
    | .backing _ => ok s
    | .free _ => ok (dropAcc s acc)
    | _ => if isDeviceRead a || isDeviceWrite a then ok s else finish (launch s acc)

/-- BACKING_WRITE_RETRY: a failed backing write of a commit is repeated every 65,536 ticks (10 R220). -/
def execBackingWriteRetry (acc : Nat) (s : State) : Host.Outcome State Fault Refusal :=
  match accDue s acc with
  | none => ok s
  | some a =>
    match a.owner with
    | .backing _ => finish (launch s acc)
    | _ => ok s

end Sys2Proof.Machine
end

