-- ==== Sys2Proof/Machine/Rings.lean ====
section
/-!
DEFINITION. Rings, doorbells, completions and status words (15 R322 to R336).
-/

namespace Sys2Proof.Machine

open Sys2Proof

/-- A wake source: the device leaves Nap, or stops entering it (20 R446, R447). -/
def wakeUp (s : State) : State :=
  if s.power.entering.isSome then
    let s1 := rwStore s rwPwrRequest 0
    { s1 with power := { s1.power with
        entering := none, waking := if s.power.entering = some 0 then none else some (now s) }
              kid := { s1.kid with napStage := 0, napAsks := 0 } }
  else if s.power.nap && s.power.waking.isNone then
    let s1 := rwStore s rwPwrRequest 0
    { s1 with power := { s1.power with waking := some (now s) } }
  else s

/-! ### Doorbells -/

def diff32 (a b : Nat) : Nat := (a + 2 ^ 32 - b % 2 ^ 32) % 2 ^ 32

/-- A doorbell that the Tollgate drops (15 R324). -/
def badDoorbell (s : State) (free : Bool) : State :=
  let s1 := event (bump s ctBadDoorbell 1) evRing 0
  if free then event s1 evRing 1 else s1

/-- A doorbell whose upper half is zero and whose context exists goes on to `f`. -/
def onContext (s : State) (c value : Nat) (f : Ctx → State) : State :=
  match NMap.find? s.ctxs c with
  | none => badDoorbell s true
  | some x => if 2 ^ 32 ≤ value then badDoorbell s false else f x

def onRing (s : State) (c r value : Nat) (f : Ring → State) : State :=
  onContext s c value (fun x =>
    match NMap.find? x.rings r with
    | none => badDoorbell s false
    | some y => f y)

/-- A submission tail: dropped when it passes the ring's size, else the tail moves; one that advances the tail of an ACTIVE
context is a wake source (15 R324, 20 R446). -/
def tailDoorbell (s : State) (c r value : Nat) : State :=
  onRing s c r value (fun y =>
    if 2 ^ y.subLog < diff32 value y.consumed then badDoorbell s false
    else
      let s1 := modRing (trace s c srcTollgate 1 value 0) c r (fun y => { y with tail := value })
      if diff32 y.tail y.consumed < diff32 value y.consumed && (NMap.find? s.ctxs c).any (·.st == .active) then wakeUp s1
      else s1)

/-- A completion head: dropped when it lies beyond the entries written (15 R324). -/
def headDoorbell (s : State) (c r value : Nat) : State :=
  onRing s c r value (fun y =>
    if diff32 y.written y.cqHead < diff32 value y.cqHead then badDoorbell s false
    else modRing (trace s c srcTollgate 1 value 0) c r (fun y => { y with cqHead := value, statusDirty := true }))

/-- A log head: quarantine 0, halt 1, trace 2; dropped when it lies beyond the entries written (15 R323 to R325). -/
def logDoorbell (s : State) (c which value : Nat) : State :=
  onContext s c value (fun x =>
    let l := ctxLog x which
    if diff32 l.acked l.head < diff32 value l.head then badDoorbell s false
    else
    let s1 := setCtx s c (setCtxLog x which { ctxLog x which with head := value })
    trace s1 c srcTollgate 1 value 0)

/-- The doorbell at an offset of its page (15 R323). -/
def doorbellAt (s : State) (c o value : Nat) : State :=
  if o % 8 != 0 then badDoorbell s false
  else if o < 0x80 then tailDoorbell s c (o / 8) value
  else if o < 0x100 then headDoorbell s c ((o - 0x80) / 8) value
  else if o = 0x100 then logDoorbell s c 0 value
  else if o = 0x108 then logDoorbell s c 1 value
  else if o = 0x110 then logDoorbell s c 2 value
  else badDoorbell s false

/-- A DOORBELL transaction: outside the doorbell pages it is dropped (14 R312, 15 R323). -/
def hostDoorbell (s : State) (off value : Nat) : State :=
  if off < 0x10000000 || 0x20000000 ≤ off then kidBad s
  else doorbellAt s ((off - 0x10000000) / 4096) (off % 4096) value

def execSubmissionTail (ctx ring value : Nat) (s : State) : Host.Outcome State Fault Refusal :=
  finish (tailDoorbell s ctx ring value)

def execCompletionHead (ctx ring value : Nat) (s : State) : Host.Outcome State Fault Refusal :=
  finish (headDoorbell s ctx ring value)

def execQuarantineLogHead (ctx value : Nat) (s : State) : Host.Outcome State Fault Refusal :=
  finish (logDoorbell s ctx 0 value)

def execHaltLogHead (ctx value : Nat) (s : State) : Host.Outcome State Fault Refusal :=
  finish (logDoorbell s ctx 1 value)

def execEventTraceHead (ctx value : Nat) (s : State) : Host.Outcome State Fault Refusal :=
  finish (logDoorbell s ctx 2 value)

/-! ### Fetching -/

/-- Fetching of the next descriptor waits for completion room (15 R322, R335). -/
def cqWait (y : Ring) : Bool := y.consumed != y.tail && decide (2 ^ y.cqLog ≤ diff32 y.consumed y.cqHead)

/-- The device may fetch the ring's next descriptor (15 R322, 04 R70). -/
def mayFetch (s : State) (x : Ctx) (y : Ring) : Bool :=
  running s && x.st == .active && !x.closing && y.head.isNone && y.waiting == 0 && y.blocked.isNone &&
  y.consumed != y.tail && !(cqWait y)

/-- DESCRIPTOR_FETCH: the slot of the next descriptor is read, from the line cache when it is held (15 R322, R319;
14 R313). -/
def execDescriptorFetch (ctx ring : Nat) (s : State) : Host.Outcome State Fault Refusal :=
  match NMap.find? s.ctxs ctx, getRing s ctx ring with
  | some x, some y =>
    if !(mayFetch s x y) then ok s
    else
      let a := y.subBase + (y.consumed % 2 ^ y.subLog) * 64
      let line := (gLocal a - hostBase) / 64
      match (if y.cacheable then NMap.find? s.kid.lines line else none) with
      | some bs =>
        finish (modRing (trace s ctx srcTollgate 2 y.consumed 0) ctx ring
          (fun y => { y with head := some bs }))
      | none =>
        let s1 := modRing s ctx ring (fun y => { y with waiting := 1 })
        finish (issue s1 { accRead s (.slot ctx ring y.consumed) ctx a 64 with shared := y.cacheable })
  | _, _ => ok s

/-! ### Consuming and completing descriptors -/

/-- A consumed descriptor with no items. -/
def Desc.fresh (raw : List Byte) : Desc :=
  { raw := raw, type := leAt raw 0 1, status := none, detail := 0, n := 0, firstItem := 0, chain := 0,
    released := [], created := false, itemsDone := 0, committed := 0, yielded := false, quarantined := 0, worst := [],
    counters := [], running := false, trailerDue := false, trailerDone := true, entrySent := false, waiting := 0,
    lostGroups := [], lostSent := 0, pins := [], digest := [], waiters := [], keys := none, inputs := [],
    roots := [], closeDue := false, mem := [] }

/-- The ring's head descriptor is consumed with this record; records older than 4,096 behind are forgotten
(15 R328, R334). -/
def consume (s : State) (c r : Nat) (d : Desc) : State :=
  modRing s c r (fun y =>
    let descs := NMap.set y.descs y.consumed d
    { y with
      descs := if descs.length ≤ 4160 then descs else descs.filter (fun q =>
        decide (diff32 y.consumed q.1 ≤ 4097) || !q.2.entrySent || decide (2 ^ 31 ≤ diff32 q.1 y.written))
      head := none, arg := none, argFail := none, depSince := none, blocked := none
      mem := [], asked := [], waiting := 0, memFail := false
      consumed := (y.consumed + 1) % 2 ^ 32, statusDirty := true })

/-- Consume the head with a status at once (15 R334). -/
def completeHead (s : State) (c r : Nat) (raw : List Byte) (status detail : Nat) : State :=
  let s1 := if status = 0x14 then event s evSched 1 else s
  consume s1 c r { Desc.fresh raw with status := some status, detail := detail }

/-- A running command ends with a status (15 R329). -/
def completeDesc (s : State) (c r i status detail : Nat) : State :=
  modDesc s c r i (fun d => if d.status.isSome then d else { d with status := some status, detail := detail, running := false })

/-- The bytes of a completion entry (15 R332). -/
def completionBytes (s : State) (y : Ring) (i : Nat) (d : Desc) : List Byte :=
  let unread := d.raw.isEmpty
  natLE (stamp s) 8 ++ natLE i 4 ++ natLE (d.status.getD 0) 1 ++ natLE (1 - (i / 2 ^ y.cqLog) % 2) 1 ++
  natLE (if unread then 0 else d.type) 1 ++ natLE 0 1 ++ natLE (if unread then 0 else leAt d.raw 16 4) 4 ++
  natLE (if d.created then d.n else 0) 4 ++ natLE d.detail 4 ++ natLE 0 4

/-- Everything that must come before the entry has come: the status, outstanding requests and the trailer
(15 R334, 13 R295). -/
def entryDue (d : Desc) : Bool :=
  d.status.isSome && !d.entrySent && !d.running && d.waiting == 0 && d.trailerDone

/-- The bytes of the job status word (15 R335, R336). -/
def statusBytes (s : State) (x : Ctx) (y : Ring) : List Byte :=
  let d := NMap.find? y.descs y.written
  let pendingItems := match d with
    | some d => if d.created && !d.entrySent then (d.itemsDone, d.n) else (0, 0)
    | none => (0, 0)
  let g := (y.gen + 1) % 2 ^ 32
  natLE g 4 ++ natLE y.consumed 4 ++ natLE y.written 4 ++ natLE pendingItems.1 4 ++ natLE pendingItems.2 4 ++
  natLE ((if x.st = .paused then 1 else 0) + (if y.blocked.isSome then 2 else 0) + (if cqWait y then 4 else 0) +
    (if s.kidLink.st = .down then 8 else 0)) 4 ++
  natLE (stamp s) 8 ++ natLE y.itemsReleased 8 ++ natLE y.quarantined 8 ++ zeros 12 ++ natLE g 4

/-- STATUS_WORD_WRITE: a changed word is written with one 64-byte WRITE (15 R335, R336). -/
def execStatusWordWrite (ctx ring : Nat) (s : State) : Host.Outcome State Fault Refusal :=
  match NMap.find? s.ctxs ctx, getRing s ctx ring with
  | some x, some y =>
    if !y.statusDirty || y.statusBusy || s.power.off then ok s
    else
      let s1 := modRing s ctx ring (fun y => { y with gen := (y.gen + 1) % 2 ^ 32, statusDirty := false, statusBusy := true })
      finish (issueWrites s1 (.status ctx ring) ctx y.statusAddr (statusBytes s x y))
  | _, _ => ok s

/-- MSG_WAKE: the message names the context, the ring and the latest index (15 R333). -/
def execMsgWake (ctx ring : Nat) (s : State) : Host.Outcome State Fault Refusal :=
  match getRing s ctx ring with
  | none => ok s
  | some y =>
    match y.wake with
    | none => ok s
    | some i =>
      let s1 := modRing s ctx ring (fun y => { y with wake := none })
      ok (kidSend s1 { hdr := kidHdr 8 0 0 1 (ctx + ring * 2 ^ 16 + i * 2 ^ 32), data := [] })

end Sys2Proof.Machine
end

