-- ==== Sys2Proof/Machine/Commands.lean ====
section
/-!
DEFINITION. Ring commands: their common checks and argument blocks (15 R329), and the commands over chains, flows,
ranges and tensors (05 R78, 04 R62, 12 R245 to R251).
-/

namespace Sys2Proof.Machine

open Sys2Proof

/-- The first byte of [lo, hi) of a structure that is not zero and lies in none of the named fields. -/
def firstStray (bs : List Byte) (lo hi : Nat) (named : List (Nat × Nat)) : Option Nat :=
  ((List.range (hi - lo)).map (· + lo)).find? (fun k =>
    leAt bs k 1 != 0 && !(named.any (fun f => decide (f.1 ≤ k) && decide (k ≤ f.2))))

/-- The common form of a command descriptor: every byte that the command does not name is zero (15 R329). -/
def commandStray (raw : List Byte) (named : List (Nat × Nat)) : Option Nat :=
  if leAt raw 1 1 % 2 != 0 || 4 ≤ leAt raw 1 1 then some 1
  else (firstStray raw 2 64 ((16, 19) :: (24, 31) :: named))

/-- An extent lies inside a readable (or writable) range of the context. -/
def rangeAllows (x : Ctx) (write : Bool) (a n : Nat) : Bool :=
  x.ranges.any (fun p => (if write then p.2.write else p.2.read) && decide (p.2.base ≤ a) &&
    decide (a + n ≤ p.2.base + p.2.len))

/-- The ring's head is a command with this code, and the device acts on rings. -/
def commandHead (s : State) (c r code : Nat) : Option (Ctx × Ring × List Byte) :=
  match NMap.find? s.ctxs c, getRing s c r with
  | some x, some y =>
    match y.head with
    | some raw => if leAt raw 0 1 = code ∧ raw ≠ [] ∧ x.st = .active ∧ !x.closing ∧ running s then some (x, y, raw) else none
    | none => none
  | _, _ => none

/-- The first running command of a type in a ring. -/
def runningDesc (s : State) (c r type : Nat) (p : Desc → Bool) : Option (Nat × Desc) :=
  (getRing s c r).bind (fun y => List.find? (fun q => q.2.type == type && q.2.running && p q.2) y.descs)

/-- What to do with a command: it is not at the head, it waits for its argument block, it completed at once, or it
goes on with its bytes. -/
inductive CmdStep where
  | idle
  | moved (s : State)
  | go (x : Ctx) (raw arg : List Byte)
deriving DecidableEq, Repr

/-- Take up the command at the head of a ring: its argument address, its block and its reserved bytes (15 R329, R462).
`need` says how many argument bytes the command reads, given those it has; zero means it takes no block. -/
def takeCommand (s : State) (c r code : Nat) (named : List (Nat × Nat)) (need : List Byte → List Byte → Nat) : CmdStep :=
  match commandHead s c r code with
  | none => .idle
  | some (x, y, raw) =>
    let a := leAt raw 24 8
    let got := y.arg.getD []
    let n := need raw got
    if y.argFail.isSome then .moved (completeHead s c r raw 0x21 0)
    else if n = 0 && a != 0 then .moved (completeHead s c r raw 0x10 24)
    else if n != 0 && (a = 0 || a % 64 != 0) then .moved (completeHead s c r raw 0x10 24)
    else if n != 0 && !(rangeAllows x false a n) then .moved (completeHead s c r raw 0x11 24)
    else if got.length < n then
      if y.waiting != 0 then .idle
      else if isDeck s a then
        .moved (modRing s c r (fun y => { y with arg := some (got ++ deckRead s (gLocal a + got.length) (n - got.length)) }))
      else
        let s1 := modRing s c r (fun y => { y with waiting := 1 })
        .moved (issue s1 (accRead s (.arg c r) c (a + got.length) (min 65536 (n - got.length))))
    else match commandStray raw named with
      | some k => .moved (completeHead s c r raw 0x10 k)
      | none => .go x raw got

/-- Run a command whose work is done in one step. -/
def command (s : State) (c r code : Nat) (named : List (Nat × Nat)) (need : List Byte → List Byte → Nat)
    (f : Ctx → List Byte → List Byte → State) : State :=
  match takeCommand s c r code named need with
  | .idle => s
  | .moved t => t
  | .go x raw arg => f x raw arg

def noArg (_ _ : List Byte) : Nat := 0
def argOf (n : Nat) (_ _ : List Byte) : Nat := n

/-- Consume the head as a command that goes on running. -/
def startCommand (s : State) (c r : Nat) (raw : List Byte) : State :=
  consume s c r { Desc.fresh raw with running := true }

/-! ### Chains and flows -/

/-- A live item runs this chain. -/
def chainLive (s : State) (c k : Nat) : Bool := s.sched.items.any (fun p => p.2.ctx == c && p.2.chain == k && p.2.flow.isSome)

/-- CHAIN_REMOVE: from its acceptance no descriptor may name the chain; it completes once no live item of the chain
remains (05 R78). -/
def execChainRemove (ctx ring : Nat) (s : State) : Host.Outcome State Fault Refusal :=
  match runningDesc s ctx ring 3 (fun d => !(chainLive s ctx (leAt d.raw 32 2))) with
  | some (i, d) =>
    let s1 := modCtx s ctx (fun x => { x with chains := NMap.erase x.chains (leAt d.raw 32 2) })
    finish (completeDesc s1 ctx ring i 0 0)
  | none =>
    finish (command s ctx ring 3 [(32, 33)] noArg (fun x raw _ =>
      let k := leAt raw 32 2
      match (if k < 4096 then NMap.find? x.chains k else none) with
      | none => completeHead s ctx ring raw 0x10 32
      | some ch =>
        if ch.removing then completeHead s ctx ring raw 0x10 32
        else
          let s1 := setCtx s ctx { x with chains := NMap.set x.chains k { ch with removing := true } }
          startCommand s1 ctx ring raw))

/-- FLOW_OPEN: opens a flow bound to this ring (15 R329, 04 R59, R61). -/
def execFlowOpen (ctx ring : Nat) (s : State) : Host.Outcome State Fault Refusal :=
  finish (command s ctx ring 4 [(32, 36)] noArg (fun x raw _ =>
    let f := leAt raw 32 4
    let w := leAt raw 36 1
    if 2 ^ 20 ≤ f then completeHead s ctx ring raw 0x11 32
    else if NMap.has s.sched.flows f then completeHead s ctx ring raw 0x10 32
    else if w != 0 && (w < 12 || 16 < w) then completeHead s ctx ring raw 0x10 36
    else
      let fl : Flow := {
        next := 0, release := 0, ctx := ctx, wlog := if w = 0 then 12 else w, draining := false, ring := ring,
        window := x.areaBase / 4096 + f * 256, skips := 0, ahead := 0 }
      let s1 := { s with sched := { s.sched with flows := NMap.set s.sched.flows f fl } }
      completeHead s1 ctx ring raw 0 0))

/-- FLOW_CLOSE: the flow drains and closes once release_seq reaches next_seq (04 R62). -/
def execFlowClose (ctx ring : Nat) (s : State) : Host.Outcome State Fault Refusal :=
  let drained := fun (d : Desc) =>
    match NMap.find? s.sched.flows (leAt d.raw 32 4) with
    | some f => f.release == f.next
    | none => true
  match runningDesc s ctx ring 5 drained with
  | some (i, d) =>
    let s1 := { s with sched := { s.sched with flows := NMap.erase s.sched.flows (leAt d.raw 32 4) } }
    finish (completeDesc s1 ctx ring i 0 0)
  | none =>
    finish (command s ctx ring 5 [(32, 35)] noArg (fun _ raw _ =>
      let f := leAt raw 32 4
      match NMap.find? s.sched.flows f with
      | none => completeHead s ctx ring raw 0x10 32
      | some fl =>
        if fl.ctx != ctx || fl.ring != ring || fl.draining then completeHead s ctx ring raw 0x10 32
        else
          let s1 := { s with sched := { s.sched with flows := NMap.set s.sched.flows f { fl with draining := true } } }
          startCommand s1 ctx ring raw))

/-! ### Ranges and tensors -/

/-- RANGE_ADD: a memory range with rights (15 R329, 17 R367, R372). -/
def execRangeAdd (ctx ring : Nat) (s : State) : Host.Outcome State Fault Refusal :=
  finish (command s ctx ring 6 [(32, 36), (40, 55)] noArg (fun x raw _ =>
    let k := leAt raw 32 4
    let flags := leAt raw 36 1
    let base := leAt raw 40 8
    let len := leAt raw 48 8
    if 8 ≤ flags then completeHead s ctx ring raw 0x10 36
    else if len = 2 ^ 64 - 1 then completeHead s ctx ring raw 0x10 48
    else if NMap.has x.ranges k then completeHead s ctx ring raw 0x10 32
    else
      let own := isOwn s base
      let deck := decide (gLocal base < deckTop)
      if localBad (gLocal base) len then completeHead s ctx ring raw 0x11 40
      else if own && deck && bitAt flags 2 then completeHead s ctx ring raw 0x11 36
      else if own && deck && !(deckReachable s (gLocal base) len) then completeHead s ctx ring raw 0x11 40
      else if own && !deck && !(inHostWindow s (gLocal base - hostBase) len) then completeHead s ctx ring raw 0x11 40
      else
        let rg : Range := {
          base := base, len := len, read := bitAt flags 0, write := bitAt flags 1, pageable := bitAt flags 2 }
        completeHead (setCtx s ctx { x with ranges := NMap.set x.ranges k rg }) ctx ring raw 0 0))

/-- RANGE_REMOVE: removes a range that no tensor names (12 R251). -/
def execRangeRemove (ctx ring : Nat) (s : State) : Host.Outcome State Fault Refusal :=
  finish (command s ctx ring 7 [(32, 35)] noArg (fun x raw _ =>
    let k := leAt raw 32 4
    if !(NMap.has x.ranges k) || x.tensors.any (fun p => p.2.range == k) then completeHead s ctx ring raw 0x10 32
    else completeHead (setCtx s ctx { x with ranges := NMap.erase x.ranges k }) ctx ring raw 0 0))

/-- The tensor that a 128-byte descriptor describes (12 R246). -/
def parseTensor (b : List Byte) : Tensor :=
  { base := leAt b 0 8, fmt := leAt b 8 1, rank := leAt b 9 1, read := bitAt (leAt b 10 1) 0,
    write := bitAt (leAt b 10 1) 1, range := leAt b 12 4,
    dims := (List.range 6).map (fun d => leAt b (16 + 4 * d) 4),
    strides := (List.range 6).map (fun d => leAt b (40 + 8 * d) 8), dying := false }

/-- The first field of a tensor descriptor that makes it DESC_INVALID (12 R246, R248, R274). -/
def tensorInvalid (b : List Byte) : Option Nat :=
  let t := parseTensor b
  let sub := fmtSubByte t.fmt
  let eb := elemBytes t.fmt
  if 0x13 < t.fmt then some 8
  else if t.rank = 0 || 6 < t.rank then some 9
  else if 4 ≤ leAt b 10 1 then some 10
  else if leAt b 11 1 != 0 then some 11
  else match (List.range 6).find? (fun d => (t.rank ≤ d && t.dims.getD d 0 != 0) || t.dims.getD d 0 == 2 ^ 32 - 1) with
    | some d => some (16 + 4 * d)
    | none => match (List.range 6).find? (fun d => (t.rank ≤ d && t.strides.getD d 0 != 0) ||
        t.strides.getD d 0 == 2 ^ 64 - 1) with
      | some d => some (40 + 8 * d)
      | none =>
        if sub && t.strides.getD 0 0 != 0 then some 40
        else match firstStray b 88 128 [] with
          | some k => some k
          | none =>
            if sub then none
            else if t.base % eb != 0 then some 0
            else ((List.range t.rank).find? (fun d => t.strides.getD d 0 % eb != 0)).map (fun d => 40 + 8 * d)

/-- Insert (stride, dim) by ascending stride. -/
def insertStride (q : Nat × Nat) : List (Nat × Nat) → List (Nat × Nat)
  | [] => [q]
  | p :: ps => if q.1 ≤ p.1 then q :: p :: ps else p :: insertStride q ps

/-- Each stride is at least the span of the dimensions before it, and no two are equal (12 R249). -/
def strideChain : Nat → Option Nat → List (Nat × Nat) → Bool
  | _, _, [] => true
  | span, last, (st, d) :: rest =>
    decide (span ≤ st) && (last != some st) && strideChain (span + (d - 1) * st) (some st) rest

/-- The tensor overlaps itself (12 R249). -/
def selfOverlap (t : Tensor) : Bool :=
  let v := t.view
  let all := v.dims.zip v.strides
  if fmtSubByte t.fmt then
    let inner := v.dims.getD 0 1
    let rest := ((all.drop 1).filter (fun q => decide (1 < q.1))).map (fun q => (q.2, q.1))
    !(strideChain (packedBytes t.fmt inner) (if 1 < inner then some 0 else none) (rest.foldr insertStride []))
  else
    let rest := (all.filter (fun q => decide (1 < q.1))).map (fun q => (q.2, q.1))
    !(strideChain (elemBytes t.fmt) none (rest.foldr insertStride []))

/-- TENSOR_CREATE: checks a tensor descriptor against its range and makes the handle usable (12 R248). -/
def execTensorCreate (ctx ring : Nat) (s : State) : Host.Outcome State Fault Refusal :=
  finish (command s ctx ring 8 [(32, 35)] (argOf 128) (fun x raw arg =>
    let h := leAt raw 32 4
    let t := parseTensor arg
    match tensorInvalid arg with
    | some k => completeHead s ctx ring raw 0x10 (0x80000000 + k)
    | none =>
      if x.tensorTable ≤ h then completeHead s ctx ring raw 0x11 32
      else if NMap.has x.tensors h then completeHead s ctx ring raw 0x10 32
      else match NMap.find? x.ranges t.range with
        | none => completeHead s ctx ring raw 0x11 (0x80000000 + 12)
        | some rg =>
          let v := t.view
          if gDev t.base != gDev rg.base || v.lo < rg.base || rg.base + rg.len < v.lo + v.span then
            completeHead s ctx ring raw 0x11 0x80000000
          else if (t.read && !rg.read) || (t.write && !rg.write) then completeHead s ctx ring raw 0x11 (0x80000000 + 10)
          else if t.write && selfOverlap t then completeHead s ctx ring raw 0x12 0
          else completeHead (setCtx s ctx { x with tensors := NMap.set x.tensors h t }) ctx ring raw 0 0))

/-- A chain's operands name a tensor handle. -/
def chainNames (img : List Byte) (h : Nat) : Bool :=
  (List.range (chainOps img)).any (fun k => (List.range 4).any (fun j =>
    refKind (opRef (chainOp img k) j) == 1 && refIndex (opRef (chainOp img k) j) == h))

/-- A live item, an active stream or a merge queue names the handle (12 R251). -/
def tensorLive (s : State) (c h : Nat) : Bool :=
  match NMap.find? s.ctxs c with
  | none => false
  | some x =>
    s.sched.items.any (fun p => p.2.ctx == c && p.2.flow.isSome && chainNames (itemImage s p.2) h) ||
    x.streams.any (fun p => leAt p.2.desc 0 3 == h || leAt p.2.desc 4 3 == h) ||
    x.queues.any (fun p => (!p.2.rows && p.2.dense == h) || (p.2.rows && p.2.tableSet == h))

/-- TENSOR_DESTROY: completes once no live item, no active stream and no merge queue names the handle (12 R251). -/
def execTensorDestroy (ctx ring : Nat) (s : State) : Host.Outcome State Fault Refusal :=
  match runningDesc s ctx ring 9 (fun d => !(tensorLive s ctx (leAt d.raw 32 4))) with
  | some (i, d) =>
    let h := leAt d.raw 32 4
    let s1 := modCtx s ctx (fun x => { x with tensors := NMap.erase x.tensors h })
    finish (completeDesc s1 ctx ring i 0 0)
  | none =>
    finish (command s ctx ring 9 [(32, 35)] noArg (fun x raw _ =>
      let h := leAt raw 32 4
      if x.tensorTable ≤ h then completeHead s ctx ring raw 0x11 32
      else match NMap.find? x.tensors h with
        | none => completeHead s ctx ring raw 0x10 32
        | some t =>
          if t.dying then completeHead s ctx ring raw 0x10 32
          else startCommand (setCtx s ctx { x with tensors := NMap.set x.tensors h { t with dying := true } })
            ctx ring raw))

end Sys2Proof.Machine
end

