-- ==== Sys2Proof/Machine/Parapet.lean ====
section
/-!
DEFINITION. The Parapet: COUNT_MATCH, PARAPET_UPDATE with its hand-over, the application of handed-over updates, and
the PARAPET_SET commands (11 R237 to R243).
-/

namespace Sys2Proof.Machine

open Sys2Proof

/-! ### Banks -/

/-- A bank holds 4,096 entries (R237). -/
def bankRoom : Nat := 4096

def getParapet (s : State) (p : Nat) : ParapetState := NMap.getD s.parapets p ParapetState.reset

/-- The valid entries of a bank; a bank out of service is served from its shadow with the same results (R243). -/
def bankEntries (s : State) (p b : Nat) : List (List Byte) :=
  let y := getParapet s p
  if s.heal.banksOut.contains (p * 16 + b) then NMap.getD y.shadow b [] else NMap.getD y.entries b []

/-- A bank takes new contents, and so does its shadow. -/
def setBank (s : State) (p b : Nat) (es : List (List Byte)) : State :=
  let y := getParapet s p
  let y1 := { y with entries := NMap.set y.entries b es, shadow := NMap.set y.shadow b es }
  { s with parapets := NMap.set s.parapets p y1 }

def setBanks (k : ParaSet) : List Nat := (List.range (2 ^ k.bankLog2)).map (· + k.firstBank)

/-- The bank that a key is stored in (R239). -/
def keyBank (k : ParaSet) (key : Nat) : Nat := k.firstBank + key % 2 ^ k.bankLog2

/-- Key `u` of src0, as 16 bytes (R240). -/
def paraKey (wide : Bool) (bs : List Byte) (u : Nat) : List Byte :=
  if wide then slice bs (16 * u) 16 else slice bs (8 * u) 8 ++ zeros 8

def paraKeyBytes (o : List Byte) : Nat := if leAt o 25 1 = 0 then 16 else 8

/-! ### Install checks (R240) -/

def countMatchRule : OpRule :=
  { skip := [0, 1, 2], kinds := [kSrc, kNone, kNone, kDst], fmtIn := [0], fmtOut := [0x11, 0x12], lengths := []
    named := [(24, 25), (32, 47)]
    check := fun o => firstBad [(24, decide (63 < leAt o 24 1)), (25, decide (1 < leAt o 25 1))] }

def paraUpdateCheck (o : List Byte) : Option Nat :=
  let op := leAt o 26 1
  let dst := refKind (opRef o 3)
  firstBad [(24, decide (63 < leAt o 24 1)), (25, decide (1 < leAt o 25 1)), (26, op = 0 || decide (4 < op)),
    (20, op = 4 && decide (1 < opCount o)), (4, if op = 4 then refKind (opRef o 0) != 0 else refKind (opRef o 0) = 0),
    (3, if dst = 0 then opFmt o != 0 else opFmt o != 0x0C)]

def paraUpdateRule : OpRule :=
  { skip := [0], kinds := [[0, 1, 2, 3], kNone, kNone, [0, 1, 2]], fmtIn := [0], fmtOut := [0, 0x0C], lengths := []
    named := [(24, 26)], check := paraUpdateCheck }

/-! ### COUNT_MATCH -/

/-- The banks a masked search occupies, relative to the set's first (R239). -/
def searchBanks (b key mask : Nat) : List Nat :=
  (List.range (2 ^ b)).filter (fun n => (n ^^^ key) &&& mask % 2 ^ b == 0)

/-- The number of entries E of a set for which (E xor K) and M is zero (R239). -/
def paraCount (s : State) (k : ParaSet) (key mask : Nat) : Nat :=
  ((searchBanks k.bankLog2 key mask).map (fun n =>
    ((bankEntries s k.parapet (k.firstBank + n)).filter (fun e => (leNat e ^^^ key) &&& mask == 0)).length)).sum

/-- COUNT_MATCH (R239, R240, R236). -/
def countMatchOp (s : State) (x : Ctx) (i : OpIn) : OpRes :=
  let o := i.op
  let kb := paraKeyBytes o
  let mask := leAt o 32 16
  match NMap.find? x.sets (leAt o 24 1) with
  | none => { bad := true }
  | some k =>
    if !(i.src0.gone) && i.src0.bytes.length < i.count * kb then { bad := true }
    else
      let w := elemBytes (opFmt o)
      let kept := (List.range i.count).filter i.keep
      let find := fun u => paraCount s k (leNat (paraKey (kb == 16) i.src0.bytes u)) mask
      let out := if i.mode = 0 then kept.flatMap (fun u => natLE (find u) w)
        else (List.range i.count).flatMap (fun u => if i.keep u then natLE (find u) w else zeros w)
      let searches := kept.length * (searchBanks k.bankLog2 0 mask).length
      { out := out, cost := searches + i.src0.units + i.outUnits out.length, runs := i.runsOn,
        bumps := [(ctSearches, searches)] }

def execCountMatch (item : Nat) (s : State) : Host.Outcome State Fault Refusal :=
  finish (runOp s item 0x1C (fun s x _ i => countMatchOp s x i))

/-! ### PARAPET_UPDATE -/

def paraUnits (i : OpIn) (n : Nat) : Nat := i.src0.units + i.outUnits n

/-- The updates of an item in key order: the operation and the key of each (R240, R242). -/
def updatesOf (i : OpIn) : List (Nat × List Byte) :=
  let op := leAt i.op 26 1
  if op = 4 then [(4, zeros 16)]
  else ((List.range i.count).filter i.keep).map (fun u => (op, paraKey (paraKeyBytes i.op == 16) i.src0.bytes u))

/-- What an update item charges: 2 per key, or 2^bank_log2 for CLEAR (R236). -/
def paraCost (k : ParaSet) (us : List (Nat × List Byte)) (units : Nat) : Nat :=
  (us.map (fun u => if u.1 = 4 then 2 ^ k.bankLog2 else 2)).sum + units

def applyingOf (s : State) (p id : Nat) : Option (List (Nat × List Byte)) := NMap.find? (getParapet s p).applying id

def setApplying (s : State) (p id : Nat) (us : Option (List (Nat × List Byte))) : State :=
  let y := getParapet s p
  let q := match us with
    | some l => NMap.set y.applying id l
    | none => NMap.erase y.applying id
  { s with parapets := NMap.set s.parapets p { y with applying := q } }

/-- PARAPET_UPDATE: an item whose parity is clean hands its updates to the set's apply queue (R242). -/
def handOver (s : State) (id : Nat) (x : Ctx) (it : Item) (i : OpIn) : State :=
  match NMap.find? x.sets (leAt i.op 24 1) with
  | none => applyRes s id x it i.op { bad := true }
  | some k =>
    if (applyingOf s k.parapet id).isSome then s
    else if leAt i.op 26 1 != 4 && !(i.src0.gone) && i.src0.bytes.length < i.count * paraKeyBytes i.op then
      applyRes s id x it i.op { bad := true }
    else if it.waiting != 0 || (pierOf s id).elim false (fun p => (getPier s p).flagged) then s
    else
      let us := updatesOf i
      let cost := paraCost k us (paraUnits i us.length)
      if it.budget < it.charge + cost then modItem s id (fun it => { it with overBudget := true })
      else
        setApplying (modItem s id (fun it => { it with handed := true, charge := it.charge + cost })) k.parapet id (some us)

def execParapetUpdate (item : Nat) (s : State) : Host.Outcome State Fault Refusal :=
  match takeOp s item 0x1D with
  | .idle => ok s
  | .moved t => finish t
  | .go t x it i => finish (handOver t item x it i)

/-! ### PARAPET_APPLY -/

/-- Apply one update: the state after it, whether it took effect, and whether a full bank refused it (R241). -/
def applyOne (s : State) (k : ParaSet) (u : Nat × List Byte) : State × Bool × Bool :=
  if u.1 = 4 then ((setBanks k).foldl (fun s b => setBank s k.parapet b []) s, true, false)
  else
    let b := keyBank k (leNat u.2)
    let es := bankEntries s k.parapet b
    if u.1 = 3 then (if es.contains u.2 then (setBank s k.parapet b (es.erase u.2), true, false) else (s, false, false))
    else if u.1 = 2 && es.contains u.2 then (s, false, false)
    else if bankRoom ≤ es.length then (s, false, true)
    else (setBank s k.parapet b (es ++ [u.2]), true, false)

/-- Apply updates in key order: the state, the dst byte of each and how many met a full bank. -/
def applyAll (k : ParaSet) : List (Nat × List Byte) → State → State × List Byte × Nat
  | [], s => (s, [], 0)
  | u :: us, s =>
    let (s1, done, full) := applyOne s k u
    let (s2, out, n) := applyAll k us s1
    (s2, (if done then 1#8 else 0#8) :: out, n + (if full then 1 else 0))

/-- The item still has an update of the set to apply. -/
def updatesSet (s : State) (it : Item) (set : Nat) : Bool :=
  let img := itemImage s it
  it.st != .committed && (List.range (chainOps img)).any (fun k =>
    opCode (chainOp img k) == 0x1D && leAt (chainOp img k) 24 1 == set && decide (it.op ≤ k) &&
      opCount (chainOp img k) != 0)

/-- Every update item of lower sequence number in the flow has had its updates applied (R242). -/
def earlierApplied (s : State) (it : Item) (set : Nat) : Bool :=
  s.sched.items.all (fun p => p.2.flow != it.flow || p.2.ctx != it.ctx || p.2.seq == it.seq ||
    decide (2 ^ 31 ≤ (it.seq + 2 ^ 32 - p.2.seq) % 2 ^ 32) || !(updatesSet s p.2 set))

/-- PARAPET_APPLY: the Parapet applies a handed-over item's updates in sequence order, writes dst, and the item goes
on to its commit (R242). -/
def execParapetApply (item : Nat) (s : State) : Host.Outcome State Fault Refusal :=
  match getItem s item with
  | none => ok s
  | some it =>
    match itemCtx s it with
    | none => ok s
    | some x =>
      let o := itemOp s it
      match NMap.find? x.sets (leAt o 24 1) with
      | none => ok s
      | some k =>
        match applyingOf s k.parapet item with
        | none => ok s
        | some us =>
          if it.st != .running || opCode o != 0x1D || !(earlierApplied s it (leAt o 24 1)) || s.power.off then ok s
          else
            let (s1, out, full) := applyAll k us (setApplying s k.parapet item none)
            let s2 := writeDst s1 item x it o out []
            let s3 := bump s2 ctUpdates us.length
            let s4 := if full = 0 then s3 else event (bump s3 ctParaFull full) evSel 1
            let s5 := modItem s4 item (fun it => { it with
              counters := if full = 0 then it.counters else addCounters it.counters [(58, full)]
              runs := [], outRuns := if opOut o then [] else it.outRuns })
            finish (advance s5 item 0)

/-! ### PARAPET_SET -/

/-- The head's op byte, of the commands that share a code (15 R329). -/
def headOp (s : State) (c r code off : Nat) : Option Nat := (commandHead s c r code).map (fun h => leAt h.2.2 off 1)

/-- Bits of a command's field beyond the values it may hold, or a value outside them (15 R329, R8). -/
def paraSetBad (raw : List Byte) : Option Nat :=
  firstBad [(32, decide (63 < leAt raw 32 1)), (33, leAt raw 33 1 = 0 || decide (2 < leAt raw 33 1)),
    (34, decide (3 < leAt raw 34 1)), (35, decide (4 < leAt raw 35 1)),
    (36, decide (15 < leAt raw 36 1) || leAt raw 36 1 % 2 ^ leAt raw 35 1 != 0), (40, decide (2 ^ 20 ≤ leAt raw 40 4))]

/-- Another set of any context uses one of these banks (R238). -/
def banksTaken (s : State) (k : ParaSet) : Bool :=
  s.ctxs.any (fun c => c.2.sets.any (fun q => q.2.parapet == k.parapet && (setBanks q.2).any (fun b => (setBanks k).contains b)))

/-- PARAPET_SET CREATE: a new set starts empty (R238). -/
def execParapetSetCreate (ctx ring : Nat) (s : State) : Host.Outcome State Fault Refusal :=
  if headOp s ctx ring 0x12 33 = some 2 then ok s
  else finish (command s ctx ring 0x12 [(32, 36), (40, 43)] noArg (fun x raw _ =>
    match paraSetBad raw with
    | some k => completeHead s ctx ring raw 0x10 k
    | none =>
      let k : ParaSet := {
        parapet := leAt raw 34 1, bankLog2 := leAt raw 35 1, firstBank := leAt raw 36 1, flow := leAt raw 40 4,
        dying := false }
      if NMap.has x.sets (leAt raw 32 1) then completeHead s ctx ring raw 0x10 32
      else if banksTaken s k then completeHead s ctx ring raw 0x11 36
      else
        let s1 := (setBanks k).foldl (fun s b => setBank s k.parapet b []) s
        completeHead (modCtx s1 ctx (fun x => { x with sets := NMap.set x.sets (leAt raw 32 1) k })) ctx ring raw 0 0))

/-- A live item names a Parapet set (R238). -/
def setLive (s : State) (c set : Nat) : Bool :=
  s.sched.items.any (fun p => p.2.ctx == c && (List.range (chainOps (itemImage s p.2))).any (fun k =>
    let o := chainOp (itemImage s p.2) k
    (opCode o == 0x1C || opCode o == 0x1D) && leAt o 24 1 == set))

/-- The set of a context leaves its Parapet: its banks are cleared (R238). -/
def freeSet (s : State) (c set : Nat) : State :=
  match (NMap.find? s.ctxs c).bind (fun x => NMap.find? x.sets set) with
  | none => s
  | some k =>
    let s1 := (setBanks k).foldl (fun s b => setBank s k.parapet b []) s
    modCtx s1 c (fun x => { x with sets := NMap.erase x.sets set })

/-- PARAPET_SET DESTROY: completes once no live item names the set, and clears its banks (R238, R243). -/
def execParapetSetDestroy (ctx ring : Nat) (s : State) : Host.Outcome State Fault Refusal :=
  match runningDesc s ctx ring 0x12 (fun d => !(setLive s ctx (leAt d.raw 32 1))) with
  | some (i, d) => finish (completeDesc (freeSet s ctx (leAt d.raw 32 1)) ctx ring i 0 0)
  | none =>
    if headOp s ctx ring 0x12 33 != some 2 then ok s
    else finish (command s ctx ring 0x12 [(32, 36), (40, 43)] noArg (fun x raw _ =>
      match paraSetBad raw with
      | some k => completeHead s ctx ring raw 0x10 k
      | none =>
        match NMap.find? x.sets (leAt raw 32 1) with
        | none => completeHead s ctx ring raw 0x10 32
        | some k =>
          if k.dying then completeHead s ctx ring raw 0x10 32
          else startCommand (setCtx s ctx { x with sets := NMap.set x.sets (leAt raw 32 1) { k with dying := true } })
            ctx ring raw))

end Sys2Proof.Machine
end

