-- ==== Sys2Proof/Machine/Sha512.lean ====
section
/-!
DEFINITION. SHA-512 as FIPS 180-4 specifies it (13 R287), and HMAC-SHA-512 for the deterministic
nonce of RFC 6979 (20 R449).
-/

namespace Sys2Proof.Machine

open Sys2Proof

def sha512K0 : List W64 :=
  [0x428A2F98D728AE22#64, 0x7137449123EF65CD#64, 0xB5C0FBCFEC4D3B2F#64, 0xE9B5DBA58189DBBC#64,
   0x3956C25BF348B538#64, 0x59F111F1B605D019#64, 0x923F82A4AF194F9B#64, 0xAB1C5ED5DA6D8118#64,
   0xD807AA98A3030242#64, 0x12835B0145706FBE#64, 0x243185BE4EE4B28C#64, 0x550C7DC3D5FFB4E2#64,
   0x72BE5D74F27B896F#64, 0x80DEB1FE3B1696B1#64, 0x9BDC06A725C71235#64, 0xC19BF174CF692694#64,
   0xE49B69C19EF14AD2#64, 0xEFBE4786384F25E3#64, 0x0FC19DC68B8CD5B5#64, 0x240CA1CC77AC9C65#64]

def sha512K1 : List W64 :=
  [0x2DE92C6F592B0275#64, 0x4A7484AA6EA6E483#64, 0x5CB0A9DCBD41FBD4#64, 0x76F988DA831153B5#64,
   0x983E5152EE66DFAB#64, 0xA831C66D2DB43210#64, 0xB00327C898FB213F#64, 0xBF597FC7BEEF0EE4#64,
   0xC6E00BF33DA88FC2#64, 0xD5A79147930AA725#64, 0x06CA6351E003826F#64, 0x142929670A0E6E70#64,
   0x27B70A8546D22FFC#64, 0x2E1B21385C26C926#64, 0x4D2C6DFC5AC42AED#64, 0x53380D139D95B3DF#64,
   0x650A73548BAF63DE#64, 0x766A0ABB3C77B2A8#64, 0x81C2C92E47EDAEE6#64, 0x92722C851482353B#64]

def sha512K2 : List W64 :=
  [0xA2BFE8A14CF10364#64, 0xA81A664BBC423001#64, 0xC24B8B70D0F89791#64, 0xC76C51A30654BE30#64,
   0xD192E819D6EF5218#64, 0xD69906245565A910#64, 0xF40E35855771202A#64, 0x106AA07032BBD1B8#64,
   0x19A4C116B8D2D0C8#64, 0x1E376C085141AB53#64, 0x2748774CDF8EEB99#64, 0x34B0BCB5E19B48A8#64,
   0x391C0CB3C5C95A63#64, 0x4ED8AA4AE3418ACB#64, 0x5B9CCA4F7763E373#64, 0x682E6FF3D6B2B8A3#64,
   0x748F82EE5DEFB2FC#64, 0x78A5636F43172F60#64, 0x84C87814A1F0AB72#64, 0x8CC702081A6439EC#64]

def sha512K3 : List W64 :=
  [0x90BEFFFA23631E28#64, 0xA4506CEBDE82BDE9#64, 0xBEF9A3F7B2C67915#64, 0xC67178F2E372532B#64,
   0xCA273ECEEA26619C#64, 0xD186B8C721C0C207#64, 0xEADA7DD6CDE0EB1E#64, 0xF57D4F7FEE6ED178#64,
   0x06F067AA72176FBA#64, 0x0A637DC5A2C898A6#64, 0x113F9804BEF90DAE#64, 0x1B710B35131C471B#64,
   0x28DB77F523047D84#64, 0x32CAAB7B40C72493#64, 0x3C9EBE0A15C9BEBC#64, 0x431D67C49C100D4C#64,
   0x4CC5D4BECB3E42B6#64, 0x597F299CFC657E2A#64, 0x5FCB6FAB3AD6FAEC#64, 0x6C44198C4A475817#64]

/-- The 80 round constants of FIPS 180-4. -/
def sha512K : List W64 := sha512K0 ++ sha512K1 ++ sha512K2 ++ sha512K3

/-- The eight working variables. -/
structure ShaState where
  a : W64
  b : W64
  c : W64
  d : W64
  e : W64
  f : W64
  g : W64
  h : W64
  deriving DecidableEq, Repr

def sha512Init : ShaState :=
  ⟨0x6A09E667F3BCC908#64, 0xBB67AE8584CAA73B#64, 0x3C6EF372FE94F82B#64, 0xA54FF53A5F1D36F1#64, 0x510E527FADE682D1#64, 0x9B05688C2B3E6C1F#64, 0x1F83D9ABFB41BD6B#64, 0x5BE0CD19137E2179#64⟩

def shaBig0 (x : W64) : W64 := x.rotateRight 28 ^^^ x.rotateRight 34 ^^^ x.rotateRight 39
def shaBig1 (x : W64) : W64 := x.rotateRight 14 ^^^ x.rotateRight 18 ^^^ x.rotateRight 41
def shaSmall0 (x : W64) : W64 := x.rotateRight 1 ^^^ x.rotateRight 8 ^^^ (x >>> 7)
def shaSmall1 (x : W64) : W64 := x.rotateRight 19 ^^^ x.rotateRight 61 ^^^ (x >>> 6)

/-- One round with message word `w` and constant `k`. -/
def shaRound (s : ShaState) (w k : W64) : ShaState :=
  let ch := (s.e &&& s.f) ^^^ ((~~~ s.e) &&& s.g)
  let maj := (s.a &&& s.b) ^^^ (s.a &&& s.c) ^^^ (s.b &&& s.c)
  let t1 := s.h + shaBig1 s.e + ch + k + w
  let t2 := shaBig0 s.a + maj
  ⟨t1 + t2, s.a, s.b, s.c, s.d + t1, s.e, s.f, s.g⟩

/-- The next word of the message schedule from the window of the last sixteen. -/
def shaNextWord (win : List W64) : W64 :=
  shaSmall1 (win.getD 14 0) + win.getD 9 0 + shaSmall0 (win.getD 1 0) + win.getD 0 0

/-- The rounds of one block: each takes the front word of the window and slides the window on. -/
def shaRounds : List W64 → List W64 → ShaState → ShaState
  | [], _, s => s
  | k :: ks, win, s =>
    shaRounds ks (win.drop 1 ++ [shaNextWord win]) (shaRound s (win.headD 0) k)

/-- A number from big-endian bytes. -/
def beNat (bs : List Byte) : Nat := bs.foldl (fun a b => a * 256 + b.toNat) 0

/-- `n` as `w` big-endian bytes. -/
def natBE (n w : Nat) : List Byte := (natLE n w).reverse

def shaBlock (s : ShaState) (blk : List Byte) : ShaState :=
  let win := (chunksOf 8 blk).map (fun c => BitVec.ofNat 64 (beNat c))
  let r := shaRounds sha512K win s
  ⟨s.a + r.a, s.b + r.b, s.c + r.c, s.d + r.d, s.e + r.e, s.f + r.f, s.g + r.g, s.h + r.h⟩

/-- The message with its padding: 0x80, zeros, and the bit length as 16 big-endian bytes. -/
def shaPad (m : List Byte) : List Byte :=
  let body := m ++ [0x80#8]
  body ++ zeros ((128 - (body.length + 16) % 128) % 128) ++ natBE (8 * m.length) 16

/-- SHA-512, 64 bytes (R287). -/
def sha512 (m : List Byte) : List Byte :=
  let r := (chunksOf 128 (shaPad m)).foldl shaBlock sha512Init
  [r.a, r.b, r.c, r.d, r.e, r.f, r.g, r.h].flatMap (fun w => natBE w.toNat 8)

def xorByte (x : Byte) (bs : List Byte) : List Byte := bs.map (· ^^^ x)

/-- HMAC with SHA-512 (block of 128 bytes), for RFC 6979. -/
def hmacSha512 (key m : List Byte) : List Byte :=
  let k0 := if key.length > 128 then sha512 key else key
  let k := k0 ++ zeros (128 - k0.length)
  sha512 (xorByte 0x5C#8 k ++ sha512 (xorByte 0x36#8 k ++ m))

end Sys2Proof.Machine
end

