-- ==== Sys2Proof/Machine/Ecdsa.lean ====
section
/-!
DEFINITION. ECDSA over P-521 with SHA-512, as the boot ROM and Cyxia check firmware images and configuration
packages (20 R426, R434) and as the identity key signs attestation reports (20 R449, RFC 6979 nonce).
The curve's numbers are the published constants of NIST P-521.
-/

namespace Sys2Proof.Machine

open Sys2Proof

/-- The field prime of P-521, 2^521 - 1. -/
def p521P : Nat := 2 ^ 521 - 1

/-- The curve coefficient b of P-521. -/
def p521B : Nat := 0x0051953EB9618E1C9A1F929A21A0B68540EEA2DA725B99B315F3B8B489918EF109E156193951EC7E937B1652C0BD3BB1BF073573DF883D2C34F1EF451FD46B503F00

/-- The order of the base point of P-521. -/
def p521N : Nat := 0x1fffffffffffffffffffffffffffffffffffffffffffffffffffffffffffffffffa51868783bf2f966b7fcc0148f709a5d03bb5c9b8899c47aebb6fb71e91386409

def p521Gx : Nat := 0x00C6858E06B70404E9CD9E3ECB662395B4429C648139053FB521F828AF606B4D3DBAA14B5E77EFE75928FE1DC127A2FFA8DE3348B3C1856A429BF97E7E31C2E5BD66
def p521Gy : Nat := 0x011839296A789A3BC0045C8A5FB42C7D1BD998F54449579B446817AFBD17273E662C97EE72995EF42640C550B9013FAD0761353C7086A272C24088BE94769FD16650

/-- `x + y * b` style modular power by repeated squaring over the bits of the exponent, lowest first. -/
def powMod (m : Nat) : Nat → Nat → Nat → Nat
  | 0, _, _ => 1 % m
  | fuel + 1, b, e =>
    let r := powMod m fuel (b * b % m) (e / 2)
    if e % 2 = 1 then b * r % m else r

/-- The inverse of `a` modulo the prime `m` below 2^521. -/
def invMod (m a : Nat) : Nat := powMod m 521 (a % m) (m - 2)

/-- A point of the curve in projective form: `z = 0` is the point at infinity. -/
structure EcPoint where
  x : Nat
  y : Nat
  z : Nat
deriving DecidableEq, Repr

def ecInf : EcPoint := ⟨0, 1, 0⟩

def fsubP (a b : Nat) : Nat := (a + (p521P - b % p521P)) % p521P

/-- Doubling in Jacobian coordinates, `a = -3`. -/
def ecDouble (q : EcPoint) : EcPoint :=
  if q.z = 0 ∨ q.y = 0 then ecInf else
  let p := p521P
  let yy := q.y * q.y % p
  let s := 4 * q.x * yy % p
  let zz := q.z * q.z % p
  let m := 3 * (fsubP q.x zz) * (q.x + zz) % p
  let x3 := fsubP (m * m) (2 * s % p)
  let y3 := fsubP (m * fsubP s x3) (8 * yy * yy % p)
  ⟨x3, y3, 2 * q.y * q.z % p⟩

/-- Addition in Jacobian coordinates. -/
def ecAdd (a b : EcPoint) : EcPoint :=
  if a.z = 0 then b else if b.z = 0 then a else
  let p := p521P
  let za := a.z * a.z % p
  let zb := b.z * b.z % p
  let u1 := a.x * zb % p
  let u2 := b.x * za % p
  let s1 := a.y * (zb * b.z % p) % p
  let s2 := b.y * (za * a.z % p) % p
  if u1 = u2 then (if s1 = s2 then ecDouble a else ecInf) else
  let h := fsubP u2 u1
  let r := fsubP s2 s1
  let hh := h * h % p
  let hhh := hh * h % p
  let v := u1 * hh % p
  let x3 := fsubP (fsubP (r * r) hhh) (2 * v % p)
  let y3 := fsubP (r * fsubP v x3) (s1 * hhh % p)
  ⟨x3, y3, a.z * b.z % p * h % p⟩

/-- Scalar multiplication over the low `fuel` bits of `k`. -/
def ecMul : Nat → Nat → EcPoint → EcPoint
  | 0, _, _ => ecInf
  | fuel + 1, k, q =>
    let r := ecMul fuel (k / 2) (ecDouble q)
    if k % 2 = 1 then ecAdd q r else r

/-- The affine coordinates; the point at infinity gives none. -/
def ecAffine (q : EcPoint) : Option (Nat × Nat) :=
  if q.z = 0 then none else
  let zi := invMod p521P q.z
  let z2 := zi * zi % p521P
  some (q.x * z2 % p521P, q.y * (z2 * zi % p521P) % p521P)

def p521G : EcPoint := ⟨p521Gx, p521Gy, 1⟩

/-- `y^2 = x^3 - 3x + b` holds modulo p, with both coordinates in range. -/
def ecOnCurve (x y : Nat) : Bool :=
  decide (x < p521P) && decide (y < p521P) &&
  decide (y * y % p521P = (x * x * x + (p521P - 3) * x + p521B) % p521P)

/-- ECDSA verification over P-521 with SHA-512 (20 R426, R434). -/
def ecdsaVerify (x y : Nat) (msg : List Byte) (r s : Nat) : Bool :=
  if !(ecOnCurve x y) || r = 0 || s = 0 || decide (p521N ≤ r) || decide (p521N ≤ s) then false else
  let e := beNat (sha512 msg)
  let w := invMod p521N s
  let u1 := e * w % p521N
  let u2 := r * w % p521N
  match ecAffine (ecAdd (ecMul 521 u1 p521G) (ecMul 521 u2 ⟨x, y, 1⟩)) with
  | some (vx, _) => vx % p521N == r
  | none => false

/-- The nonce search of RFC 6979 with HMAC-SHA-512; `fuel` bounds the candidates tried. -/
def rfc6979Loop : Nat → List Byte → List Byte → Option Nat
  | 0, _, _ => none
  | fuel + 1, k, v =>
    let v1 := hmacSha512 k v
    let v2 := hmacSha512 k v1
    -- qlen = 521: the leftmost 521 bits of 1,024
    let t := beNat (v1 ++ v2) / 2 ^ 503
    if 1 ≤ t ∧ t < p521N then some t else
    let k' := hmacSha512 k (v2 ++ [0#8])
    rfc6979Loop fuel k' (hmacSha512 k' v2)

/-- The deterministic nonce for private key `d` and hash `h` (64 bytes). -/
def rfc6979 (d : Nat) (h : List Byte) : Option Nat :=
  let x := natBE d 66
  let h1 := natBE (beNat h % p521N) 66
  let v0 := List.replicate 64 1#8
  let k0 := List.replicate 64 0#8
  let k1 := hmacSha512 k0 (v0 ++ [0#8] ++ x ++ h1)
  let v1 := hmacSha512 k1 v0
  let k2 := hmacSha512 k1 (v1 ++ [1#8] ++ x ++ h1)
  rfc6979Loop 128 k2 (hmacSha512 k2 v1)

/-- The public key of private key `d`. -/
def ecPublic (d : Nat) : Nat × Nat := (ecAffine (ecMul 521 d p521G)).getD (0, 0)

/-- The RFC 6979 signature (r, s) of a message by private key `d` (20 R449). -/
def ecdsaSign (d : Nat) (msg : List Byte) : Nat × Nat :=
  let h := sha512 msg
  match rfc6979 d h with
  | none => (0, 0)
  | some k =>
    let r := (ecPublic k).1 % p521N
    (r, invMod p521N k * (beNat h + r * d) % p521N)

end Sys2Proof.Machine
end

