-- ==== Sys2Proof/Machine/Deck.lean ====
section
/-!
DEFINITION. Deck faults: reads of booked units, the patrol scrub, lost channels and stacks, displaced units and the
withdrawn part of the plain region (03 R37, R43; 17 R365 to R370, R382 to R386).
-/

namespace Sys2Proof.Machine

open Sys2Proof

/-- A fault goes into the trace of a context whose work it touched (18 R404). -/
def faultTrace (s : State) (c src object : Nat) : State := trace s c src 16 object 0

/-- The Deck blocks that a row-stage entry lies in. -/
def stageBlocks (s : State) (x : Ctx) (e : StageEntry) : List Nat := blocksOf (stageBase s x + e.off) e.bytes.length

/-- Row-stage entries that touch a lost block are dropped; a sample-cache entry shows it by its crc (17 R370, 06 R116,
09 R191). -/
def dropStaged (s : State) (p : Nat → Bool) : State :=
  { s with ctxs := s.ctxs.map (fun q => (q.1, { q.2 with
      stage := q.2.stage.filter (fun e => !((stageBlocks s q.2 e).any p)) })) }

/-- The good copy of a mirrored block is written back over the bad one (17 R369). -/
def fixMirror (s : State) (b : Nat) : State :=
  let bs := deckRead s (b * 64) 64
  let s1 := { s with deck := { s.deck with
    mem := memPut (deckDefault s) s.deck.mem (b * 64) bs, bad := s.deck.bad.filter (· != b)
    healed := if s.deck.unfilled.contains (channelOf (b * 64)) then s.deck.healed ++ [b] else s.deck.healed } }
  healLog (bump s1 ctMirrorFix 1) { kind := 5, unit := channelOf (b * 64), address := b * 64 }

/-- Recovery of a block of no pair of copies: its group is rebuilt, or the error is counted (17 R370). -/
def recoverPlain (s : State) : Option (Nat × Nat) → State
  | some (v, g) => startRebuild s v g none
  | none => bump s ctUnprotected 1

/-- Recovery of a block, its other copy being given where it has one. -/
def recoverFrom (s : State) (b : Nat) : Option Nat → State
  | some t => if badAt s t then s else fixMirror s b
  | none => if regionOf s (b * 64) = .copyPool then dropStaged s (· == b) else recoverPlain s (deckGroup s (b * 64))

/-- What an uncorrectable block leads to, by the region that holds it (17 R369, R370). -/
def recover (s : State) (b : Nat) : State := recoverFrom s b (twinOf s (b * 64))

/-- A read of one block finds errors in so many bytes: up to 3 are corrected in place, more are uncorrectable; a block found
uncorrectable before and not written since is so again, and so is one on a displaced unit not yet filled (17 R365, R383,
R386). -/
def blockRead (s : State) (b errBytes : Nat) : State :=
  let n := if badAt s (b * 64) then max errBytes 4 else errBytes
  if n = 0 then s
  else if n ≤ 3 then bump s ctDeckCorr 1
  else
    let s2 := countBad s b
    recover { s2 with deck := { s2.deck with bad := if s2.deck.bad.contains b then s2.deck.bad else s2.deck.bad ++ [b] } } b

/-- DECK_READ_DATA: once its booked pair has come, the next unit of a queue entry lands, `errBytes` errors standing in one of
its four blocks; complete entries at the head of the queue retire and make room for the fetch engine (03 R37, R43; 17 R365). -/
def execDeckReadData (pier entry block errBytes : Nat) (s : State) : Host.Outcome State Fault Refusal :=
  if 256 ≤ pier then .fault (.noSuchUnit pier)
  else
    let p := getPier s pier
    match p.queue[entry]? with
    | none => ok s
    | some e =>
      match e.units.find? (fun u => !u.landed), p.item with
      | some q, some id =>
        let u := q.unit
        if p.lost || !s.trestle.on || !running s || decide (s.trestle.slot < q.slot) then ok s
        else
          let s1 := (List.range 4).foldl (fun s k => blockRead s (u * 4 + k) (if k = block % 4 then errBytes else 0)) s
          let it := getItem s1 id
          let s2 := if 4 ≤ errBytes || (List.range 4).any (fun k => badAt s (u * 256 + k * 64)) then
              (match it with | some it => faultTrace s1 it.ctx pier id | none => s1) else s1
          let landing := (it.bind (itemCtx s2)).elim 0 (fun x => x.landing)
          let p2 := getPier s2 pier
          let p3 := formEntries s2 pier landing 64 { p2 with queue := retire (landUnit p2.queue entry u) }
          finish (setPier s2 pier p3)
      | _, _ => ok s

/-- The block that the scrubber of a channel reads next, as its position in the channel; a channel holds 2^26 blocks
(17 R366, 03 R45). -/
def scrubBlock (s : State) (ch : Nat) : Nat :=
  let k := NMap.getD s.deck.scrub ch 0
  let off := k / 4
  let u := ch ^^^ bitsAt off 0 9 ^^^ bitsAt off 9 9 ^^^ (bitsAt off 18 6 * 8)
  (off * 512 + u % 512) * 4 + k % 4

/-- PATROL_SCRUB: the next block of a channel is read; units not yet filled are skipped (17 R366, R386). -/
def execPatrolScrub (channel errBytes : Nat) (s : State) : Host.Outcome State Fault Refusal :=
  if 512 ≤ channel then .fault (.noSuchUnit channel)
  else if s.power.off || s.power.nap || s.deck.lost.contains channel || s.boot.phase < 3 then ok s
  else
    let b := scrubBlock s channel
    let s1 := { s with deck := { s.deck with
      scrub := NMap.set s.deck.scrub channel ((NMap.getD s.deck.scrub channel 0 + 1) % 2 ^ 26) } }
    if badAt s (b * 64) && s.deck.unfilled.contains channel then ok s1 else finish (blockRead s1 b errBytes)

/-! ### Lost channels -/

/-- A Deck extent has a unit on a channel. -/
def touchesChannel (a n ch : Nat) : Bool :=
  decide (n ≠ 0) && (decide (2 ^ 18 ≤ n) ||
    (List.range ((a + n - 1) / 256 - a / 256 + 1)).any (fun k => channelOf ((a / 256 + k) * 256) == ch))

def locTouches (s : State) (loc n ch : Nat) : Bool := loc / 2 ^ 62 == 0 && touchesChannel (gLocal (locAddr s loc)) n ch

/-- Migrations whose source or target lies on a lost channel are abandoned (09 R197, 17 R386). -/
def abandonOn (s : State) (ch : Nat) : State :=
  s.tables.migrations.foldl (fun s p =>
    match groupOf s p.2.ver p.2.group with
    | some (_, e) =>
      if decide (p.2.phase ≤ 3) && (locTouches s p.2.old e.size ch || locTouches s p.2.target e.size ch)
      then givePlaces (abandon s p.1) else s
    | none => s) s

/-- A channel stops working: its units are displaced and not yet filled, as are the units of earlier losses that lay
on it (17 R382, R383; where displaced units lie is private: log entry 10). -/
def loseChannel (s : State) (ch : Nat) : State :=
  if s.deck.lost.contains ch then s
  else
    let again := (s.deck.displaced.filter (fun p => p.2.contains ch)).map (·.1)
    let holders := (List.range 512).filter (fun c => c != ch && !(s.deck.lost.contains c))
    let un := (List.range 512).filter (fun c => c == ch || again.contains c || s.deck.unfilled.contains c)
    let s1 := { s with deck := { s.deck with
      lost := s.deck.lost ++ [ch], unfilled := un
      healed := s.deck.healed.filter (fun b => !(again.contains (channelOf (b * 64))) && channelOf (b * 64) != ch)
      displaced := (ch :: again).foldl (fun m c => NMap.set m c holders) s.deck.displaced } }
    abandonOn (healLog (event s1 evDeck 1) { kind := 3, unit := ch }) ch

/-- The cause holds (17 R382). -/
def channelCause (s : State) (ch : Nat) (cause : DeckCause) : Bool :=
  match cause with
  | .blocks => decide (16 ≤ ((NMap.getD s.deck.errTicks ch []).filter (fun t => decide (now s < t + 1048576))).length)
  | .phy => decide (2 ≤ NMap.getD s.deck.phyFails ch 0 + 1)
  | .bootTest => s.boot.phase == 2
  | .channels => false
  | .sensor => false

/-- CHANNEL_LOST: 16 uncorrectable blocks in 1,048,576 ticks, two PHY checks in a row that failed, or the memory test at
boot (17 R382).  A PHY check that fails comes as this command: the first one counts, the second loses the channel. -/
def execChannelLost (channel : Nat) (cause : DeckCause) (s : State) : Host.Outcome State Fault Refusal :=
  if 512 ≤ channel then .fault (.noSuchUnit channel)
  else if s.power.off then ok s
  else
    let s1 := if cause = .phy then
        { s with deck := { s.deck with phyFails := NMap.set s.deck.phyFails channel (NMap.getD s.deck.phyFails channel 0 + 1) } }
      else s
    if channelCause s channel cause then finish (loseChannel s1 channel) else ok s1

/-- Every channel of a stack is lost (17 R382). -/
def loseStack (s : State) (st : Nat) : State :=
  let s1 := healLog (event { s with deck := { s.deck with stacksOut := s.deck.stacksOut ++ [st] } } evDeck 2)
    { kind := 4, unit := st }
  (List.range 32).foldl (fun s k => loseChannel s (st * 32 + k)) s1

/-- STACK_LOST: 8 of its channels are lost, or its PHY or temperature sensor fails (17 R382). -/
def execStackLost (stack : Nat) (cause : DeckCause) (s : State) : Host.Outcome State Fault Refusal :=
  if 16 ≤ stack then .fault (.noSuchUnit stack)
  else
    let due := match cause with
      | .channels => decide (8 ≤ (s.deck.lost.filter (fun c => c / 32 == stack)).length)
      | .phy => true
      | .sensor => true
      | _ => false
    if s.power.off || s.deck.stacksOut.contains stack || !due then ok s else finish (loseStack s stack)

/-- The Deck groups of versions in use with a unit on a channel. -/
def groupsOn (s : State) (ch : Nat) : List (Nat × Nat) :=
  (s.tables.versions.filter (fun p => !p.2.retired)).flatMap (fun p =>
    let t := tdesc s p.2.desc
    ((List.range t.groups).filter (fun g =>
      let e := dentry s t g
      e.state != gLost && locTouches s e.loc e.size ch)).map (fun g => (p.1, g)))

/-- The displaced blocks of a filled channel that nothing has written: a mirrored block takes its partner's bytes; what has
no second source reads as zero (17 R370, R383). -/
def fillChannel (s : State) (ch : Nat) : State :=
  let s := dropStaged s (fun b => channelOf (b * 64) == ch && !(s.deck.healed.contains b))
  let cells := (s.deck.mem.filter (fun c => channelOf c.1 == ch && decide (c.1 < reserveBase) &&
    !(s.deck.healed.contains (c.1 / 64)))).map (·.1)
  let mem := cells.foldl (fun m a => memSet (deckDefault s) m a (deckByteAt s a)) s.deck.mem
  { s with deck := { s.deck with
    mem := mem
    bad := s.deck.bad.filter (fun b => channelOf (b * 64) != ch || s.deck.healed.contains b)
    unfilled := s.deck.unfilled.filter (· != ch)
    healed := s.deck.healed.filter (fun b => channelOf (b * 64) != ch) } }

/-- DISPLACED_FILL: in ascending channel order, the displaced units of a channel are filled from the partner and by
rebuilds of the row groups on them; the channel is filled once those rebuilds have ended (17 R383, R386). -/
def execDisplacedFill (channel : Nat) (s : State) : Host.Outcome State Fault Refusal :=
  if 512 ≤ channel then .fault (.noSuchUnit channel)
  else if s.deck.unfilled.head? != some channel || s.power.off then ok s
  else
    let gs := groupsOn s channel
    let todo := gs.filter (fun p => match groupOf s p.1 p.2 with
      | some (_, e) => e.state != gRebuilding && !(
          (blocksOf (gLocal (locAddr s e.loc)) e.size).all (fun b =>
            channelOf (b * 64) != channel || s.deck.healed.contains b))
      | none => false)
    let busy := gs.any (fun p => match groupOf s p.1 p.2 with
      | some (_, e) => e.state == gRebuilding
      | none => false)
    if !todo.isEmpty then finish (todo.foldl (fun s p => startRebuild s p.1 p.2 none) s)
    else if busy then ok s
    else finish (fillChannel s channel)

/-- The spill target of the base configuration: a location and its size in bytes (18 R398, 20 R435). -/
def spillTarget (s : State) : Nat × Nat := (leAt (cfgSection s 1) 20 8, leAt (cfgSection s 1) 28 4 * gib)

/-- A free place of the spill target, taken in ascending order. -/
def takeSpill (s : State) (n : Nat) : Option (Nat × State) :=
  let (loc, size) := spillTarget s
  let a := s.heal.spillUsed
  if a + roundUp n 4096 ≤ size then
    some (loc + a, { s with heal := { s.heal with spillUsed := a + roundUp n 4096 } })
  else none

/-- The groups that stand in the plain space between two bounds: table version, group, size. -/
def groupsBetween (s : State) (lo hi : Nat) : List (Nat × Nat × Nat) :=
  (s.tables.versions.filter (fun p => !p.2.retired)).flatMap (fun p =>
    let t := tdesc s p.2.desc
    ((List.range t.groups).filter (fun g =>
      let e := dentry s t g
      let a := gLocal (locAddr s e.loc)
      inDeckTier e && e.state != gLost && decide (a < hi) && decide (lo < a + e.size))).map
        (fun g => (p.1, g, (dentry s t g).size)))

/-- One of them is rebuilt in the spill place that was found for it. -/
def spillGroup (v g : Nat) (s : State) : Option (Nat × State) → State
  | some (loc, s2) => startRebuild s2 v g (some loc)
  | none => s

/-- PLAIN_WITHDRAW: above 32 lost channels the plain region shrinks by 4k − 128 GB, and the groups of the withdrawn
part are rebuilt into the spill target as TAIL groups (17 R384, 18 R398). -/
def execPlainWithdraw (s : State) : Host.Outcome State Fault Refusal :=
  let want := 4 * s.deck.lost.length - 128
  if want ≤ s.deck.withdrawn || s.power.off then ok s
  else
    let c := (deckMap s).2.2
    let s1 := healLog (event { s with deck := { s.deck with withdrawn := want } } evDeck 3) { kind := 0x11, detail := want }
    finish ((groupsBetween s (reserveBase - want * gib - c) (reserveBase - s.deck.withdrawn * gib - c)).foldl
      (fun s p => spillGroup p.1 p.2.1 s (takeSpill s p.2.2)) s1)

end Sys2Proof.Machine
end

