-- ==== Sys2Proof/Machine/Nvme.lean ====
section
/-!
DEFINITION. NVMe controllers (17 R374 to R379): completions, inbound requests, timeouts, resets and loss.  The layout of
a completion entry is the NVM Express base specification's: command identifier in bytes 13:12, phase in bit 0 and status
in bits 15:1 of bytes 15:14, submission-queue head and identifier in bytes 9:8 and 11:10 (PRESUMED, log entry 11).
-/

namespace Sys2Proof.Machine

open Sys2Proof

def getCtl (s : State) (k : Nat) : NvmeCtl := NMap.getD s.nvme k NvmeCtl.fresh

def setCtl (s : State) (k : Nat) (c : NvmeCtl) : State := { s with nvme := NMap.set s.nvme k c }

/-- An arrival from a controller that is dropped (17 R377). -/
def nvmeBad (s : State) : State := bump s ctNvmeBad 1

/-- A port and controller that the module can have (17 R374). -/
def nvmeUnit (port ctrl : Nat) : Bool := decide (port < 2) && decide (ctrl < 16)

/-- The data that a Read brought: bytes that the controller never wrote are open (log entry 3). -/
def readData (s : State) (c : NvmeCtl) (cid len : Nat) : List Byte :=
  let got := NMap.getD c.landing cid []
  got.take len ++ (List.range (len - got.length)).map (fun k => BitVec.ofNat 8 (Config.freeValue (s.free + k)))

/-- NVME_COMPLETION: the engine's poll finds a new entry; it is checked and completes its command, or is dropped
(17 R376, R377; 18 R400). -/
def execNvmeCompletion (port ctrl queue : Nat) (entry : List Byte) (s : State) : Host.Outcome State Fault Refusal :=
  if !(nvmeUnit port ctrl) then .fault (.noSuchUnit (port * 16 + ctrl))
  else
    let k := nvmeKey port ctrl
    let c := getCtl s k
    let w := leAt entry 14 2
    if c.life != .ready || queue != 1 || entry.length != 16 || bitAt w 0 != c.phase || s.power.off then ok s
    else
      let head := (c.cqHead + 1) % 1024
      let c1 := { c with cqHead := head, phase := if head = 0 then !c.phase else c.phase }
      let s1 := setCtl s k c1
      let cid := leAt entry 12 2
      match NMap.find? c.cmds cid with
      | none => ok (nvmeBad s1)
      | some i =>
        if leAt entry 10 2 != 1 || decide (1024 ≤ leAt entry 8 2) then ok (nvmeBad s1)
        else
          let s2 := setCtl s1 k { c1 with cmds := NMap.erase c1.cmds cid, landing := NMap.erase c1.landing cid }
          match NMap.find? s.kid.accs i with
          | none => ok s2
          | some a =>
            if w / 2 != 0 then finish (accDone s2 i 4 [])
            else if a.write then finish (accDone s2 i 0 [])
            else
              let d := readData s2 c cid a.len
              finish (accDone { s2 with free := s2.free + (a.len - (NMap.getD c.landing cid []).length) } i 0 d)

/-- Where the engine placed a command's PRP list and data in a controller's address space, and its queues: the
submission queue from 0, the completion queue from 65,536, and 2 MiB per command from 2^32 (log entry 11). -/
def dataBase (cid : Nat) : Nat := 2 ^ 32 + cid * 2 ^ 21

/-- What an inbound request names. -/
inductive Inbound where
  | sq | cqNext | prp | data (cid off : Nat) | other
deriving DecidableEq, Repr

def classify (c : NvmeCtl) (write : Bool) (addr len : Nat) : Inbound :=
  if addr + len ≤ 65536 then .sq
  else if addr = 65536 + c.cqHead * 16 && len = 16 && write then .cqNext
  else if addr < 2 ^ 32 then .other
  else
    let cid := (addr - 2 ^ 32) / 2 ^ 21
    let off := (addr - 2 ^ 32) % 2 ^ 21
    if off + len ≤ 2 ^ 20 then .data cid off else if 2 ^ 20 ≤ off && off + len ≤ 2 ^ 21 then .prp else .other

/-- NVME_INBOUND_REQUEST: admitted only for the controller's own submission entries, its next completion slot, and the
PRP list or data of an outstanding command (17 R377). -/
def execNvmeInboundRequest (port ctrl : Nat) (write : Bool) (addr len : Nat) (data : List Byte) (s : State) :
    Host.Outcome State Fault Refusal :=
  if !(nvmeUnit port ctrl) then .fault (.noSuchUnit (port * 16 + ctrl))
  else
    let k := nvmeKey port ctrl
    let c := getCtl s k
    let outstanding := fun (cid : Nat) (w : Bool) =>
      match (NMap.find? c.cmds cid).bind (fun i => NMap.find? s.kid.accs i) with
      | some a => a.write == w
      | none => false
    if s.power.off || s.power.nap then ok s
    else match classify c write addr len with
    | .sq => if write then ok (nvmeBad s) else ok s
    | .cqNext => ok s
    | .prp =>
      if !write && outstanding ((addr - 2 ^ 32) / 2 ^ 21) true then ok s else ok (nvmeBad s)
    | .data cid off =>
      if write then
        (if outstanding cid false && data.length = len &&
            off + len ≤ ((NMap.find? c.cmds cid).bind (fun i => NMap.find? s.kid.accs i)).elim 0 (·.len) then
          let old := NMap.getD c.landing cid []
          let new := slice old 0 off ++ data ++ old.drop (off + len)
          ok (setCtl s k { c with landing := NMap.set c.landing cid new })
        else ok (nvmeBad s))
      else if outstanding cid true then ok s else ok (nvmeBad s)
    | .other => ok (nvmeBad s)

/-- NVME_COMMAND_TIMEOUT: a command without a successful completion within the outside timeout (17 R378). -/
def execNvmeCommandTimeout (acc : Nat) (s : State) : Host.Outcome State Fault Refusal :=
  match NMap.find? s.kid.accs acc with
  | none => ok s
  | some a =>
    match List.find? (fun p => p.2.cmds.any (fun q => q.2 == acc)) s.nvme with
    | none => ok s
    | some (k, c) =>
      if a.first + accTimeout s a ≤ now s && c.life = .ready then
        let s1 := bump (modAcc s acc (fun a => { a with first := now s })) ctNvmeTimeout 1
        ok (setCtl s1 k { c with timeouts := c.timeouts + 1 })
      else ok s

/-- NVME_CONTROLLER_RESET: after two such commands the engine resets the controller (17 R378). -/
def execNvmeControllerReset (port ctrl : Nat) (s : State) : Host.Outcome State Fault Refusal :=
  if !(nvmeUnit port ctrl) then .fault (.noSuchUnit (port * 16 + ctrl))
  else
    let k := nvmeKey port ctrl
    let c := getCtl s k
    if c.life = .ready && decide (2 ≤ c.timeouts) then
      ok (event (setCtl s k { c with life := .resetting (now s), landing := [] }) evDeck 4)
    else ok s

/-- NVME_CONTROLLER_READY: the queues are recreated and the outstanding commands go out again (17 R378). -/
def execNvmeControllerReady (port ctrl : Nat) (s : State) : Host.Outcome State Fault Refusal :=
  if !(nvmeUnit port ctrl) then .fault (.noSuchUnit (port * 16 + ctrl))
  else
    let k := nvmeKey port ctrl
    let c := getCtl s k
    match c.life with
    | .resetting since =>
      if now s < since + 16777216 then
        ok (setCtl s k { c with life := .ready, timeouts := 0, landing := [], cqHead := 0, phase := true,
                                sqTail := c.cmds.length % 1024 })
      else ok s
    | _ => ok s

/-- NVME_LOST: a controller that is not ready within 2^24 ticks of a reset is lost; its accesses are uncorrectable
(17 R378, 18 R400). -/
def execNvmeLost (port ctrl : Nat) (s : State) : Host.Outcome State Fault Refusal :=
  if !(nvmeUnit port ctrl) then .fault (.noSuchUnit (port * 16 + ctrl))
  else
    let k := nvmeKey port ctrl
    let c := getCtl s k
    match c.life with
    | .resetting since =>
      if since + 16777216 ≤ now s then
        let s1 := healLog (event (setCtl s k { c with life := .lost, cmds := [], landing := [] }) evDeck 5)
          { kind := 0x0F, unit := k }
        finish (c.cmds.foldl (fun s p => accDone s p.2 4 []) s1)
      else ok s
    | _ => ok s

end Sys2Proof.Machine
end

