-- ==== Sys2Proof/Machine/Blocks.lean ====
section
/-!
DEFINITION. The blocks of a stream: how they lie over its tensors (12 R267), and when one may be dispatched
(12 R268, R270, R272).
-/

namespace Sys2Proof.Machine

open Sys2Proof

/-! ### Layout -/

/-- The tensors of a stream, BYTE tensors as bytes (12 R253, R266). -/
def streamView (x : Ctx) (d : List Byte) (off : Nat) : Option TView :=
  (NMap.find? x.tensors (leAt d off 3)).map (fun t =>
    { t.view with fmt := if t.fmt = 0 then fUint8 else t.fmt })

/-- Elements of an inner region, and inner regions (12 R267). -/
def streamInner (dst : TView) (d : List Byte) : Nat := (dst.dims.take (leAt d 14 1)).foldl (· * ·) 1
def streamOuter (dst : TView) (d : List Byte) : Nat := (dst.dims.drop (leAt d 14 1)).foldl (· * ·) 1

/-- Blocks of an inner region: none when block_len is zero (12 R267, R274). -/
def streamSplit (dst : TView) (d : List Byte) : Nat := ceilDiv (streamInner dst d) (leAt d 16 4)

/-- The blocks N of a stream (12 R267). -/
def streamBlocks (dst : TView) (d : List Byte) : Nat := streamOuter dst d * streamSplit dst d

/-- The first element of block `b` in dst's index order, and how many it covers (12 R267). -/
def blockRange (dst : TView) (d : List Byte) (b : Nat) : Nat × Nat :=
  let q := streamSplit dst d
  let off := b % q * leAt d 16 4
  (b / q * streamInner dst d + off, min (leAt d 16 4) (streamInner dst d - off))

/-- The indices of outer region `r`, dimension j first (12 R263, R267). -/
def outerIndices : Nat → List Nat → List Nat
  | _, [] => []
  | r, d :: ds => r % d :: outerIndices (r / d) ds

/-! ### Dispatch -/

/-- Blocks that may be dispatched but not delivered; 0 selects 8 (12 R266). -/
def streamFlight (d : List Byte) : Nat := if leAt d 20 1 = 0 then 8 else leAt d 20 1

/-- Items and running stream items of a context, which its live-item quota counts (04 R68, 12 R268). -/
def liveCount (s : State) (c : Nat) (x : Ctx) : Nat :=
  (s.sched.items.filter (fun p => p.2.ctx == c && p.2.flow.isSome)).length +
  x.streams.foldl (fun a t => a + (t.2.blocks.filter (fun b => !b.done)).length) 0

/-- The next block to dispatch: one whose run was stopped, else the next in ascending order that in_flight and the credit
allow (12 R268, R273). -/
def streamNext (s : State) (c : Nat) (x : Ctx) (t : Stream) : Option Nat :=
  if !(streamGoes x t) || x.st != .active || !x.resident || x.draining || x.closing then none
  else match List.find? (fun (b : Block) => b.pier == 256 && !b.done) t.blocks with
    | some b => some b.index
    | none => match streamView x t.desc 4 with
      | none => none
      | some v =>
        if decide (t.next < streamBlocks v t.desc) && decide (t.next < t.delivered + streamFlight t.desc) &&
           (leAt t.desc 32 8 == 0 || decide (t.next + 1 ≤ t.credit + leAt t.desc 24 4)) &&
           t.blocks.all (fun b => b.fault.isEmpty) && decide (liveCount s c x < x.quota) then some t.next
        else none

/-- A stream of a higher priority has a block to dispatch (04 R58, 12 R268). -/
def streamOutranks (s : State) (prio : Nat) : Bool :=
  s.ctxs.any (fun p => p.2.streams.any (fun t => decide (prio < leAt t.2.desc 15 1) && (streamNext s p.1 p.2 t.2).isSome))

/-- A Pier carries a stream's block. -/
def carriesBlock (s : State) (pier : Nat) : Bool :=
  s.ctxs.any (fun c => c.2.streams.any (fun t => t.2.blocks.any (fun b => b.pier == pier && !b.done)))

end Sys2Proof.Machine
end

