-- ==== Sys2Proof/Machine/Trestle.lean ====
section
/-!
DEFINITION. The commands of the Trestle: slot-table switches, the light path, the relay chain and refresh (03 R42 to R48,
R51; 17 R364).
-/

namespace Sys2Proof.Machine

open Sys2Proof

/-- SLOT_TABLE_SWITCH: the named table comes into force at the first boundary at or after its count, and reads booked for
later slots follow it (03 R42).  DESIGN CHOICE (log entry 157): the cycle of the new table starts at the slot of the switch. -/
def execSlotTableSwitch (s : State) : Host.Outcome State Fault Refusal :=
  match s.trestle.nextTable with
  | none => ok s
  | some (t, k) =>
    if s.trestle.on && decide (k ≤ s.clock.count) && atBoundary s then
      ok (rebookAll { s with trestle := { s.trestle with table := t, nextTable := none, cycleBase := s.trestle.slot } })
    else ok s

/-- LIGHT_MESSAGE: in a light pair, an endpoint sends the head message for the endpoint that the rotation names, once
(03 R47).  Piers alone have messages of their own here (log entry 158), and the pair is numbered by the slot counter (log entry
159). -/
def execLightMessage (src : Nat) (s : State) : Host.Outcome State Fault Refusal :=
  if 272 ≤ src then .fault (.noSuchUnit src)
  else
    let p := getPier s src
    let dst := lightDest src (s.trestle.slot / 16)
    match NMap.getD p.light dst [] with
    | [] => ok s
    | i :: q =>
      if s.trestle.on && s.trestle.slot % 16 == 14 && endpointUp s src && endpointUp s dst && p.lightAt != some (now s) then
        let w := NMap.getD p.lightWait dst []
        finish (launch (setPier s src { p with
          light := NMap.set p.light dst (q ++ w.take 1), lightWait := NMap.set p.lightWait dst (w.drop 1)
          lightAt := some (now s) }) i)
      else ok s

/-- RELAY_SEND: a block of up to 2 MiB goes to the same scratch offset of every other Pier (03 R48, R51). -/
def execRelaySend (pier off len : Nat) (s : State) : Host.Outcome State Fault Refusal :=
  if 256 ≤ pier then .fault (.noSuchUnit pier)
  else if s.trestle.on && !(getPier s pier).lost && decide (off + len ≤ scratchSize) then
    let block := memTake zeroByte s.deck.pierMem (pier * scratchSize + off) len
    let targets := (List.range 256).filter (fun p => p != pier && !(getPier s p).lost)
    let m := targets.foldl (fun m p => memPut zeroByte m (p * scratchSize + off) block) s.deck.pierMem
    ok { s with deck := { s.deck with pierMem := m } }
  else ok s

/-- REFRESH: a controller refreshes its channel in time that no booked pair uses (17 R364). -/
def execRefresh (channel : Nat) (s : State) : Host.Outcome State Fault Refusal :=
  if 512 ≤ channel then .fault (.noSuchUnit channel)
  else if s.deck.lost.contains channel || s.power.nap || s.power.off then ok s
  else ok { s with deck := { s.deck with refreshed := NMap.set s.deck.refreshed channel s.clock.ticks } }

end Sys2Proof.Machine
end

