-- ==== Sys2Proof/Machine/Sched.lean ====
section
/-!
DEFINITION. The scheduler: dispatch, budgets, timeouts, gates and time-slicing (04 R53 to R75), and the operators
SIGNAL and WAIT (05 R92 to R94).
-/

namespace Sys2Proof.Machine

open Sys2Proof

/-! ### Dispatch -/

/-- Item `a` is dispatched before item `b`: a higher priority, then an earlier arrival (04 R58). -/
def before (a b : Nat × Item) : Bool :=
  if a.2.prio = b.2.prio then (if a.2.arrival = b.2.arrival then decide (a.1 < b.1) else decide (a.2.arrival < b.2.arrival))
  else decide (b.2.prio < a.2.prio)

def bestOf : List (Nat × Item) → Option (Nat × Item)
  | [] => none
  | a :: as => match bestOf as with
    | none => some a
    | some b => if before b a then some b else some a

/-- The head of the highest non-empty ready queue. -/
def readyHead (s : State) : Option (Nat × Item) :=
  bestOf (s.sched.items.filter (fun p => p.2.st == .ready && otherConds s p.2))

/-- A Pier in service that carries no item and no stream block. -/
def pierFree (s : State) (p : Nat) : Bool :=
  decide (p < 256) && !(getPier s p).lost && (getPier s p).item.isNone && !(carriesBlock s p)

/-- A Pier suits a run that has failed on the Piers named: it is none of them, or they are all that is free (18 R391). -/
def pierSuits (s : State) (failed : List Nat) (p : Nat) : Bool :=
  !(failed.contains p) || (List.range 256).all (fun q => !(pierFree s q) || failed.contains q)

/-- What a run starts from: no operator has run, no buffer holds anything (04 R53, 05 R83); `signals` are still to be
acknowledged. -/
def startRun (signals : Nat) (it : Item) : Item :=
  { it with st := .running, op := 0, charge := 0, bufs := [], accum := [], runs := [], outRuns := [], counters := [],
            quarantined := 0, lateRecords := [], recordOver := none, overBudget := false, landed := [], asked := [],
            waiting := signals, waitSince := none, fault := [], handed := false, delivered := 0, pool := [],
            answers := [], records := [], cacheFill := [], logs := [], lookups := [] }

/-- SIGNALs of earlier runs of an item that are not acknowledged yet: its next ones wait for them too (05 R93). -/
def openSignals (s : State) (id : Nat) : Nat :=
  (s.kid.accs.filter (fun p => match p.2.owner with | .signal i _ => i == id | _ => false)).length

/-- At the dispatch of a descriptor's first item, the versions that its table sets are pinned at go into its result digest
(13 R291). -/
def noteRoots (s : State) (it : Item) : State :=
  match getDesc s it.ctx it.ring it.idx, itemCtx s it with
  | some d, some x =>
    if !(bitAt (leAt d.raw 1 1) 0) || !d.roots.isEmpty then s
    else
      let img := itemImage s it
      let sets := ((List.range (chainOps img)).filter (fun k => isTableOperand (chainOp img k) 1)).filterMap (fun k =>
        handleBase s x (refIndex (opRef (chainOp img k) 1)))
      let bytes := sets.flatMap (fun b => (List.range 256).flatMap (fun t => match pinnedVer s d.pins b t with
        | some (_, v) =>
          natLE t 1 ++ natLE v.version 8 ++ deckRead s (v.desc + 56) 8 ++ deckRead s (v.desc + 128) 32
        | none => []))
      modDesc s it.ctx it.ring it.idx (fun d => { d with roots := bytes })
  | _, _ => s

/-- The dispatch of a ROW_APPLY item is noted with its queue (10 R220 step 1). -/
def noteApply (s : State) (it : Item) : State :=
  match rowApplyOp (itemImage s it) with
  | none => s
  | some o => modCtx s it.ctx (fun x => { x with
      queues := NMap.modify x.queues (leAt o 24 2) (fun m => { m with started := max m.started (leAt o 28 4 + 1) }) })

/-- DISPATCH: the head of the highest non-empty ready queue goes to a free Pier (04 R58). -/
def execDispatch (pier : Nat) (s : State) : Host.Outcome State Fault Refusal :=
  if 256 ≤ pier then .fault (.noSuchUnit pier)
  else
    match readyHead s with
    | none => ok s
    | some (id, it) =>
      if running s && pierFree s pier && pierSuits s it.failedPiers pier && !(streamOutranks s it.prio) then
        let s1 := modItem (freeHeld s (· == .itemPut id)) id (startRun (openSignals s id))
        let s2 := setPier s1 pier { getPier s1 pier with item := some id, queue := [], unbooked := [], flagged := false }
        finish (trace (fetchFrom (noteApply (noteRoots s2 it) it) id 0) it.ctx srcScheduler 5 id 0)
      else ok s

/-! ### Gates and cells -/

/-- LAUNCH_GATE_OPEN: a KEYSTONE_GE gate opens on the first tick at which the count reaches L (02 R26). -/
def execLaunchGateOpen (item : Nat) (s : State) : Host.Outcome State Fault Refusal :=
  match getItem s item with
  | none => ok s
  | some it =>
    let o := chainOp (itemImage s it) 0
    if it.st = .pending ∧ opCode o = 0x49 ∧ leAt o 24 1 = 1 ∧ leAt o 32 8 ≤ s.clock.count ∧ !it.gate then
      finish (trace (modItem s item (fun it => { it with gate := true })) it.ctx srcScheduler 10 item 0)
    else ok s

/-- CELL_WAIT_RELEASE: a CELL_GE wait whose cell reached its threshold lets its item go on (05 R94). -/
def execCellWaitRelease (item : Nat) (s : State) : Host.Outcome State Fault Refusal :=
  match getItem s item with
  | none => ok s
  | some it =>
    if !it.hit then ok s
    else if it.st = .pending then
      finish (modItem s item (fun it => { it with gate := true, hit := false }))
    else if it.st = .running ∧ opCode (itemOp s it) = 0x49 then
      finish (advance (modItem s item (fun it => { it with hit := false, waitSince := none })) item 8)
    else ok s

/-- WAIT: a no-op charges 4, any other 8.  A held condition lets the chain go on; in mid-chain a CELL_GE compares once when
the Pier reaches it, and then holds the Pier (05 R85, R94). -/
def execWait (item : Nat) (s : State) : Host.Outcome State Fault Refusal :=
  match getItem s item with
  | none => ok s
  | some it =>
    if !(opEnabled s it 0x49) then ok s
    else
      let o := itemOp s it
      if it.budget < it.charge + (if opCount o = 0 then 4 else 8) then
        finish (modItem s item (fun it => { it with overBudget := true }))
      else if opCount o = 0 then finish (advance s item 4)
      else if it.op = 0 then finish (advance s item 8)
      else if leAt o 24 1 = 2 && it.waitSince.isNone && decide (leAt o 32 8 ≤ cellValue s (leAt o 40 8)) then
        finish (advance s item 8)
      else if leAt o 24 1 = 1 && decide (leAt o 32 8 ≤ s.clock.count) then finish (advance s item 8)
      else if it.waitSince.isNone then ok (modItem s item (fun it => { it with waitSince := some (now s) }))
      else ok s

/-- SIGNAL: once every earlier write of the item is acknowledged, the cell changes, exactly once per item
(05 R93, 18 R390). -/
def execSignal (item : Nat) (s : State) : Host.Outcome State Fault Refusal :=
  match getItem s item with
  | none => ok s
  | some it =>
    if !(opEnabled s it 0x48) || it.waiting != 0 then ok s
    else
      let o := itemOp s it
      let cost := if opCount o = 0 then 4 else 16
      if it.budget < it.charge + cost then finish (modItem s item (fun it => { it with overBudget := true }))
      else if opCount o = 0 || it.signals.contains it.op then finish (advance s item cost)
      else if (pierOf s item).elim false (fun p => (getPier s p).flagged) then ok s
      else
        let s1 := modItem s item (fun it => { it with
          signals := it.signals ++ [it.op]
          waiting := if isDeck s (leAt o 40 8) then it.waiting else it.waiting + 1 })
        finish (advance (signalNow s1 (.signal item it.op) it.ctx o) item cost)

/-! ### Budgets and timeouts -/

/-- ITEM_BUDGET_SKIP: an item whose next step would pass its budget is stopped and commits as a skip (04 R64). -/
def execItemBudgetSkip (item : Nat) (s : State) : Host.Outcome State Fault Refusal :=
  match getItem s item with
  | none => ok s
  | some it => if it.st = .running ∧ it.overBudget then finish (skipItem s item .own) else ok s

/-- The accesses of an item, whose answers are discarded once it gives up (04 R67). -/
def isItemAcc (id : Nat) (o : Owner) : Bool :=
  match o with
  | .item i | .row i | .itemPut i | .itemMerge i => i == id
  | .itemAtomic i _ => i == id
  | _ => false

/-- What the item waits for lies outside the device, and the outside timeout has passed: since a condition that the scheduler
or a WAIT in mid-chain holds began, or since an access was made that has no answer yet.  An item whose rows the merge unit
copies holds no Pier and does not time out (04 R67, 10 R217). -/
def timeoutDue (s : State) (id : Nat) (it : Item) : Bool :=
  let onPier := it.st == .running && (pierOf s id).isSome
  let held := (it.st == .pending && ((waitsFirst s it && leAt (chainOp (itemImage s it) 0) 24 1 == 2) || heldForStep s it)) ||
    (onPier && ((opCode (itemOp s it) == 0x49 && leAt (itemOp s it) 24 1 == 2) || opCode (itemOp s it) == 0x23 ||
      s.tables.slots.any (fun z => z.item == id && z.kind == 2)))
  match itemCtx s it with
  | none => false
  | some x =>
    (held && it.fault.isEmpty && it.waitSince.elim false (fun t => decide (t + x.timeout ≤ now s))) ||
    (onPier && it.fault.isEmpty && s.kid.accs.any (fun q =>
      (isItemAcc id q.2.owner || isItemWrite id q.2.owner) && decide (q.2.first + x.timeout ≤ now s)))

def dropItemAccs (s : State) (id : Nat) : State :=
  orphan (((s.kid.accs.filter (fun q => isItemAcc id q.2.owner)).map (·.1)).foldl closeRequest s) (isItemAcc id)

/-- OUTSIDE_TIMEOUT: the item commits as a skip and its descriptor completes TIMEOUT (04 R67). -/
def execOutsideTimeout (item : Nat) (s : State) : Host.Outcome State Fault Refusal :=
  match getItem s item with
  | none => ok s
  | some it =>
    if timeoutDue s item it then finish (event (skipItem (dropItemAccs s item) item .timeout) evSched 4)
    else ok s

/-- RECORD_BUDGET_QUARANTINE: the record whose next step would pass the record budget is charged exactly the budget
and skipped; the decode goes on with the next record (04 R63). -/
def execRecordBudgetQuarantine (item : Nat) (s : State) : Host.Outcome State Fault Refusal :=
  match getItem s item with
  | none => ok s
  | some it =>
    match it.recordOver with
    | none => ok s
    | some r =>
      if it.st = .running then
        ok (modItem s item (fun it => { it with recordOver := none, lateRecords := it.lateRecords ++ [r] }))
      else ok s

/-! ### Time-slicing -/

/-- A context that is pinned, or that has work, is not resident and does not fit beside those that are: somebody must leave
(04 R71). -/
def scratchShort (s : State) : Bool :=
  s.ctxs.any (fun p => !p.2.resident && (p.2.pinned || wantsScratch s p.1 p.2) &&
    decide (2 ^ 20 < residentBytes s + p.2.reservation))

/-- A pinned context waits for its place. -/
def pinnedOut (s : State) : Bool := s.ctxs.any (fun p => !p.2.resident && p.2.pinned)

/-- An item or a stream block of the context runs on a Pier. -/
def runningOf (s : State) (c : Nat) : Bool :=
  s.sched.items.any (fun p => p.2.ctx == c && p.2.st == .running) ||
  (NMap.find? s.ctxs c).elim false (fun x => x.streams.any (fun t => t.2.blocks.any (fun b => !b.done && b.pier != 256)))

/-- The scratch of a context on each Pier: the reservation lies at the top of the 2 MiB (log entry 12). -/
def reservationBase (p : Nat) : Nat := p * scratchSize + 2 ^ 20

/-- A resident context must leave: scratch is short, and its slice is over, it has no work, or a pinned one waits
(04 R71). -/
def mustYield (s : State) (ctx : Nat) (x : Ctx) : Bool :=
  x.resident && !x.pinned && scratchShort s &&
  (decide (x.sliceStart + x.slice ≤ now s) || !(wantsScratch s ctx x || runningOf s ctx) || pinnedOut s)

/-- The reservation of a context goes to the Deck, and the context is swapped out (04 R72). -/
def swapOut (s : State) (ctx : Nat) (x : Ctx) : State :=
  { setCtx s ctx { x with
      resident := false, draining := false
      swap := (List.range 256).map (fun p =>
        (p, memPut zeroByte [] 0 (memTake zeroByte s.deck.pierMem (reservationBase p) x.reservation))) } with
    sched := { s.sched with lastOut := ctx } }

/-- SLICE_BOUNDARY: a context that must leave stops dispatching; once its running items have committed, its reservation goes
to the Deck and it is swapped out (04 R71 to R73). -/
def execSliceBoundary (ctx : Nat) (s : State) : Host.Outcome State Fault Refusal :=
  match NMap.find? s.ctxs ctx with
  | none => ok s
  | some x =>
    if !(x.draining || mustYield s ctx x) then ok s
    else if runningOf s ctx then ok (setCtx s ctx { x with draining := true })
    else finish (swapOut s ctx x)

/-- The next context in turn: a pinned one first, then ascending from the one after the last swapped out, a paused one being
skipped (04 R71, R73). -/
def nextInTurn (s : State) : Option (Nat × Ctx) :=
  let out := s.ctxs.filter (fun p => !p.2.resident)
  let cand := out.filter (fun p => p.2.st == .active && (wantsScratch s p.1 p.2 || !(slicing s)))
  match List.find? (fun p => p.2.pinned) out with
  | some p => some p
  | none => match List.find? (fun p => decide (s.sched.lastOut < p.1)) cand with
    | some p => some p
    | none => cand.head?

/-- SWAP_IN: the incoming context's reservation is read in and the context is resident (04 R72). -/
def execSwapIn (s : State) : Host.Outcome State Fault Refusal :=
  match nextInTurn s with
  | none => ok s
  | some (c, x) =>
    if residentBytes s + x.reservation ≤ 2 ^ 20 ∧ running s then
      let m := (List.range 256).foldl (fun m p =>
        memPut zeroByte m (reservationBase p) (memTake zeroByte (NMap.getD x.swap p []) 0 x.reservation)) s.deck.pierMem
      finish { setCtx s c { x with resident := true, sliceStart := now s } with
               deck := { s.deck with pierMem := m } }
    else ok s

end Sys2Proof.Machine
end

