-- ==== Sys2Proof/Machine/Heal.lean ====
section
/-!
DEFINITION. Healing: flagged runs and replays, lost Piers and other units, hub parity, configuration values, Parapet
banks, rebuilds of row groups, the audit of backing copies, and leaving service (18 R388 to R405; 11 R243; 17 R381).
-/

namespace Sys2Proof.Machine

open Sys2Proof

/-! ### Replays -/

/-- A replay of a run that a Pier carried: counted, logged and traced (18 R391, R404; 02 R27). -/
def noteReplay (s : State) (pier c ring idx object : Nat) : State :=
  let s1 := healLog (event (bump s ctReplay 1) evHeal 0) { kind := 1, unit := pier, context := c, ring := ring, index := idx, detail := object }
  trace (faultTrace s1 c pier object) c srcScheduler 7 object 0

/-- An item goes back to Ready at the head of its priority queue, to be dispatched elsewhere (04 R73, 18 R391). -/
def replayItem (s : State) (id pier : Nat) (it : Item) : State :=
  let first := s.sched.items.foldl (fun (a : Int) p => min a p.2.arrival) 0
  let s1 := freePier (dropItemAccs s id) id
  let s2 := modItem s1 id (fun it => { it with
    st := .ready, arrival := first - 1, waitSince := none, fault := [], bufs := [], accum := [], landed := []
    waiting := 0
    failedPiers := if it.failedPiers.contains pier then it.failedPiers else it.failedPiers ++ [pier] })
  let s3 := { s2 with tables := { s2.tables with slots := s2.tables.slots.filter (fun q => q.item != id) } }
  noteReplay s3 pier it.ctx it.ring it.idx id

/-- The runs on a Pier stop: its item is replayed, or finished by the hub after its hand-over, and its stream blocks
are written again (18 R391, 12 R273). -/
def stopPier (s : State) (pier : Nat) : State :=
  let s1 := match (getPier s pier).item with
    | none => s
    | some id => match getItem s id with
      | none => s
      | some it => if it.handed then freePier s id else replayItem s id pier it
  let carried := fun (c k b : Nat) => (NMap.find? s.ctxs c).elim false (fun x => (NMap.find? x.streams k).elim false (fun t =>
    t.blocks.any (fun y => y.index == b && y.pier == pier && !y.done)))
  let again := s.ctxs.flatMap (fun c => c.2.streams.flatMap (fun t =>
    (t.2.blocks.filter (fun b => b.pier == pier && !b.done)).map (fun b => (c.1, t.2.ring, t.2.idx, b.index))))
  let s2 := orphan s1 (fun o => match o with
    | .stream c k b => carried c k b
    | _ => false)
  let s3 := { s2 with ctxs := s2.ctxs.map (fun c => (c.1, { c.2 with streams := c.2.streams.map (fun t =>
      (t.1, { t.2 with blocks := t.2.blocks.map (fun b =>
        if b.pier = pier && !b.done then
          { b with pier := 256, landed := [], written := false, waiting := 0, fault := []
                   failedPiers := if b.failedPiers.contains pier then b.failedPiers else b.failedPiers ++ [pier] }
        else b) })) })) }
  again.foldl (fun s q => noteReplay s pier q.1 q.2.1 q.2.2.1 q.2.2.2) s3

/-- PARITY_FAILURE: a run is flagged; the item is replayed on another Pier (18 R388 to R391). -/
def execParityFailure (pier : Nat) (s : State) : Host.Outcome State Fault Refusal :=
  if 256 ≤ pier then .fault (.noSuchUnit pier)
  else if (getPier s pier).lost || !running s then ok s
  else if (getPier s pier).item.isNone && !(carriesBlock s pier) then ok s
  else
    let p := getPier s pier
    let ticks := p.flagTicks.filter (fun t => decide (now s < t + 1048576)) ++ [now s]
    finish (stopPier (setPier s pier { p with flagTicks := ticks }) pier)

/-- The loss condition holds (18 R392). -/
def pierCause (s : State) (pier : Nat) (cause : PierCause) : Bool :=
  match cause with
  | .flags => decide (3 ≤ ((getPier s pier).flagTicks.filter (fun t => decide (now s < t + 1048576))).length)
  | .scratchBank => true
  | .portCheck => true
  | .selfTest => s.boot.phase == 2

/-- A Pier is taken out of service until the next cold reset (18 R392, 03 R51). -/
def losePier (s : State) (pier : Nat) : State :=
  if (getPier s pier).lost then s
  else
    let s1 := stopPier s pier
    let y := getPier s1 pier
    let s1 := ((y.light ++ y.lightWait).flatMap (·.2)).foldl (fun s i => accDone s i 0 []) s1
    let s2 := setPier s1 pier { getPier s1 pier with
      lost := true, item := none, queue := [], unbooked := [], light := [], lightWait := [] }
    let s3 := { s2 with deck := { s2.deck with
      pierMem := s2.deck.pierMem.filter (fun c => decide (c.1 < pier * scratchSize) || decide ((pier + 1) * scratchSize ≤ c.1)) } }
    healLog (event s3 evHeal 1) { kind := 2, unit := pier }

/-- PIER_LOST: a Pier meets a loss condition (18 R392). -/
def execPierLost (pier : Nat) (cause : PierCause) (s : State) : Host.Outcome State Fault Refusal :=
  if 256 ≤ pier then .fault (.noSuchUnit pier)
  else if s.power.off || !(pierCause s pier cause) then ok s
  else finish (losePier s pier)

/-! ### The hub -/

def hubNumber : HubUnit → Nat
  | .scheduler => 0
  | .tollgate => 1
  | .mergeUnit => 2
  | .causeway => 3

/-- HUB_PARITY_FAILURE: an entry is reloaded from the device region and the operation repeated; nothing else changes,
and the failure is counted against the structure (18 R393). -/
def execHubParityFailure (unit : HubUnit) (s : State) : Host.Outcome State Fault Refusal :=
  if s.power.off then ok s
  else
    let k := hubNumber unit
    let ts := (NMap.getD s.heal.hubFaults k []).filter (fun t => decide (now s < t + 1048576)) ++ [now s]
    ok { s with heal := { s.heal with hubFaults := NMap.set s.heal.hubFaults k ts } }

/-- CONFIG_FIX: a register or configuration value that fails parity is restored from the Tollhouse's copy
(18 R393, 19 R414). -/
def execConfigFix (off : Nat) (s : State) : Host.Outcome State Fault Refusal :=
  if s.power.off then ok s
  else
    let put := fun (m : NMap Nat) => match NMap.find? s.regs.copies off with
      | some v => NMap.set m off v
      | none => NMap.erase m off
    let s1 := if off = prAdminAddr ∨ off = prSwitchAt then { s with regs := { s.regs with pairs := put s.regs.pairs } }
      else { s with regs := { s.regs with words := put s.regs.words } }
    finish (healLog (event (bump s1 ctConfigFix 1) evHeal 4) { kind := 0x0C, detail := off })

def bankKey (parapet bank : Nat) : Nat := parapet * 16 + bank

/-- PARAPET_BANK_PARITY: a bank is rebuilt from its shadow and the search repeated (11 R243, 18 R388). -/
def execParapetBankParity (parapet bank : Nat) (s : State) : Host.Outcome State Fault Refusal :=
  if 4 ≤ parapet || 16 ≤ bank then .fault (.noSuchUnit (parapet * 16 + bank))
  else if s.power.off || s.heal.banksOut.contains (bankKey parapet bank) || s.heal.diesOut.contains parapet then ok s
  else
    let k := bankKey parapet bank
    let y := NMap.getD s.parapets parapet ParapetState.reset
    let y1 := { y with entries := NMap.set y.entries bank (NMap.getD y.shadow bank []) }
    let ts := (NMap.getD s.heal.bankFaults k []).filter (fun t => decide (now s < t + 1048576)) ++ [now s]
    ok (event { s with parapets := NMap.set s.parapets parapet y1
                       heal := { s.heal with bankFaults := NMap.set s.heal.bankFaults k ts } } evSel 2)

/-- A unit that loses parity three times in 1,048,576 ticks (18 R394).  The command is one flagged request or parity
failure of the unit, and the third in the window takes it out. -/
def threeFaults (s : State) (ts : List Nat) : List Nat × Bool :=
  let t1 := ts.filter (fun t => decide (now s < t + 1048576)) ++ [now s]
  (t1, decide (3 ≤ t1.length))

/-- UNIT_OUT: a compression engine, a Parapet bank, a Tollhouse core or a compute die goes out of service (18 R394). -/
def execUnitOut (unit : UnitKind) (s : State) : Host.Outcome State Fault Refusal :=
  if s.power.off then ok s
  else match unit with
  | .compEngine d =>
    if 4 ≤ d then .fault (.noSuchUnit d)
    else if s.heal.enginesOut.contains d then ok s
    else
      let (ts, out) := threeFaults s (NMap.getD s.heal.engineFaults d [])
      let s1 := { s with heal := { s.heal with engineFaults := NMap.set s.heal.engineFaults d ts } }
      if out then
        finish (healLog (event { s1 with heal := { s1.heal with enginesOut := s1.heal.enginesOut ++ [d] } } evHeal 1)
          { kind := 0x10, unit := d })
      else ok s1
  | .bank p b =>
    if 4 ≤ p || 16 ≤ b then .fault (.noSuchUnit (p * 16 + b))
    else
      let k := bankKey p b
      if s.heal.banksOut.contains k then ok s
      else if 3 ≤ ((NMap.getD s.heal.bankFaults k []).filter (fun t => decide (now s < t + 1048576))).length then
        finish (healLog (event { s with heal := { s.heal with banksOut := s.heal.banksOut ++ [k] } } evHeal 1)
          { kind := 0x0D, unit := k })
      else ok s
  | .core =>
    let (ts, out) := threeFaults s s.heal.coreFaults
    let s1 := { s with heal := { s.heal with coreFaults := if out then [] else ts } }
    if out && s.heal.cores != 0 then
      finish (healLog (event { s1 with heal := { s1.heal with cores := s1.heal.cores - 1 } } evHeal 1)
        { kind := 0x10, unit := 4 })
    else ok s1
  | .die d =>
    if 4 ≤ d then .fault (.noSuchUnit d)
    else if s.heal.diesOut.contains d then ok s
    else
      let s1 := { s with heal := { s.heal with
        diesOut := s.heal.diesOut ++ [d]
        enginesOut := if s.heal.enginesOut.contains d then s.heal.enginesOut else s.heal.enginesOut ++ [d]
        banksOut := (List.range 16).foldl (fun bs b => if bs.contains (bankKey d b) then bs else bs ++ [bankKey d b])
          s.heal.banksOut } }
      let s2 := (List.range 64).foldl (fun s p => losePier s (d * 64 + p)) s1
      let s3 := (List.range 128).foldl (fun s c => loseChannel s (d * 128 + c)) s2
      finish (healLog (event s3 evHeal 1) { kind := 0x10, unit := d })

/-! ### Rebuilds -/

/-- REBUILD_START: a group that holds an uncorrectable block, or was withdrawn, and its state group are set REBUILDING
and wait for a place (18 R395). -/
def execRebuildStart (ver group : Nat) (s : State) : Host.Outcome State Fault Refusal :=
  match groupOf s ver group with
  | none => ok s
  | some (_, e) =>
    let a := gLocal (locAddr s e.loc)
    if running s && inDeckTier e && (blocksOf a e.size).any (fun b => badAt s (b * 64)) then
      finish (startRebuild s ver group none)
    else ok s

/-- A frame that a rebuild has read: its Causeway location, where that lies, its tag, which gens are accepted, and the log kind of its loss. -/
structure NeedFrame where
  loc : Nat
  addr : Nat
  len : Nat
  tag : Nat
  journal : Bool
  gen : Nat
  version : Nat
deriving DecidableEq, Repr

def NeedFrame.genOk (n : NeedFrame) (gen : Nat) : Bool :=
  if n.journal then gen == n.gen else gen % 2 ^ 32 == n.gen && decide (gen / 2 ^ 32 ≤ n.version)

def backingNeed (s : State) (v g : Nat) : List NeedFrame :=
  match groupOf s v g with
  | some (t, e) =>
    let x := backingExtent s e
    [{ loc := e.backing, addr := x.1, len := x.2, tag := t.tableId, journal := false, gen := g, version := t.version }]
  | none => []

/-- The frames of one journal block, in order. -/
def blockFrames (x : Ctx) (b : Nat) : List JFrame := (x.journal.frames.filter (fun f => f.2.block == b)).map (·.2)

def journalNeed (s : State) (c b : Nat) : List NeedFrame :=
  match NMap.find? s.ctxs c with
  | none => []
  | some x => (blockFrames x b).mapIdx (fun k f =>
      { loc := x.journal.base + f.off, addr := locAddr s x.journal.base + f.off, len := f.len, tag := f.table, journal := true,
        gen := f.step * 2 ^ 32 + k, version := 0 })

/-- The loss that a frame's second failure is logged as: BACKING_BAD or JOURNAL_BAD, and its location (18 R397, R404). -/
def NeedFrame.loss (n : NeedFrame) : Nat × Nat := (if n.journal then 0x0B else 0x0A, n.loc)

def needBody (r : Rebuild) (n : NeedFrame) : Option (List Byte) :=
  readFrame (memTake zeroByte r.frame n.addr n.len) n.tag n.genOk

/-- One record of a STEP block: the local row and the merged value (10 R211). -/
def stepRecords (b : List Byte) : List (Nat × List W32) :=
  let elems := leAt b 32 2
  let f := leAt b 6 1
  let w := 8 + roundUp (elems * elemBytes f) 8
  (List.range (leAt b 28 4)).map (fun k =>
    let r := (b.drop (64 + k * w)).take w
    (leAt r 0 8 % 2 ^ 40, (unpackCodes f elems (r.drop 8)).map (widenCode f)))

/-- Whether a step's key was applied to the group before its loss (18 R396). -/
def wasApplied (s : State) (c q step key : Nat) : Bool :=
  match (NMap.find? s.ctxs c).bind (fun x => NMap.find? x.queues q) with
  | none => true
  | some m => decide (step < m.toApply) ||
      (match NMap.find? m.finals step with | some f => f.marked.contains key | none => false)

/-- Replay one STEP block into a group and its state group, counting the malformed blocks read (18 R396). -/
def replayBlock (s : State) (t : TDesc) (e : DEntry) (se : Option DEntry) (g c q : Nat) (skip : List Nat)
    (b : List Byte) (ws : List Byte × List Byte × Nat) : List Byte × List Byte × Nat :=
  let step := leAt b 24 4
  let f32 := fun o => BitVec.ofNat 32 (leAt b o 4)
  (stepRecords b).foldl (fun ws r =>
    if r.1 / 4096 = g ∧ !(skip.contains r.1) ∧ wasApplied s c q step r.1 then
      let j := r.1 % 4096
      let (w, bad) := decodeRow e.fmt t.rowLen e.stride (slice ws.1 (j * e.stride) e.stride)
      let ss := se.elim 0 (·.stride)
      let st := bytesF32 (slice ws.2.1 (j * ss) ss)
      let (w1, st1) := optStep (leAt b 5 1) (f32 36) (f32 40) (f32 44) w st r.2
      let enc := writeBack t e r.1 (leAt b 16 8) (leAt b 7 1 == 2) w1
      let put := fun (m : List Byte) (o : Nat) (x : List Byte) => m.take o ++ x ++ m.drop (o + x.length)
      (put ws.1 (j * e.stride) (slice enc.bytes 0 e.stride),
       if ss = 0 then ws.2.1 else put ws.2.1 (j * ss) (slice (f32Bytes st1) 0 ss), ws.2.2 + bad)
    else ws) ws

/-- The rebuilt bytes of the pair, from frames that have all passed, and the malformed blocks read (18 R396). -/
def rebuiltBytes (s : State) (r : Rebuild) : List Byte × List Byte × Nat :=
  match groupOf s r.ver r.group with
  | none => ([], [], 0)
  | some (t, e) =>
    let body := fun n => (needBody r n).getD []
    let w0 := ((backingNeed s r.ver r.group).map body).flatten
    let s0 := match r.state with | some v => ((backingNeed s v r.group).map body).flatten | none => []
    let se := r.state.bind (fun v => (groupOf s v r.group).map (·.2))
    let blocks := (journalBlocks s t.tableId r.group).filterMap (fun cb =>
      (NMap.find? s.ctxs cb.1).bind (fun x => (blockFrames x cb.2).head?.map (fun f =>
        (f.step, f.kind, cb.1, f.queue, (journalNeed s cb.1 cb.2).flatMap body))))
    let skips := fun st => (blocks.filter (fun b => b.2.1 == 3 && b.1 == st)).flatMap (fun b =>
      (List.range (leAt b.2.2.2.2 28 4)).map (fun k => leAt b.2.2.2.2 (64 + 8 * k) 8 % 2 ^ 40))
    let steps := (blocks.filter (fun b => b.2.1 == 1)).foldr (fun b acc =>
      (acc.takeWhile (fun c => decide (c.1 < b.1))) ++ [b] ++ (acc.dropWhile (fun c => decide (c.1 < b.1)))) []
    steps.foldl (fun ws b => replayBlock s t e se r.group b.2.2.1 b.2.2.2.1 (skips b.1) b.2.2.2.2 ws) (w0, s0, 0)

/-- Frames that fail their check are read once more; a second failure is final (18 R397). -/
def failFrames (s : State) (i : Nat) (bad : List NeedFrame) : State :=
  let s1 := bad.foldl (fun s _ => event (bump s ctFrameBad 1) evCmp 1) s
  modRebuild s1 i (fun r =>
    let once := r.once ++ bad.map (·.addr)
    { r with
      once := once
      asked := r.asked.filter (fun g => !(bad.any (fun n => n.addr == g.1)))
      fatal := (List.find? (fun n => decide (2 ≤ once.count n.addr)) bad).map (·.loss) })

/-- Write one rebuilt group at its location. -/
def writeGroup (s : State) (i v g : Nat) (spill : Option Nat) (bs : List Byte) : State :=
  match getVer s v, groupOf s v g with
  | some x, some (_, e) =>
    let loc := spill.getD e.loc
    let a := locAddr s loc
    if isDeck s a then deckWrite s (gLocal a) bs
    else issueWrites (modRebuild s i (fun r => { r with waiting := r.waiting + (pieces a bs.length).length }))
      (.rebuild i) x.ctx a bs
  | _, _ => s

/-- The end of one group's rebuild: its state is as before, or TAIL at the spill target (18 R396, R398). -/
def endRebuild (s : State) (v g prior : Nat) (spill : Option Nat) : State :=
  match getVer s v with
  | none => s
  | some x =>
    let s1 := modGroup s v g (fun e => match spill with
      | some l => { e with loc := l, state := gTail }
      | none => { e with state := prior })
    healLog s1 {
      kind := 7, table := x.tableId, version := x.version, group := g, address := (groupOf s1 v g).elim 0 (fun q => q.2.loc) }

/-- Writes that waited for a rebuild which has ended merge with the rebuilt bytes, and their owners hear (17 R461). -/
def releaseHeld (s : State) : State :=
  let (wait, go) := s.deck.held.partition (fun q => inRebuild s (q.1 / 64))
  let s1 := go.foldl (fun s q => deckPut s q.1 q.2.1) { s with deck := { s.deck with held := wait } }
  let owners := ((go.map (·.2.2)).eraseDups).filter (fun o => !(wait.any (fun q => q.2.2 == o)))
  let s2 := owners.foldl (fun s o => match o with | .peer h _ => answerPeer s h 0 [] | _ => s) s1
  go.foldl (fun s q => match q.2.2 with
    | .peer _ _ => s
    | o => accGood s (accWrite s o 0 (gAddr (deviceId s) q.1) q.2.1) []) s2

/-- REBUILD_DONE: once its frames have come and pass their checks, the pair is rebuilt from the backing copies and the
journal, written, and its states return (18 R395 to R397). -/
def execRebuildDone (rebuild : Nat) (s : State) : Host.Outcome State Fault Refusal :=
  match NMap.find? s.heal.rebuilds rebuild with
  | none => ok s
  | some r =>
    if !r.running || r.fatal.isSome || s.heal.outOfService || s.power.off then ok s
    else if r.written then
      (if r.waiting != 0 then ok s
      else
        let s1 := endRebuild s r.ver r.group r.prior r.spill
        let s2 := match r.state with | some v => endRebuild s1 v r.group r.statePrior none | none => s1
        let s3 := event (bump s2 ctRebuild 1) evHeal 2
        finish (releaseHeld (givePlaces { s3 with heal := { s3.heal with rebuilds := NMap.erase s3.heal.rebuilds rebuild } })))
    else
      let needs := backingNeed s r.ver r.group ++ (match r.state with | some v => backingNeed s v r.group | none => []) ++
        (match groupOf s r.ver r.group with
          | some (t, _) => (journalBlocks s t.tableId r.group).flatMap (fun cb => journalNeed s cb.1 cb.2)
          | none => [])
      let unasked := needs.filter (fun n => !(r.asked.contains (n.addr, n.len)))
      let late := r.waiting != 0 && decide (r.since + rwGet s rwTimeout ≤ now s)
      match List.find? (fun n => decide (2 ≤ r.once.count n.addr)) unasked with
      | some n =>
        ok (modRebuild s rebuild (fun r => { r with fatal := some n.loss }))
      | none =>
        if !unasked.isEmpty then finish (askRebuild (modRebuild s rebuild (fun r => { r with since := now s })) rebuild)
        else if late then
          let open_ := s.kid.accs.filter (fun p => p.2.owner == .rebuild rebuild)
          let bad := needs.filter (fun n => open_.any (fun p => decide (n.addr ≤ p.2.addr) && decide (p.2.addr < n.addr + n.len)))
          finish (failFrames (modRebuild (orphan s (· == .rebuild rebuild)) rebuild (fun r => { r with waiting := 0 })) rebuild bad)
        else if r.waiting != 0 then ok s
        else
          let bad := needs.filter (fun n => (needBody r n).isNone)
          if !bad.isEmpty then finish (failFrames s rebuild bad)
          else
            let ws := rebuiltBytes s r
            let frames := needs.filter (·.journal)
            let s := bump (bump s ctBytesIn ((frames.map (·.len)).sum)) ctBytesOut
              ((frames.map (fun n => ((needBody r n).map (·.length)).getD 0)).sum)
            let s1 := writeGroup (countMalformed s ws.2.2) rebuild r.ver r.group r.spill ws.1
            let s2 := match r.state with | some v => writeGroup s1 rebuild v r.group none ws.2.1 | none => s1
            finish (modRebuild s2 rebuild (fun r => { r with written := true, frame := [] }))

/-- GROUP_LOST: a backing copy or journal frame failed twice; the pair becomes LOST in every version that holds it
(18 R397, R399). -/
def execGroupLost (rebuild : Nat) (s : State) : Host.Outcome State Fault Refusal :=
  match NMap.find? s.heal.rebuilds rebuild with
  | none => ok s
  | some r =>
    match r.fatal with
    | none => ok s
    | some (kind, loc) =>
      let ver := getVer s r.ver
      let s1 := healLog s {
        kind := kind, table := ver.elim 0 (·.tableId), version := ver.elim 0 (·.version), group := r.group, address := loc }
      let s2 := makeLost s1 r.ver r.group
      let s3 := match r.state with | some v => makeLost s2 v r.group | none => s2
      finish (releaseHeld (givePlaces { s3 with heal := { s3.heal with rebuilds := NMap.erase s3.heal.rebuilds rebuild } }))

/-! ### The audit of backing copies -/

/-- BLAKE3 leaf of a group (13 R289). -/
def leafOf (table g fmt stride : Nat) (bs : List Byte) : List Byte :=
  blake3 (0#8 :: (natLE table 8 ++ natLE g 8 ++ natLE fmt 1 ++ natLE stride 4 ++ bs.take (4096 * stride)))

/-- Bytes that a leaf hashes (13 R289, R297). -/
def leafHashed (stride : Nat) : Nat := 22 + 4096 * stride

/-- The groups of the versions in force, in ascending order. -/
def auditList (s : State) : List (Nat × Nat) :=
  (s.tables.versions.filter (fun p => p.2.current && !p.2.retired)).flatMap (fun p =>
    (List.range (tdesc s p.2.desc).groups).map (fun g => (p.1, g)))

def setAudit (s : State) (f : Audit → Audit) : State := { s with deck := { s.deck with audit := f s.deck.audit } }

/-- Ask for an extent of the audit. -/
def askAudit (s : State) (ctx : Nat) (x : Nat × Nat) : State :=
  issueReads (setAudit s (fun a => { a with asked := a.asked ++ [x], waiting := a.waiting + (pieces x.1 x.2).length }))
    .audit ctx x.1 x.2

def endAudit (s : State) : State :=
  setAudit s (fun a => { a with pos := a.pos + 1, target := none, frame := [], asked := [], waiting := 0, failed := false })

/-- A copy that fails its audit: counted, and rewritten in place from a clean and healthy group (17 R381). -/
def auditFailed (s : State) (v : Nat) (t : TDesc) (e : DEntry) (gen : Nat) (bytes : List Byte) : State :=
  let ctx := ((getVer s v).map (·.ctx)).getD 0
  if !e.dirty && (e.state == gResident || e.state == gTail) then
    issueWrites (bump (bump s ctBytesIn bytes.length) ctBytesOut (backingExtent s e).2) (.free ctx) ctx (backingExtent s e).1
      (frameOf 0 0 t.tableId gen bytes)
  else s

/-- AUDIT_READ: the next backing copy is read, and once it is here it is checked (17 R381). -/
def execAuditRead (s : State) : Host.Outcome State Fault Refusal :=
  let a := s.deck.audit
  if rwGet s rwAuditRate = 0 || !running s then ok s
  else match a.target with
  | none =>
    let xs := auditList s
    match xs[a.pos % max 1 xs.length]? with
    | none => ok s
    | some (v, g) =>
      match getVer s v, groupOf s v g with
      | some x, some (_, e) =>
        if e.state = gLost || e.state = gRebuilding then ok (setAudit s (fun a => { a with pos := a.pos + 1 }))
        else finish (askAudit (setAudit s (fun a => { a with target := some (v, g) })) x.ctx (backingExtent s e))
      | _, _ => ok (setAudit s (fun a => { a with pos := a.pos + 1 }))
  | some (v, g) =>
    match groupOf s v g with
    | none => ok (endAudit s)
    | some (t, e) =>
      if a.waiting != 0 then ok s
      else
        let x := backingExtent s e
        let fr := memTake zeroByte a.frame x.1 x.2
        let need : NeedFrame := { loc := e.backing, addr := x.1, len := x.2, tag := t.tableId, journal := false, gen := g, version := t.version }
        let body := if a.failed then none else readFrame fr t.tableId need.genOk
        let s := if body.isSome && !e.dirty then bump s ctDigest (leafHashed e.stride) else s
        let leafBad := match body with
          | some b => !e.dirty && leafOf t.tableId g e.fmt e.stride b != e.leaf
          | none => true
        let gen := if body.isSome then leAt fr 32 8 else t.version * 2 ^ 32 + g
        if !leafBad then ok (endAudit s)
        else if a.asked.length = 1 && e.state = gTail && !e.dirty then
          finish (askAudit s (((getVer s v).map (·.ctx)).getD 0) (locAddr s e.loc, e.size))
        else
          let s0 := if body.isNone && !a.failed then event (bump s ctFrameBad 1) evCmp 1 else s
          let s1 := event (bump s0 ctAuditFail 1) evDeck 6
          let bytes := if e.state = gTail then memTake zeroByte a.frame (locAddr s e.loc) e.size
                       else deckRead s (gLocal (locAddr s e.loc)) e.size
          finish (endAudit (auditFailed s1 v t e gen bytes))

/-! ### Out of service -/

/-- Some block of the mirrored or device region has no good copy (00 R2, 17 R369, R385). -/
def copiesLost (s : State) : Bool :=
  s.deck.bad.any (fun b => badAt s (b * 64) && (twinOf s (b * 64)).elim false (badAt s))

/-- A condition of R401 holds (00 R2, 17 R385, 18 R391, R393). -/
def mustLeave (s : State) : Bool :=
  copiesLost s ||
  s.deck.lost.any (fun c => s.deck.lost.contains ((c + 256) % 512)) ||
  s.sched.items.any (fun p => decide (8 ≤ p.2.failedPiers.length)) ||
  s.ctxs.any (fun c => c.2.streams.any (fun t => t.2.blocks.any (fun b => decide (8 ≤ b.failedPiers.length)))) ||
  s.heal.hubFaults.any (fun p => decide (3 ≤ p.2.length)) || decide (s.heal.cores < 2) ||
  (List.range 256).all (fun p => (getPier s p).lost)

/-- The device leaves service until a cold reset (18 R401). -/
def leaveService (s : State) : State :=
  let s1 := healLog (event s evHeal 6) { kind := 0x1F }
  { s1 with heal := { s1.heal with outOfService := true }, boot := { s1.boot with phase := 5 } }

/-- OUT_OF_SERVICE (18 R401). -/
def execOutOfService (s : State) : Host.Outcome State Fault Refusal :=
  if mustLeave s && !s.heal.outOfService && !s.power.off && decide (2 ≤ s.boot.phase) then finish (leaveService s) else ok s

end Sys2Proof.Machine
end

