-- ==== Sys2Proof/Machine/Link.lean ====
section
/-!
DEFINITION. The links: training states, widths, frames, replay and Nap (14 R299 to R308, R315; 16 R340).
Port 0 is Kiduner; ports 1 to 8 are Span 0 to 7.
-/

namespace Sys2Proof.Machine

open Sys2Proof

def getLink (s : State) (p : Nat) : Link := if p = 0 then s.kidLink else getSpanLink s (p - 1)

def setLink (s : State) (p : Nat) (l : Link) : State :=
  if p = 0 then { s with kidLink := l } else setSpanLink s (p - 1) l

def lanesOf (p : Nat) : Nat := if p = 0 then 48 else 4

/-- The candidate widths in order of preference: width and first lane (14 R301, 16 R340). -/
def widthCandidates (p : Nat) : List (Nat × Nat) :=
  if p = 0 then [(48, 0), (24, 0), (24, 24), (12, 0), (12, 12), (12, 24), (12, 36)]
  else [(4, 0), (2, 0), (2, 2)]

/-- The bit of the widths byte that offers a width (14 R299, 16 R340). -/
def widthBit (p w : Nat) : Nat :=
  if p = 0 then (if w = 48 then 0 else if w = 24 then 1 else 2) else (if w = 4 then 0 else 1)

/-- The widest candidate all of whose lanes qualify (14 R301). -/
def chooseWidth (p far : Nat) (lanes : List Nat) : Option (Nat × Nat) :=
  List.find? (fun c => bitAt far (widthBit p c.1) &&
    (List.range c.1).all (fun k => lanes.contains (c.2 + k))) (widthCandidates p)

/-- The limit of a training state in ticks (14 R300). -/
def stateLimit (st : LinkState) : Option Nat :=
  match st with
  | .detect => some 16384
  | .rate0 => some 262144
  | .eq => some 1048576
  | .align => some 65536
  | .retrain => some 262144
  | _ => none

/-- The tick at which a link's training state has passed its limit: counted from entry to the state, or for a Nap
transition from its start (14 R300, R315). -/
def deadline (l : Link) : Option Nat :=
  (stateLimit l.st).map (fun n => match l.course with
    | .napIn => l.courseFrom + 65536
    | .napOut => l.courseFrom + 262144
    | _ => l.entered + n)

/-- The link can work at all: powered, in boot past ROM or in Recovery, and for Span outside Nap (20 R425, R440). -/
def linkPowered (s : State) (p : Nat) : Bool := !s.power.off && (p == 0 || !s.power.nap)

/-! ### Training sets -/

def invert (bs : List Byte) : List Byte := bs.map (fun b => ~~~b)

def setMarker : List Byte := natLE 0x5354444B 4

/-- A received set with its polarity corrected: whether it was inverted, and its bytes; none without the marker
(14 R299). -/
def readSet (set : List Byte) : Option (Bool × List Byte) :=
  if set.take 4 = setMarker then some (false, set)
  else if set.take 4 = invert setMarker then some (true, invert set)
  else none

/-- A good set of a type in a state: NRZ in RATE0 and PAM4 in EQ, reserved bytes zero, presets in range (14 R299). -/
def setGood (p ty : Nat) (st : LinkState) (b : List Byte) : Bool :=
  leAt b 4 1 == ty && decide (leAt b 5 1 < lanesOf p) && decide (leAt b 6 1 < (if p = 0 then 16 else 4)) &&
  leAt b 7 1 == (if st = .rate0 then 0 else 1) && decide (leAt b 8 1 < 16) &&
  (decide (leAt b 9 1 < 16) || leAt b 9 1 == 255) && allZero (b.drop 10)

/-- The widths byte that the device sends: every width, and the Nap pair on Kiduner (14 R299, 16 R340). -/
def ownWidths (p : Nat) : Nat := if p = 0 then 15 else 3

/-- The training set that a lane sends (14 R299). -/
def ownSet (l : Link) (p ty lane : Nat) : List Byte :=
  setMarker ++ natLE ty 1 ++ natLE lane 1 ++ natLE (ownWidths p) 1 ++ natLE (if l.st = .rate0 then 0 else 1) 1 ++
  natLE (NMap.getD l.presets lane 0) 1 ++ natLE (NMap.getD l.presetAsks lane 255) 1 ++ zeros 22

/-- Every detected lane has seen lane number n - 1 - i (14 R299). -/
def seenReversed (p : Nat) (lanes : List Nat) (seen : NMap Nat) : Bool :=
  !lanes.isEmpty && lanes.all (fun i => NMap.find? seen i == some (lanesOf p - 1 - i))

/-- RATE0: lane numbers, reversal, widths, and the count of consecutive good TS2, which anything else ends (14 R299, R300). -/
def rate0Set (l : Link) (p ty lane : Nat) (b : List Byte) : Link :=
  if setGood p ty .rate0 b then
    let seen := NMap.set l.seen lane (leAt b 5 1)
    { l with
      seen := seen, farWidths := leAt b 6 1
      reversed := if l.detected.all (NMap.has seen) then seenReversed p l.detected seen else l.reversed
      ts2 := if ty = 2 then NMap.set l.ts2 lane (NMap.getD l.ts2 lane 0 + 1) else NMap.erase l.ts2 lane }
  else { l with ts2 := NMap.erase l.ts2 lane }

/-- EQ: the far transmitter's preset is noted, this transmitter takes the preset asked of it, and `ask`, which the spec
leaves to the receiver's tuning, is asked of the far one (14 R299, R300). -/
def eqSet (l : Link) (p ty lane ask : Nat) (b : List Byte) : Link :=
  if setGood p ty .eq b then
    { l with
      farPresets := NMap.set l.farPresets lane (leAt b 8 1)
      presets := if leAt b 9 1 < 16 then NMap.set l.presets lane (leAt b 9 1) else l.presets
      presetAsks := NMap.set l.presetAsks lane (if ask % 17 = 16 then 255 else ask % 17) }
  else l

/-- A received training set: its polarity, and what it brings in RATE0 and in EQ. -/
def trainSet (l : Link) (p ty lane ask : Nat) (set : List Byte) : Link :=
  if l.st != .rate0 && l.st != .eq then l
  else match readSet set with
    | none => { l with ts2 := NMap.erase l.ts2 lane }
    | some (inv, b) =>
      let l1 := { l with polarity := NMap.set l.polarity lane inv }
      if l.st = .rate0 then rate0Set l1 p ty lane b else eqSet l1 p ty lane ask b

/-- TS1 and TS2 alike: a free value stands for the receiver's tuning. -/
def takeSet (s : State) (p ty lane : Nat) (set : List Byte) : State :=
  if !(linkPowered s p) || lanesOf p ≤ lane then s
  else
    let (ask, s1) := takeFree s
    setLink s1 p (trainSet (getLink s1 p) p ty lane ask set)

def execTs1 (port : Fin 9) (lane : Nat) (set : List Byte) (s : State) : Host.Outcome State Fault Refusal :=
  ok (takeSet s port 1 lane set)

def execTs2 (port : Fin 9) (lane : Nat) (set : List Byte) (s : State) : Host.Outcome State Fault Refusal :=
  ok (takeSet s port 2 lane set)

/-! ### Frames as they go out -/

/-- The bytes of a frame as it goes out (14 R303 to R305; 16 R340). -/
def frameBytes (f : Sent) : List Byte :=
  let pad := fun (n : Nat) (bs : List Byte) => bs ++ zeros (n - bs.length)
  let body := natLE f.seq 2 ++ natLE f.ack 2 ++ natLE f.kind 1 ++ natLE (if f.timing.isSome then 1 else 0) 1 ++ zeros 2 ++
    f.credits.flatMap (fun c => natLE c 2) ++
    pad 238 (f.slots.flatMap (fun q => natLE (q.1 * 4096 + q.2.1) 2)) ++ zeros 2 ++
    pad 96 (f.hdrs.flatMap (·.hdr)) ++ (match f.timing with | some r => natLE r 16 | none => []) 
  let whole := pad 30832 (pad 368 body ++ f.slots.flatMap (·.2.2))
  whole ++ natLE (crc64 whole).toNat 8

/-! ### Moving between states -/

def enter (s : State) (p : Nat) (st : LinkState) (f : Link → Link) : State :=
  let l := getLink s p
  setLink s p (f { l with st := st, entered := now s })

/-- The packets of frames that were not acknowledged wait again, and so do the data slots whose headers the far end has;
on Span R353 sends whole requests again (14 R307; log entry 14). -/
def unsent (p : Nat) (l : Link) : Link :=
  let ps := l.replay.flatMap (·.hdrs)
  let all := l.replay.flatMap (·.slots) ++ l.slots
  { l with queue := ps ++ l.queue, replay := []
           slots := if p = 0 then all.take (all.length - (ps.flatMap packetSlots).length) else [] }

/-- Both directions wait for their first NORMAL frame of this ALIGN: one that stands for replay, or a new one, which
advertises credits (14 R300, R307, R308). -/
def startAlign (l : Link) : Link :=
  let l := { l with alignOk := false, resent := l.resent + l.replay.length }
  match List.find? (fun f => f.kind == 1) l.replay with
  | some f => { l with alignSeq := some f.seq }
  | none => putFrame { l with alignSeq := some l.txSeq } (newFrame l 1 [] [] none)

/-- Frames and credits start afresh at ALIGN after training from DETECT: the first frame has sequence 0 (14 R300, R308). -/
def freshFrames (p : Nat) (l : Link) : Link :=
  startAlign { unsent p l with
    txSeq := 0, rxSeq := 65535, discarding := false, requests := 0, asks := [], stale := [], pulling := []
    crUsed := [0, 0, 0, 0], crGiven := if p = 0 then [512, 4096, 256, 2048] else [512, 2048, 0, 2048]
    crFar := [0, 0, 0, 0] }

/-- The first NORMAL frame has been accepted in each direction (14 R300). -/
def aligned (l : Link) : Bool := l.alignOk && l.alignSeq.isNone

/-- What goes with becoming ACTIVE: narrowed widths and ports that came up are reported, and waiting traffic goes out
(14 R316, 16 R362, 18 R394). -/
def goActive (s : State) (p : Nat) (st : LinkState) : State :=
  let s1 := enter s p st (fun l => pump { l with failures := 0, saved := true, alignOk := false, course := .training
                                                 holding := false })
  let l := getLink s1 p
  if p = 0 then
    let s2 := { s1 with ctxs := s1.ctxs.map (fun q =>
      (q.1, { q.2 with rings := q.2.rings.map (fun r => (r.1, { r.2 with statusDirty := true })) })) }
    if st = .active && decide (l.width < 48) then
      healLog (event s2 evKid 1) { kind := 0x0E, unit := 0, detail := l.width }
    else s2
  else
    let s2 := event s1 evSpan 1
    if l.width < 4 then healLog s2 { kind := 0x0E, unit := p, detail := l.width } else s2

/-- The two lowest-numbered lanes of the width, on which Nap and Recovery run (14 R315, 20 R428). -/
def napPair (l : Link) (good : List Nat) : Bool := good.contains l.firstLane && good.contains (l.firstLane + 1)

/-- TRAINING_STATE_EXIT: a state whose exit condition is met moves on.  `lanes` are the lanes that pass in both
directions: detected, trained, or within the error ratio (14 R300, R301, R315). -/
def execTrainingStateExit (port : Fin 9) (lanes : List Nat) (s : State) : Host.Outcome State Fault Refusal :=
  let p := port.val
  let l := getLink s p
  if !(linkPowered s p) then ok s
  else match l.st with
  | .detect =>
    if (if p = 0 && l.course != .recovery then 12 else 2) ≤ lanes.length then
      ok (enter s p .rate0 (fun l => { l with
        detected := lanes, ts2 := [], seen := [], polarity := [], reversed := false }))
    else ok s
  | .rate0 =>
    let good := lanes.filter (fun k => decide (16 ≤ NMap.getD l.ts2 k 0))
    if l.course = .recovery then
      if napPair l good then
        ok (enter s p .align (fun l => freshFrames p { l with width := 2, napLink := true }))
      else ok s
    else if l.course = .napIn then
      if napPair l good then ok (enter s p .align (fun l => startAlign { l with width := 2, napLink := true })) else ok s
    else match chooseWidth p l.farWidths good with
      | some (w, f) => ok (enter s p .eq (fun l => { l with width := w, firstLane := f, detected := good }))
      | none => ok s
  | .eq =>
    match chooseWidth p l.farWidths (lanes.filter l.detected.contains) with
    | some (w, f) => ok (enter s p .align (fun l =>
        let l1 := { l with width := w, firstLane := f, napLink := false }
        if l.course = .napOut && p == 0 then startAlign l1 else freshFrames p l1))
    | none => ok s
  | .align =>
    if aligned l then
      if l.course = .napIn || l.course = .recovery then finish (goActive s p .nap) else finish (goActive s p .active)
    else ok s
  | .retrain =>
    if l.course = .realign then
      (if aligned l then finish (goActive s p (if l.napLink then .nap else .active)) else ok s)
    else if l.napLink then
      (if napPair l lanes then ok (setLink s p (startAlign { l with course := .realign })) else ok s)
    else match chooseWidth p l.farWidths (lanes.filter l.detected.contains) with
    | some (w, f) => ok (setLink s p (startAlign { l with width := w, firstLane := f, napLink := false, course := .realign }))
    | none => ok s
  | _ => ok s

/-- A link leaves a failed attempt: DETECT again, or DOWN after four; a Nap entry may be asked for again (14 R300, R315). -/
def failAttempt (s : State) (p : Nat) : State :=
  let l := getLink s p
  let s := if p = 0 && l.course == .napIn then { s with kid := { s.kid with napStage := 1 } } else s
  let again := if l.course = .recovery then Course.recovery else .training
  if 3 ≤ l.failures then
    let s1 := enter s p .down (fun l => { l with failures := 0, width := 0, course := again })
    if p = 0 then event s1 evKid 2 else s1
  else enter s p .detect (fun l => { l with failures := l.failures + 1, course := again })

/-- TRAINING_STATE_TIMEOUT: a state that passes its limit returns to DETECT; after four failures the link is DOWN
(14 R300). -/
def execTrainingStateTimeout (port : Fin 9) (s : State) : Host.Outcome State Fault Refusal :=
  match deadline (getLink s port) with
  | none => ok s
  | some t => if t ≤ now s then ok (failAttempt s port) else ok s

/-- LINK_DOWN_RETRY: a fresh series of attempts every 16,777,216 ticks (14 R300). -/
def execLinkDownRetry (port : Fin 9) (s : State) : Host.Outcome State Fault Refusal :=
  let l := getLink s port
  if l.st = .down && linkPowered s port && decide ((if port.val = 0 then 1 else 3) ≤ s.boot.phase) && decide (l.seriesStart + 16777216 ≤ now s) then
    ok (enter s port .detect (fun l => { l with failures := 0, seriesStart := now s }))
  else ok s

/-- Start the training of a link from DETECT (20 R425, R446). -/
def startTraining (s : State) (p : Nat) : State :=
  enter s p .detect (fun l => { l with failures := 0, seriesStart := now s, course := .training })

/-- A Span port leaves ACTIVE for RETRAIN: the requests whose data it was still bringing are abandoned, and the data that
follows is discarded (16 R352). -/
def abandonPulls (l : Link) : Link := { l with stale := l.stale ++ l.pulling, pulling := [], partials := [] }

/-- Enter RETRAIN: the replay buffers stay, and the series of attempts counts from here (14 R300, R307). -/
def enterRetrain (s : State) (p : Nat) : State :=
  enter s p .retrain (fun l =>
    let l1 := { l with requests := 0, failures := 0, seriesStart := now s, course := .training }
    if p = 0 then l1 else abandonPulls l1)

/-! ### Receiving frames -/

/-- Sequence number `q` lies in the `n` numbers up to `ack` (14 R306). -/
def ackCovers (ack q : Nat) : Bool := decide ((ack + 65536 - q % 65536) % 65536 < 32768)

/-- Ask the far end for something with the next frame that goes out (14 R304, R306). -/
def askKind (l : Link) (kind : Nat) : Link := pump { l with asks := l.asks ++ [kind] }

/-- A frame that fails: it and every later frame are discarded until the replay, which is requested once at a time
(14 R306). -/
def rejectFrame (s : State) (p : Nat) : State :=
  let l := getLink s p
  if l.asks.contains 2 then setLink s p { l with discarding := true }
  else setLink s p (askKind { l with discarding := true, requests := l.requests + 1 } 2)

/-- The cumulative credits of a frame's link fields (14 R304, R308). -/
def creditsOf (b : List Byte) : List Nat := [leAt b 8 2, leAt b 10 2, leAt b 12 2, leAt b 14 2]

/-- Frames up to an acknowledgement were accepted by the far end (14 R306). -/
def ackTo (l : Link) (ack : Nat) : Link :=
  { l with replay := l.replay.filter (fun q => !(ackCovers ack q.seq))
           alignSeq := if l.alignSeq.elim true (ackCovers ack) then none else l.alignSeq }

/-- The replay buffers are empty: the pair goes on to train for Nap (14 R315). -/
def napDrained (s : State) : State :=
  if s.kid.napStage = 3 && s.kidLink.st == .active && s.kidLink.replay.isEmpty then
    enter { s with kid := { s.kid with napStage := 4 } } 0 .rate0
      (fun l => { l with ts2 := [], seen := [], course := .napIn, courseFrom := now s, seriesStart := now s, failures := 0 })
  else s

/-- What becomes of an arriving frame: the state after the link layer, and whether its contents take effect
(14 R304 to R306). -/
def receiveFrame (s : State) (p : Nat) (f : Frame) : State × Bool :=
  let s := if p = 0 then bump (bump s ctKidCorr f.corrected) ctKidUncorr f.uncorrectable
           else bump (bump s ctSpanCorr f.corrected) ctSpanUncorr f.uncorrectable
  let l := getLink s p
  let b := f.bytes
  if !(framesRun l) || !(linkPowered s p) then (s, false)
  else if f.uncorrectable != 0 || (crc64 (b.take 30832)).toNat != leAt b 30832 8 then (rejectFrame s p, false)
  else
    let seq := leAt b 0 2
    if seq = (l.rxSeq + 1) % 65536 then
      let l1 := ackTo { l with
        rxSeq := seq, discarding := false, requests := 0, alignOk := l.alignOk || leAt b 4 1 == 1
        crFar := creditsOf b } (leAt b 2 2)
      (setLink s p (pump l1), true)
    else if ackCovers l.rxSeq seq then (s, false)
    else if l.discarding then (s, false)
    else (rejectFrame s p, false)

/-- Every frame from `ack + 1` goes out again in order, as it was (14 R306). -/
def resendFrames (s : State) (p ack : Nat) : State :=
  let l := ackTo (getLink s p) ack
  setLink s p (pump { l with resent := l.resent + l.replay.length })

/-! ### Nap of the Kiduner link -/

/-- NAP_REQUEST: the device asks the host to take the link into Nap (14 R315). -/
def execNapRequest (s : State) : Host.Outcome State Fault Refusal :=
  if s.kid.napStage = 1 && s.kidLink.st = .active && decide (s.kid.napAsks < 4) then
    ok { s with kidLink := askKind s.kidLink 3
                kid := { s.kid with napStage := 2, napAsks := s.kid.napAsks + 1, napAskedAt := now s } }
  else ok s

/-- A NAP_ACK: new transactions wait while the replay buffers drain (14 R315). -/
def napAcked (s : State) : State :=
  if s.kid.napStage = 2 && s.kidLink.st = .active then
    napDrained { s with kid := { s.kid with napStage := 3, napAskedAt := now s }, kidLink := { s.kidLink with holding := true } }
  else s

end Sys2Proof.Machine
end

