-- ==== Sys2Proof/Machine/Power.lean ====
section
/-!
DEFINITION. Overlay switches and power states: Run, Trim, Nap and Off (19 R420 to R422, 20 R437 to R447; 21 R457).
-/

namespace Sys2Proof.Machine

open Sys2Proof

/-! ### Overlays -/

/-- The 8-byte entries of an overlay image or of the SETTINGS section (20 R437). -/
def overlayEntries (img : List Byte) : List (Nat × Nat) :=
  (List.range (leAt img 10 2)).map (fun k => (leAt img (64 + 8 * k) 4, leAt img (68 + 8 * k) 4))

/-- Write an image's entries in order, each under its register's store rules (20 R438). -/
def applyEntries (s : State) (img : List Byte) : State :=
  (overlayEntries img).foldl (fun s e => rwStore s e.1 e.2) s

/-- Bring an overlay, or none, into force: entries, power cap and CFG_STATE; the slot table follows at a boundary
(20 R438). -/
def bringOverlay (s : State) (ov : Option Nat) (at_ : Nat) : State :=
  match ov with
  | some i =>
    let img := overlayImage s i
    let s1 := applyEntries s img
    { s1 with cfg := { s1.cfg with overlay := some i, powerCap := leAt img 8 2 }
              trestle := { s1.trestle with nextTable := some (leAt img 6 1 % 4, at_) } }
  | none =>
    let s1 := applyEntries s (cfgSection s 6)
    { s1 with cfg := { s1.cfg with overlay := none, powerCap := 1800 }
              trestle := { s1.trestle with nextTable := some (0, at_) } }

/-- CFG_SWITCH_GO: a 1 schedules a switch to CFG_OVERLAY_SEL at CFG_SWITCH_AT, or is refused (19 R421). -/
def switchGo (s : State) (data : Nat) : State :=
  if data % 2 = 0 then s
  else
    let k := pairGet s prSwitchAt
    let sel := rwGet s rwOverlaySel
    let none_ := bitAt sel 3
    let i := sel % 8
    if s.cfg.pending.isSome || decide (k ≤ s.clock.count) || !s.cfg.loaded ||
        (!none_ && (overlayImage s i).isEmpty) then event s evCfg 1
    else { s with cfg := { s.cfg with pending := some (k, if none_ then none else some i) } }

def execCfgSwitchGo (data : Nat) (s : State) : Host.Outcome State Fault Refusal :=
  if s.power.off then ok s else ok (switchGo s data)

/-- Every context that traces overlay switches gets the stamp (02 R27). -/
def traceAll (s : State) (src kind object detail : Nat) : State :=
  (NMap.keys s.ctxs).foldl (fun s c => trace s c src kind object detail) s

/-- OVERLAY_SWITCH: at count K the pending switch takes effect, and its stamp goes to the traces and the configuration log
(20 R438, 02 R27). -/
def execOverlaySwitch (s : State) : Host.Outcome State Fault Refusal :=
  match s.cfg.pending with
  | none => ok s
  | some (k, ov) =>
    if k ≤ s.clock.count ∧ !s.power.off then
      let s1 := bringOverlay { s with cfg := { s.cfg with pending := none, log := s.cfg.log ++ [(stamp s, ov)] } } ov k
      finish (traceAll (event s1 evCfg 0) srcTollhouse 11 (match ov with | some i => i | none => 255) 0)
    else ok s

/-! ### Nap -/

/-- The device is quiet (20 R445). -/
def quiet (s : State) : Bool :=
  s.sched.items.isEmpty && s.ctxs.all (fun p => p.2.streams.isEmpty && p.2.journal.frames.all (fun f => f.2.acked) &&
    p.2.rings.all (fun r => r.2.written == r.2.consumed && !r.2.statusDirty && !r.2.statusBusy)) &&
  s.regs.adminBusy == 0 && s.tables.migrations.isEmpty && s.heal.rebuilds.isEmpty && s.tables.commits.isEmpty &&
  s.kid.accs.isEmpty && s.span.outs.all (fun o => o.2.open_.isEmpty)

/-- A 2 in PWR_REQUEST.target: Nap is entered when the device is quiet, and refused otherwise (20 R445). -/
def requestNap (s : State) : State :=
  let s1 := rwStore s rwPwrRequest 2
  if s.power.nap || s.power.entering.isSome then s1
  else if quiet s && s.power.waking.isNone then
    { s1 with power := { s1.power with entering := some 0, napTicks := now s, trim := s.power.trim } }
  else event (rwStore s1 rwPwrRequest 0) evPwr 5

def execPwrRequestNap (s : State) : Host.Outcome State Fault Refusal :=
  if s.power.off then ok s else ok (requestNap s)

/-- A 0 in PWR_REQUEST.target is a wake source (20 R446). -/
def execPwrRequestRun (s : State) : Host.Outcome State Fault Refusal :=
  if s.power.off then ok s else ok (wakeUp (rwStore s rwPwrRequest 0))

/-- Scratch is lost when the dies go off; the reservations sit in the swap areas (18 R392, 20 R445). -/
def saveScratch (s : State) : State :=
  { s with
    ctxs := s.ctxs.map (fun p => if p.2.resident then
      (p.1, { p.2 with swap := (List.range 256).map (fun q =>
        (q, memPut zeroByte [] 0 (memTake zeroByte s.deck.pierMem (q * scratchSize + 2 ^ 20) p.2.reservation))) }) else p)
    deck := { s.deck with pierMem := [] } }

/-- Each Pier reloads the reservations of resident contexts from their swap areas (20 R446). -/
def loadScratch (s : State) : State :=
  s.ctxs.foldl (fun s p => if p.2.resident then
      { s with deck := { s.deck with pierMem := p.2.swap.foldl (fun m q =>
        memPut zeroByte m (q.1 * scratchSize + 2 ^ 20) (memTake zeroByte q.2 0 p.2.reservation)) s.deck.pierMem } }
    else s) s

/-- Span ports go off (16 R340, 20 R440). -/
def portsOff (s : State) : State :=
  (List.range 8).foldl (fun s p =>
    let l := getSpanLink s p
    let s1 := if l.st = .active then event s evSpan 0 else s
    setSpanLink s1 p { l with st := .down, width := 0, partials := [], stale := [], pulling := [] }) s

/-- The device reads Nap: it leaves Trim with that, whose duty is zero outside Trim, and the alert with it (19 R422, 20 R445, 21
R457). -/
def enterNap (s : State) : State :=
  let s1 := event (event s evPwr 2) evKid 4
  let s2 := if s.power.duty = 0 then s1 else event s1 evPwr 1
  { s2 with
    power := { s2.power with entering := none, nap := true, duty := 0, trim := false, gated := false, trimTemp := false }
    kid := { s2.kid with napStage := 5 }, pads := { s2.pads with alertN := true } }

/-- NAP_ENTRY_STEP: the timed steps of Nap entry (20 R445). -/
def execNapEntryStep (s : State) : Host.Outcome State Fault Refusal :=
  if s.power.off then ok s else
  match s.power.entering with
  | some 0 =>
    if s.power.napTicks + 4096 ≤ now s then
      let s1 := portsOff (saveScratch s)
      ok { s1 with power := { s1.power with entering := some 1 }, trestle := { s1.trestle with on := false } }
    else ok s
  | some 1 =>
    if s.power.napTicks + 6144 ≤ now s then
      ok { s with power := { s.power with entering := some 2 }
                  kid := { s.kid with napStage := 1, napAsks := 0 } }
    else ok s
  | some _ =>
    if s.kidLink.st = .nap then ok (enterNap s) else ok s
  | none => ok s

/-- The dies, the Trestle, the link and the ports come back (20 R446). -/
def backToRun (s : State) : State :=
  let l := s.kidLink
  let link := if l.st = .nap || l.course = .napIn then
      { l with st := .eq, course := .napOut, courseFrom := now s, seriesStart := now s, failures := 0, entered := now s
               holding := false }
    else pump { l with holding := false }
  let s1 := loadScratch { s with
    kidLink := link
    trestle := { s.trestle with on := true, slot := 0, cycleBase := 0 }
    kid := { s.kid with napStage := 0, napAsks := 0 }
    timing := { s.timing with stepOk := s.power.nap || s.timing.stepOk }
    power := { s.power with nap := false, waking := none, entering := none } }
  (List.range 8).foldl (fun s p =>
    if (getSpanLink s p).saved then enter s (p + 1) .eq (fun l => { l with failures := 0, seriesStart := now s, course := .training })
    else startTraining s (p + 1)) s1

/-- NAP_WAKE: a wake source brings the device back to Run (20 R446). -/
def execNapWake (s : State) : Host.Outcome State Fault Refusal :=
  match s.power.waking with
  | none => ok s
  | some _ =>
    let s1 := backToRun (rwStore s rwPwrRequest 0)
    if s.power.nap then finish (event (event s1 evPwr 3) evKid 5) else finish s1

/-- NAP_ACK_TIMEOUT: with no NAP_ACK within 16,384 ticks, or with replay buffers that are not empty 8,192 ticks after it,
the Tollhouse asks again, up to four times, and then returns to Run (14 R315, 20 R445; log entry 185). -/
def execNapAckTimeout (s : State) : Host.Outcome State Fault Refusal :=
  if (s.kid.napStage = 2 && decide (s.kid.napAskedAt + 16384 ≤ now s)) ||
      (s.kid.napStage = 3 && decide (s.kid.napAskedAt + 8192 ≤ now s)) ||
      (s.kid.napStage = 1 && decide (4 ≤ s.kid.napAsks)) then
    if s.kid.napAsks < 4 then
      ok { s with kid := { s.kid with napStage := 1 }, kidLink := pump { s.kidLink with holding := false } }
    else finish (event (rwStore (backToRun s) rwPwrRequest 0) evPwr 5)
  else ok s

/-! ### Trim -/

/-- The fuses as a module leaves the factory: dbgoff blown, the grade that goes with the ordering code, stepping B1, and
what the maker programmed elsewhere (00 R5, 20 R429, R430). -/
def shippedFuse (o : Nat) : Byte :=
  if o = 0 then BitVec.ofNat 8 (1 + 2 * (Config.orderingCode % 4 / 2) + 16 * (Config.orderingCode % 4))
  else if o = 4 then 0x21#8
  else Config.fuseByte o

/-- A byte of the fuses (20 R429). -/
def fuseAt (s : State) (o : Nat) : Byte := NMap.getD s.boot.fuses o (shippedFuse o)
def fuseBytes (s : State) (o n : Nat) : List Byte := (List.range n).map (fun k => fuseAt s (o + k))
def gradeX (s : State) : Bool := bitAt (fuseAt s 0).toNat 1

/-- The Trim and Off thresholds in 1/4 °C (00 R6). -/
def trimThreshold (s : State) : Int := if gradeX s then 400 else 380
def offThreshold (s : State) : Int := if gradeX s then 460 else 440

/-- The hottest of the measured junctions, with the lowest source number that reaches it. -/
def hottestOf : Nat → List Int → Option (Int × Nat)
  | _, [] => none
  | k, t :: ts => match hottestOf (k + 1) ts with
    | none => some (t, k)
    | some (u, j) => if u ≤ t then some (t, k) else some (u, j)

/-- The alert pin: driven while Trim is in force for temperature, until 3 °C below the threshold (21 R457). -/
def trimAlert (s : State) (hot : Int) (duty : Nat) : Bool :=
  (decide (trimThreshold s ≤ hot) || (s.power.trimTemp && decide (trimThreshold s - 12 < hot))) && duty != 0

/-- TRIM_EVALUATION: every 65,536 ticks, junction temperature and input power set gate_duty (20 R442). -/
def execTrimEvaluation (temps : List Int) (power : Nat) (s : State) : Host.Outcome State Fault Refusal :=
  match hottestOf 0 temps with
  | none => ok s
  | some (hot, src) =>
    if s.power.off || !s.clock.running || now s < s.power.lastEval + 65536 then ok s
    else
      let s1 := { s with power := { s.power with
        hottest := hot, source := src, watts := power, lastEval := now s } }
      if s.power.nap then ok s1
      else
        let th := trimThreshold s
        let d := s.power.duty
        let d1 := if th ≤ hot || s.cfg.powerCap < power then min 224 (d + 32)
                  else if hot ≤ th - 12 && power * 100 ≤ s.cfg.powerCap * 95 then d - 32 else d
        let s2 := if th ≤ hot then event s1 evPwr 4 else s1
        let s3 := if d = 0 && d1 != 0 then event s2 evPwr 0 else if d != 0 && d1 = 0 then event s2 evPwr 1 else s2
        let alert := trimAlert s hot d1
        ok { s3 with
          power := { s3.power with duty := d1, trim := d1 != 0, trimTemp := alert, gated := s.power.gated && d1 != 0,
                                   acc := if d = 0 then 0 else s3.power.acc }
          pads := { s3.pads with alertN := !alert } }

/-- TRIM_GATE_TICK: the gate accumulator decides whether this tick is gated (20 R441). -/
def execTrimGateTick (s : State) : Host.Outcome State Fault Refusal :=
  if s.power.trim && !s.power.off then
    let a := s.power.acc + s.power.duty
    if 256 ≤ a then ok { s with power := { s.power with acc := a - 256, gated := true } }
    else ok { s with power := { s.power with acc := a, gated := false } }
  else ok s

/-! ### Off -/

/-- Everything stops; the auxiliary domain holds the alert (20 R444, 21 R455, R457). -/
def goOff (s : State) : State :=
  { s with
    clock := { s.clock with running := false }
    power := { s.power with off := true, nap := false, entering := none, waking := none, trim := false, duty := 0 }
    kidLink := { s.kidLink with st := .down, width := 0, course := .training }
    spanLinks := s.spanLinks.map (fun p => (p.1, { p.2 with st := .down, width := 0 }))
    trestle := { s.trestle with on := false }
    pads := { s.pads with alertN := false, forcedOff := true } }

/-- A cause forces Off: a junction temperature in 1/4 °C once it reaches the threshold of the grade (00 R6, 20 R444). -/
def forcesOff (s : State) : OffCause → Bool
  | .junction q => decide (offThreshold s ≤ q)
  | .reference => true
  | .brownOut => true

/-- FORCED_OFF: a junction at the Off threshold, or the loss of the reference or of PLL lock (20 R444, R423). -/
def execForcedOff (cause : OffCause) (s : State) : Host.Outcome State Fault Refusal :=
  if s.power.off || !(forcesOff s cause) then ok s else ok (goOff s)

/-- BROWN_OUT: MAIN48 below 38 V or AUX33 below 3.0 V for over 10 µs forces Off; losing AUX33 while Off releases the
alert (21 R455, R456). -/
def execBrownOut (aux : Bool) (millivolts nanoseconds : Nat) (s : State) : Host.Outcome State Fault Refusal :=
  let low := if aux then decide (millivolts < 3000) else decide (millivolts < 38000)
  if !low || nanoseconds ≤ 10000 || !s.pads.resetN then ok s
  else if s.power.off then
    (if aux then ok { s with pads := { s.pads with alertN := true, forcedOff := false, mgmtOut := [] } } else ok s)
  else ok (goOff s)

/-! ### Cold reset -/

/-- The initial state; fuses and flash are not volatile, and the board's pins and the waiting commands are not the
device's (20 R424, R426, R429).  `gen` counts the fills of the Deck (log entry 5). -/
def coldState (s : State) : State :=
  { State.reset with
    boot := { State.reset.boot with fuses := s.boot.fuses, flash := s.boot.flash }
    deck := { State.reset.deck with gen := s.deck.gen }
    pads := { s.pads with alertN := true, forcedOff := false }
    free := s.free, pending := s.pending }

/-- COLD_RESET (20 R424). -/
def execColdReset (s : State) : Host.Outcome State Fault Refusal := ok (coldState s)

/-- RESET_N_LOW: RESET_N or BOARD_PG low for 10 µs or longer is a cold reset; shorter is filtered (21 R455). -/
def execResetNLow (boardPg : Bool) (nanoseconds : Nat) (s : State) : Host.Outcome State Fault Refusal :=
  if nanoseconds < 10000 then ok s
  else
    let s1 := coldState s
    ok { s1 with pads := if boardPg then { s1.pads with boardPg := false } else { s1.pads with resetN := false } }

/-- RESET_N_RELEASE: the board releases RESET_N with supplies good and BOARD_PG asserted (21 R454). -/
def execResetNRelease (s : State) : Host.Outcome State Fault Refusal :=
  if s.power.off then ok s else ok { s with pads := { s.pads with resetN := true, boardPg := true } }

/-- EXTEST, CLAMP or HIGHZ is in the instruction register (21 R459). -/
def jtagHolds (s : State) : Bool := s.pads.jtagIr == 0 || s.pads.jtagIr == 4 || s.pads.jtagIr == 5

/-- ROOT_PLL_LOCK: Keystone starts from zero on the next tick, and the Trestle leaves reset (20 R423, 03 R39). -/
def execRootPllLock (s : State) : Host.Outcome State Fault Refusal :=
  if s.pads.resetN && s.pads.boardPg && !s.power.off && !s.clock.running && s.boot.phase == 0 && !(jtagHolds s) then
    ok { s with clock := { running := true, ticks := 0, count := 0 }
                trestle := { s.trestle with on := true, slot := 0, cycleBase := 0 } }
  else ok s

end Sys2Proof.Machine
end

