-- ==== Sys2Proof/Machine/Time.lean ====
section
/-!
DEFINITION. Keystone: ticks, corrections, timing exchanges, lock and the timing tree (02 R18 to R24, 16 R341, R342).
-/

namespace Sys2Proof.Machine

open Sys2Proof

/-- One core tick: the device's tick count and slot counter move, and the count advances by `d` (02 R18, 03 R39). -/
def tickBy (s : State) (d : Nat) : State :=
  { s with
    clock := { s.clock with ticks := s.clock.ticks + 1, count := (s.clock.count + d) % 2 ^ 64 }
    trestle := if s.trestle.on then { s.trestle with slot := s.trestle.slot + 2 } else s.trestle }

/-- KEYSTONE_TICK: the count advances by 1 (02 R18); a stopped clock does not tick (20 R423, R444). -/
def execKeystoneTick (s : State) : Host.Outcome State Fault Refusal :=
  if s.clock.running then ok (tickBy s 1) else ok s

/-- The last accepted exchange is no older than 8,192 ticks (02 R24). -/
def exchangeFresh (s : State) : Bool :=
  match s.timing.lastAccepted with | some t => decide (s.clock.ticks ≤ t + 8192) | none => false

/-- Holdover: a device that has lost its lock goes on while its exchanges have stopped, in Nap among other cases
(02 R24; log entry 23). -/
def inHoldover (s : State) : Bool :=
  s.timing.everLocked && !s.timing.locked && !s.timing.isRoot && (s.power.nap || !(exchangeFresh s))

/-- The correction that may be applied: the scheduled one, or in holdover the one last scheduled (02 R22, R24). -/
def dueCorrection (s : State) : Option Bool :=
  match s.timing.correction with
  | some b => some b
  | none => if inHoldover s then s.timing.heldRate else none

/-- The tick that comes is at least 1,024 after that of the last correction, so that no 1,024 consecutive ticks hold two
(02 R18). -/
def correctionAllowed (s : State) : Bool :=
  match s.timing.lastCorrection with
  | none => true
  | some t => decide (t + 1024 ≤ s.clock.ticks)

/-- CORRECTION_TICK: the count advances by 0 or by 2, at most once in any 1,024 ticks, and moves the estimate and the
residual by one tick (02 R18, R22, Exchanges). -/
def execCorrectionTick (s : State) : Host.Outcome State Fault Refusal :=
  match dueCorrection s with
  | none => ok s
  | some up =>
    if s.clock.running && correctionAllowed s then
      let d : Int := if up then 64 else -64
      let s1 := tickBy s (if up then 2 else 0)
      ok { s1 with timing := { s1.timing with
        est := s.timing.est + d, residual := s.timing.residual + d
        correction := none, lastCorrection := some s.clock.ticks } }
    else ok s

/-- A capture: the count in 1/64 tick modulo 2^44 (16 R341). -/
def capture (s : State) (frac : Nat) : Nat := (s.clock.count * 64 + frac) % 2 ^ 44

def getTiming (s : State) (p : Nat) : PortTiming := NMap.getD s.span.timing p PortTiming.reset

def setTiming (s : State) (p : Nat) (t : PortTiming) : State :=
  { s with span := { s.span with timing := NMap.set s.span.timing p t } }

/-- The residual as a timing record carries it: clamped to ±524,287, 20 bits (16 R341). -/
def residualBits (z : Int) : Nat := intBits 20 (max (-524287) (min 524287 z))

/-- The 128-bit timing record of a frame (16 R341). -/
def timingBits (s : State) (t : PortTiming) : Nat :=
  t.txCapture + t.rxCapture * 2 ^ 44 + residualBits s.timing.residual * 2 ^ 88 + t.tnum * 2 ^ 108 +
  t.rxTnum * 2 ^ 116 + (if s.timing.locked then 2 ^ 124 else 0) + (if s.timing.isRoot then 2 ^ 125 else 0)

/-- TIMING_FRAME_SEND: an ACTIVE port sends a frame with a timing record every 2,048 ticks (16 R341). -/
def execTimingFrameSend (port : Fin 8) (frac : Fin 64) (s : State) : Host.Outcome State Fault Refusal :=
  let l := getSpanLink s port
  let t := getTiming s port
  if l.st = .active ∧ t.lastSent + 2048 ≤ s.clock.ticks ∧ l.replay.length < 64 then
    let rec_ := timingBits s t
    let s1 := setTiming s port { t with
      tnum := (t.tnum + 1) % 256, txCapture := capture s frac, lastSent := s.clock.ticks }
    ok (setSpanLink s1 port (putFrame l (newFrame l 1 [] [] (some rec_))))
  else ok s

/-- The parent port in use (02 R21, 20 R435). -/
def parentPort (s : State) : Nat := leAt (cfgSection s 1) (if s.timing.onAlternate then 7 else 6) 1

def rootId (s : State) : Nat := leAt (cfgSection s 1) 2 2 % 4096
def standbyId (s : State) : Nat := leAt (cfgSection s 1) 4 2 % 4096

/-- A signed difference of two captures modulo 2^44. -/
def capDiff (a b : Nat) : Int := sintOf 44 (a + 2 ^ 44 - b % 2 ^ 44)

/-- Insert into an ascending list. -/
def insertInt (x : Int) : List Int → List Int
  | [] => [x]
  | y :: ys => if x ≤ y then x :: y :: ys else y :: insertInt x ys

def sortInts (xs : List Int) : List Int := xs.foldr insertInt []

/-- The median; of an even number of values, the mean of the middle two rounded toward zero (log entry 6). -/
def medianInt (xs : List Int) : Int :=
  let ys := sortInts xs
  let n := ys.length
  if n = 0 then 0
  else if n % 2 = 1 then ys.getD (n / 2) 0
  else Int.tdiv (ys.getD (n / 2 - 1) 0 + ys.getD (n / 2) 0) 2

/-- No work item of any context is running: none of the scheduler's, and no block of a stream on a Pier (12 R268). -/
def noneRunning (s : State) : Bool :=
  s.sched.items.all (fun p => p.2.st != .running) &&
  s.ctxs.all (fun c => c.2.streams.all (fun t => t.2.blocks.all (fun b => b.done || b.pier == 256)))

/-- The device may step forward: it has not been locked since reset, or it is leaving Nap with nothing running
(02 R22). -/
def mayStep (s : State) : Bool := !s.timing.everLocked || (s.timing.stepOk && noneRunning s)

/-- A forward step to the nearest whole count when the estimate lies more than 64 ticks behind (02 R22).  DESIGN CHOICE
(log entries 9 and 154): the eight stored offsets move by the step, and an estimate half a tick off goes to the higher
count. -/
def forwardStep (s : State) : State :=
  if mayStep s ∧ s.timing.est < -4096 then
    let up : Int := (32 - s.timing.est) / 64
    let s1 := event s evSync 2
    { s1 with
      clock := { s1.clock with count := (s1.clock.count + up.toNat) % 2 ^ 64 }
      timing := { s1.timing with
        stepOk := false, est := s1.timing.est + 64 * up, residual := s1.timing.est + 64 * up
        samples := s1.timing.samples.map (· + 64 * up) } }
  else s

/-- A correction tick is scheduled outside the deadband of ±32 units (02, under Exchanges). -/
def scheduleCorrection (s : State) : State :=
  if 32 < s.timing.est then
    { s with timing := { s.timing with correction := some false, heldRate := some false } }
  else if s.timing.est < -32 then
    { s with timing := { s.timing with correction := some true, heldRate := some true } }
  else { s with timing := { s.timing with correction := none, heldRate := none } }

/-- The lock conditions of R24 for a device other than the root. -/
def lockHolds (s : State) : Bool :=
  s.timing.parentLocked && !s.power.nap && exchangeFresh s &&
  decide (s.timing.est ≤ 64) && decide (-64 ≤ s.timing.est)

/-- Gain lock when the conditions hold and the device is unlocked (02 R20, R24). -/
def gainLock (s : State) : State :=
  if !s.timing.locked && !s.timing.isRoot && lockHolds s then
    let s1 := event s evSync 1
    { s1 with timing := { s1.timing with locked := true, everLocked := true, stepOk := false, gain := s1.clock.count } }
  else s

/-- The child's part of an exchange: filter, estimate, step or correct (02 Exchanges, R22 to R24). -/
def exchange (s : State) (t1 t2 t3 t4 : Nat) (parentResidual : Int) : State :=
  let x := capDiff t2 t1
  let y := capDiff t4 t3
  let delay := Int.tdiv (x + y) 2
  if delay < 2560 ∨ 64000 < delay then s
  else
    let off := Int.tdiv (x - y) 2 + parentResidual
    let samples := (s.timing.samples ++ [off]).drop (s.timing.samples.length + 1 - 8)
    let est := medianInt samples
    let s1 := { s with timing := { s.timing with
      samples := samples, est := est, residual := est, lastAccepted := some s.clock.ticks } }
    gainLock (scheduleCorrection (forwardStep s1))

/-- TIMING_RECORD: a received record completes an exchange with the record before it (16 R342). -/
def execTimingRecord (port : Fin 8) (record : BitVec 128) (frac : Fin 64) (replayed : Bool) (s : State) :
    Host.Outcome State Fault Refusal :=
  if (getSpanLink s port).st != .active || s.power.off then ok s else
  let r := record.toNat
  let t := getTiming s port
  let tnum := bitsAt r 108 8
  let rxTnum := bitsAt r 116 8
  let consecutive := t.record.isSome && decide (tnum = (t.rxTnum + 1) % 256)
  let s1 := setTiming s port { t with
    rxCapture := capture s frac, rxTnum := tnum, record := if replayed then none else some r }
  let s2 := if bitAt r 125 then { s1 with timing := { s1.timing with lastRoot := s1.clock.ticks } } else s1
  if s2.timing.isRoot || !s2.cfg.loaded || parentPort s2 != port.val || replayed then ok s2
  else
    let s3 := { s2 with timing := { s2.timing with
      parentLocked := bitAt r 124, lastParent := s2.clock.ticks, depth := hopsTo s2 (rootId s2) } }
    if consecutive && rxTnum == (t.tnum + 255) % 256 then
      ok (exchange s3 (bitsAt r 0 44) t.rxCapture t.txCapture (bitsAt r 44 44) (sintOf 20 (bitsAt r 88 20)))
    else ok (gainLock s3)

/-- LOCK_LOST: a condition of R24 no longer holds; the device goes on in holdover. -/
def execLockLost (s : State) : Host.Outcome State Fault Refusal :=
  if s.timing.locked && !s.timing.isRoot && !(lockHolds s) then
    let s1 := event s evSync 0
    ok { s1 with timing := { s1.timing with locked := false, loss := s1.clock.count } }
  else ok s

/-- PARENT_TIMEOUT: after 16,384 ticks without an answer, the device moves to its alternate parent (02 R21).  DESIGN CHOICE
(log entry 155): the last eight offsets belong to the old parent and are forgotten, and the new parent counts as unlocked
until it says that it is locked. -/
def execParentTimeout (s : State) : Host.Outcome State Fault Refusal :=
  if s.cfg.loaded && !s.timing.isRoot && !s.timing.onAlternate && leAt (cfgSection s 1) 7 1 != 255 &&
      decide (s.timing.lastParent + 16384 ≤ s.clock.ticks) then
    let s1 := event s evSync 3
    ok { s1 with timing := { s1.timing with
      onAlternate := true, lastParent := s1.clock.ticks, samples := [], parentLocked := false } }
  else ok s

/-- Take the root role: locked from this tick, with an estimate of zero (02 R21, R24). -/
def takeRoot (s : State) : State :=
  let s1 := event s evSync 3
  let s2 := if s.timing.locked then s1 else
    let s' := event s1 evSync 1
    { s' with timing := { s'.timing with gain := s'.clock.count } }
  { s2 with timing := { s2.timing with
    isRoot := true, locked := true, everLocked := true, est := 0, residual := 0, depth := 0, correction := none,
    heldRate := none, samples := [] } }

/-- ROOT_TIMEOUT: the standby root takes the root role and keeps its count (02 R21). -/
def execRootTimeout (s : State) : Host.Outcome State Fault Refusal :=
  if s.cfg.loaded && !s.timing.isRoot && standbyId s == deviceId s &&
      decide (s.timing.lastRoot + 16384 ≤ s.clock.ticks) then ok (takeRoot s)
  else ok s

end Sys2Proof.Machine
end

