-- ==== Sys2Proof/Machine/Boot.lean ====
section
/-!
DEFINITION. Boot, the firmware image, fuses, the mailbox commands and the configuration package (20 R425 to R437, R448,
R449; 03 R41; 16 R344, R345; 17 R368; 18 R398).
-/

namespace Sys2Proof.Machine

open Sys2Proof

/-! ### Fuses and flash -/

def bitCount (n : Nat) : Nat := ((List.range 64).filter (bitAt n)).length

/-- The rollback count of the fuses (20 R427). -/
def rollbackCount (s : State) : Nat := bitCount (leNat (fuseBytes s 0x148 8))

/-- Blow fuse bits: a bit, once blown, stays 1 (20 R429). -/
def blow (s : State) (o : Nat) (bs : List Byte) : State :=
  { s with boot := { s.boot with fuses := ((List.range bs.length).zip bs).foldl (fun m q =>
      NMap.set m (o + q.1) (fuseAt s (o + q.1) ||| q.2)) s.boot.fuses } }

def ownerSet (s : State) : Bool := bitAt (fuseAt s 1).toNat 0

def flashBytes (s : State) (o n : Nat) : List Byte :=
  (List.range n).map (fun k => NMap.getD s.boot.flash (o + k) (Config.flashByte (o + k)))

/-- A point or a signature of P-521: two little-endian numbers of 66 bytes (20 R426, R434). -/
def pairOf (bs : List Byte) : Nat × Nat := (leAt bs 0 66, leAt bs 66 66)

def pairBytes (p : Nat × Nat) : List Byte := natLE p.1 66 ++ natLE p.2 66

/-- A signature of 132 bytes by a key of 132 bytes over a message verifies. -/
def signedBy (key sig msg : List Byte) : Bool :=
  ecdsaVerify (pairOf key).1 (pairOf key).2 msg (pairOf sig).1 (pairOf sig).2

/-! ### ROM and Init -/

/-- The Recovery reason for the image in the flash; none when it is accepted (20 R426, R427, R431). -/
def imageReason (s : State) : Option Nat :=
  let h := flashBytes s 0 256
  let len := leAt h 8 4
  let slot := leAt h 20 1 % 4
  let key := slice h 64 132
  if leAt h 0 4 != 0x57464C49 then some 1
  else if leAt h 4 4 != 1 || len < 256 || 6 * 2 ^ 20 < len || 64 < leAt h 12 4 || 4 ≤ leAt h 20 1 || 4 ≤ leAt h 21 1 ||
      !(allZero (slice h 22 2)) || !(allZero (slice h 32 32)) || !(allZero (slice h 196 60)) then some 2
  else if sha512 key != fuseBytes s (0x40 + 64 * slot) 64 || bitAt (fuseAt s 0x140).toNat slot then some 3
  else if !(signedBy key (flashBytes s len 132) (flashBytes s 0 len)) then some 4
  else if leAt h 12 4 < rollbackCount s then some 5
  else none

/-- ROM_PHASE_END: the image is checked; the device goes on to Init or enters Recovery, and the Kiduner link trains
(20 R425, R427, R428). -/
def execRomPhaseEnd (s : State) : Host.Outcome State Fault Refusal :=
  if s.boot.phase != 0 || !s.clock.running || s.power.off then ok s
  else match imageReason s with
    | some r =>
      let s1 := startTraining s 0
      ok { s1 with boot := { s1.boot with phase := 1, reason := r }, kidLink := { s1.kidLink with course := .recovery } }
    | none =>
      let h := flashBytes s 0 256
      let len := leAt h 8 4
      let s1 := startTraining s 0
      ok { s1 with boot := { s1.boot with phase := 2, header := h, imageLen := len, digest := sha512 (flashBytes s 0 len) } }

/-- INIT_PHASE_END: units that fail their tests at boot are lost; the device awaits its configuration, or is out of
service (20 R425; 17 R382, 18 R392, R401). -/
def execInitPhaseEnd (badChannels badPiers : List Nat) (s : State) : Host.Outcome State Fault Refusal :=
  match badChannels.find? (fun c => decide (512 ≤ c)), badPiers.find? (fun p => decide (256 ≤ p)) with
  | some c, _ => .fault (.noSuchUnit c)
  | none, some p => .fault (.noSuchUnit p)
  | none, none =>
    if s.boot.phase != 2 || s.power.off then ok s
    else
      let s1 := badPiers.foldl losePier (badChannels.foldl loseChannel s)
      if mustLeave s1 then finish (leaveService s1)
      else
        let s2 := { s1 with boot := { s1.boot with phase := 3 } }
        finish ((List.range 8).foldl (fun s p => startTraining s (p + 1)) s2)

/-! ### The mailbox -/

/-- A mailbox command of this code runs; in Nap only IDENTITY does (20 R432). -/
def mbxRuns (s : State) (code : Nat) : Bool :=
  s.boot.busy && s.boot.cmd % 256 == code && !s.power.off &&
  (code == 1 || !(s.power.nap || s.power.entering.isSome || s.power.waking.isSome))

/-- The command completes with a status of R4 and a reason of R436 (20 R431). -/
def mbxEnd (s : State) (status detail : Nat) : State :=
  { s with boot := { s.boot with
    busy := false, respStatus := status, respTag := s.boot.cmd / 65536, detail := detail
    landed := [], asked := [], waiting := 0, failed := false } }

def mbxArg (s : State) (o n : Nat) : List Byte := memTake zeroByte s.boot.arg (0x1000 + o) n

def mbxOut (s : State) (o : Nat) (bs : List Byte) : State :=
  { s with boot := { s.boot with out := memPut zeroByte s.boot.out o bs } }

def identityNumber (s : State) : Nat := Config.identityKey (fuseBytes s 0x200 256)

/-- The identity report (20 R448). -/
def identityReport (s : State) : List Byte :=
  let f := (fuseAt s 0).toNat
  natLE 0x44494C49 4 ++ natLE 0x4816 2 ++ fuseBytes s 4 1 ++ natLE (bitsAt f 4 2) 1 ++ natLE (bitsAt f 1 1) 1 ++
  natLE (bitsAt f 0 1 + (if ownerSet s then 2 else 0)) 1 ++ natLE (deviceId s) 2 ++ natLE (leAt s.boot.header 12 4) 4 ++
  natLE (leAt s.boot.header 24 8) 8 ++ fuseBytes s 0x10 16 ++ natLE (rollbackCount s) 1 ++ zeros 7 ++
  pairBytes (ecPublic (identityNumber s)) ++ natLE Config.certLen 4 ++ zeros 72

/-- IDENTITY (20 R432, R448). -/
def execIdentity (s : State) : Host.Outcome State Fault Refusal :=
  if mbxRuns s 1 then
    let s1 := mbxOut s 0x8000 (identityReport s)
    ok (mbxEnd (mbxOut s1 0x8100 (flashBytes s 0xF00000 (min Config.certLen 0x7F00))) 0 0)
  else ok s

/-- Piers and channels lost, as TRESTLE_STATE and DECK_STATE report them (03 R52, 17 R387). -/
def piersOut (s : State) : Nat := ((List.range 256).filter (fun p => (getPier s p).lost)).length
def channelsOut (s : State) : Nat := s.deck.lost.length

/-- The attestation report (20 R449). -/
def attestReport (s : State) : List Byte :=
  let p := s.cfg.package
  identityReport s ++ mbxArg s 0 64 ++ (if s.boot.digest.isEmpty then zeros 64 else s.boot.digest) ++
  (if s.cfg.loaded then sha512 (p.take (p.length - 132)) else zeros 64) ++ natLE s.clock.count 8 ++
  natLE s.boot.phase 1 ++ natLE (s.cfg.overlay.getD 255) 1 ++
  natLE (match s.cfg.overlay with | some i => leAt (overlayImage s i) 5 1 | none => 0) 1 ++
  natLE (if s.heal.outOfService then 1 else 0) 1 ++ natLE (piersOut s) 2 ++ natLE (channelsOut s) 2 ++ zeros 48

/-- ATTEST: the report and its signature by the identity key (20 R432, R449). -/
def execAttest (s : State) : Host.Outcome State Fault Refusal :=
  if mbxRuns s 2 then
    let r := attestReport s
    ok (mbxEnd (mbxOut s 0x8000 (r ++ pairBytes (ecdsaSign (identityNumber s) r))) 0 0)
  else ok s

/-- OWNER_SET: once for the life of the module, in phase 3 (20 R433). -/
def execOwnerSet (s : State) : Host.Outcome State Fault Refusal :=
  if !(mbxRuns s 5) then ok s
  else if ownerSet s || s.boot.phase != 3 then ok (mbxEnd s 0x14 0)
  else ok (mbxEnd (blow (blow s 0x180 (mbxArg s 0 64)) 1 [1#8]) 0 0)

/-- The reads of a mailbox command: host memory at the address of MBX_ARG, inside a window or not (20 R432). -/
inductive MbxRead where
  | outside
  | ask (s : State)
  | waits
  | failed
  | got (bs : List Byte)
deriving DecidableEq, Repr

def mbxRead (s : State) (limit : Nat) : MbxRead :=
  let a := leNat (mbxArg s 0 8)
  let n := leNat (mbxArg s 8 8)
  let g := gAddr (deviceId s) (hostBase + a)
  if 2 ^ 44 < a + n || limit < n then .outside
  else if n != 0 && s.boot.asked.isEmpty then
    .ask (issueReads { s with boot := { s.boot with asked := [(g, n)], waiting := (pieces g n).length } } .mbx 0 g n)
  else if s.boot.waiting != 0 then .waits
  else if s.boot.failed then .failed
  else .got (memTake zeroByte s.boot.landed g n)

/-- FLASH_WRITE: the bytes replace the flash from offset 0; in Recovery a cold reset follows (20 R428, R432). -/
def execFlashWrite (s : State) : Host.Outcome State Fault Refusal :=
  if !(mbxRuns s 4) then ok s
  else match mbxRead s (15 * 2 ^ 20) with
    | .outside => ok (mbxEnd s 0x11 0)
    | .ask t => finish t
    | .waits => ok s
    | .failed => ok (mbxEnd s 0x21 0)
    | .got bs =>
      let s1 := { s with boot := { s.boot with flash := memPut Config.flashByte s.boot.flash 0 bs } }
      let s2 := mbxEnd s1 0 0
      ok (if s.boot.phase = 1 then coldState s2 else s2)

/-! ### Checks of a package -/

/-- The directory's entries that are present: index, offset, length (20 R434). -/
def pkgDir (p : List Byte) : List (Nat × Nat × Nat) :=
  ((List.range 9).map (fun k => (k, leAt p (64 + 16 * k) 8, leAt p (72 + 16 * k) 8))).filter (fun e => e.2.2 != 0)

/-- The header and directory of a package are within R434. -/
def pkgHeaderOk (p : List Byte) : Bool :=
  decide (520 ≤ p.length) && leAt p 0 4 == 0x50434C49 && leAt p 4 4 == 1 && leAt p 8 8 == p.length &&
  (leAt p 32 1 == 255 || (decide (leAt p 32 1 < 8) && leAt p (72 + 16 * (1 + leAt p 32 1)) 8 != 0)) &&
  allZero (slice p 33 31) && allZero (slice p 208 48) && leAt p 72 8 != 0 &&
  (pkgDir p).all (fun e => decide (256 ≤ e.2.1) && decide (e.2.1 + e.2.2 ≤ p.length - 264))

/-- An overlay image, or a SETTINGS section, is within the layout of R437. -/
def overlayOk (img : List Byte) (index : Nat) (settings : Bool) : Bool :=
  decide (64 ≤ img.length) && decide (img.length ≤ 65536) && leAt img 0 4 == 0x564F4C49 && leAt img 4 1 == index &&
  (if settings then leAt img 5 1 == 0 else decide (1 ≤ leAt img 5 1) && decide (leAt img 5 1 ≤ 4)) &&
  decide (leAt img 6 1 < 4) && leAt img 7 1 == 0 && decide (300 ≤ leAt img 8 2) && decide (leAt img 8 2 ≤ 1800) &&
  decide (leAt img 10 2 ≤ 8184) && img.length == 64 + 8 * leAt img 10 2 && allZero (slice img 12 52)

/-- The 64 bytes of a DEVICE section are within R435, R404 and R398. -/
def deviceOk (d windows : List Byte) : Bool :=
  let port := fun k => decide (leAt d k 1 < 8) || leAt d k 1 == 255
  let a := leAt d 32 8
  let n := 64 + 64 * 2 ^ leAt d 40 1
  d.length == 64 && decide (leAt d 0 2 < 4096) && decide (leAt d 2 2 < 4096) && decide (leAt d 4 2 < 4096) &&
  port 6 && port 7 && allZero (slice d 41 23) &&
  (bitsAt (leAt d 20 8) 62 2 == 2 || (bitsAt (leAt d 20 8) 62 2 == 1 && bitsAt (leAt d 20 8) 44 18 == 0)) &&
  a % 64 == 0 && decide (8 ≤ leAt d 40 1) && decide (leAt d 40 1 ≤ 20) &&
  (List.range (windows.length / 16)).any (fun k => decide (leAt windows (16 * k) 8 ≤ a) &&
    decide (a + n ≤ leAt windows (16 * k) 8 + leAt windows (16 * k + 8) 8))

/-- Host windows: 4 KiB aligned, 16 TiB together (17 R373). -/
def windowsOk (w : List Byte) : Bool :=
  w.length % 16 == 0 && decide (w.length ≤ 1024) &&
  (List.range (w.length / 16)).all (fun k => leAt w (16 * k) 8 % 4096 == 0 && leAt w (16 * k + 8) 8 % 4096 == 0 &&
    decide (leAt w (16 * k) 8 + leAt w (16 * k + 8) 8 ≤ 2 ^ 44)) &&
  decide ((List.range (w.length / 16)).foldl (fun a k => a + leAt w (16 * k + 8) 8) 0 ≤ 2 ^ 44)

def targetsOk (w : List Byte) : Bool :=
  w.length % 32 == 0 && decide (w.length ≤ 1024) &&
  (List.range (w.length / 32)).all (fun k =>
    let b := w.drop (32 * k)
    decide (leAt b 0 1 < 2) && decide (leAt b 1 1 < 16) && leAt b 2 2 == 0 && allZero (slice b 26 6))

/-- The frames of a slot table's cycle: 1, 2, 4, 8 or 16 (03 R39, R40). -/
def slotLengthOk (t : List Byte) : Bool :=
  let f := t.length / (1024 * 272 * 4)
  t.length % (1024 * 272 * 4) == 0 && [1, 2, 4, 8, 16].contains f

/-- The header, section directory, lengths and reserved fields of a base image are within R435. -/
def baseOk (img : List Byte) : Bool :=
  let n := leAt img 4 1
  let dir := (List.range n).map (fun k => img.drop (64 + 16 * k))
  let types := dir.map (fun e => leAt e 0 1)
  let sec := fun ty => (sectionIn img ty).getD []
  decide (64 ≤ img.length) && leAt img 0 4 == 0x43424C49 && decide (1 ≤ n) && decide (n ≤ 16) &&
  allZero (slice img 5 59) &&
  dir.all (fun e => [1, 2, 3, 4, 5, 6, 8, 9, 10, 11].contains (leAt e 0 1) && allZero (slice e 1 3) &&
    decide (64 + 16 * n ≤ leAt e 8 8) && decide (leAt e 8 8 + leAt e 4 4 ≤ img.length)) &&
  types.all (fun t => (types.filter (· == t)).length == 1) && [1, 4, 6, 8].all types.contains &&
  windowsOk (sec 2) && deviceOk (sec 1) (sec 2) && targetsOk (sec 3) && (sec 4).length == 16384 &&
  (sec 5).length % 32 == 0 && decide ((sec 5).length ≤ 32768) && overlayOk (sec 6) 255 true &&
  [8, 9, 10, 11].all (fun t => match sectionIn img t with | some b => slotLengthOk b | none => true)

/-! ### Slot tables (03 R40, R41) -/

/-- What an entry grants: a Deck channel, an endpoint or nothing. -/
def slotEntry (t : List Byte) (slot e : Nat) : Nat := leAt t ((slot * 272 + e) * 4) 4

def slotField (v : Nat) : Bool := decide (v < 784) || v == 1023

/-- The grants of channels in a slot: channel, endpoint, and whether the endpoint reads. -/
def slotGrants (t : List Byte) (slot : Nat) : List (Nat × Nat × Bool) :=
  (List.range 272).flatMap (fun e =>
    let w := slotEntry t slot e
    (if bitsAt w 0 10 < 512 then [(bitsAt w 0 10, e, true)] else []) ++
    (if bitsAt w 10 10 < 512 then [(bitsAt w 10 10, e, false)] else []))

/-- One entry of a slot holds no reserved value, names not itself, has its mirror, and is idle in a light slot. -/
def slotEntryOk (t : List Byte) (slot e : Nat) : Bool :=
  let w := slotEntry t slot e
  let a := bitsAt w 0 10
  let b := bitsAt w 10 10
  slotField a && slotField b && bitsAt w 20 12 == 0 && a != 512 + e && b != 512 + e &&
  (!(decide (512 ≤ b) && decide (b < 784)) || bitsAt (slotEntry t slot (b - 512)) 0 10 == 512 + e) &&
  (!(decide (512 ≤ a) && decide (a < 784)) || bitsAt (slotEntry t slot (a - 512)) 10 10 == 512 + e) &&
  (slot % 16 < 14 || (a == 1023 && b == 1023))

/-- No element stands twice. -/
def distinct : List Nat → Bool
  | [] => true
  | x :: xs => !(xs.contains x) && distinct xs

/-- The pairs of a channel over the cycle: the pair's number and whether it reads. -/
def channelPairs (t : List Byte) (slots c : Nat) : List (Nat × Bool) :=
  (List.range (slots / 2)).filterMap (fun k =>
    (List.find? (fun (g : Nat × Nat × Bool) => g.1 == c) (slotGrants t (2 * k))).map (fun g => (k, g.2.2)))

/-- The pairs of a channel in a frame, with four more for each change of direction from the pair before. -/
def frameLoad (ps : List (Nat × Bool)) (f : Nat) : Nat :=
  let last := ps.getLast?
  (ps.foldl (fun (acc : Nat × Option (Nat × Bool)) p =>
    let change := match acc.2 with | some q => q.2 != p.2 | none => false
    ((if p.1 / 512 = f then acc.1 + 1 + (if change then 4 else 0) else acc.1), some p)) (0, last)).1

/-- A slot table passes the checks of R41. -/
def slotTableOk (t : List Byte) : Bool :=
  let frames := t.length / (1024 * 272 * 4)
  let slots := frames * 1024
  (List.range slots).all (fun k => (List.range 272).all (slotEntryOk t k) && distinct ((slotGrants t k).map (·.1))) &&
  (List.range (slots / 2)).all (fun k => slotGrants t (2 * k) == slotGrants t (2 * k + 1)) &&
  (List.range 512).all (fun c =>
    let ps := channelPairs t slots c
    (List.range frames).all (fun f => decide (frameLoad ps f ≤ 176)))

/-! ### Routes, windows and the Deck map -/

/-- The route table of a device passes R345. -/
def routesOk (r : List Byte) (own : Nat) : Bool :=
  leAt r (4 * own) 4 == 0 &&
  (List.range 4096).all (fun d =>
    let e := leAt r (4 * d) 4
    bitsAt e 20 12 == 0 && (bitsAt e 16 4 == 0 || (bitsAt e 0 8 != 0 && decide (bitsAt e 16 4 ≤ 12))))

/-- Every inbound window passes R344 under the Deck map and host windows of `t`. -/
def inboundOk (t : State) (w : List Byte) : Bool :=
  (List.range (w.length / 32)).all (fun k =>
    let b := w.drop (32 * k)
    let base := leAt b 0 8
    let len := leAt b 8 8
    let fl := leAt b 22 1
    let deck := decide (base < deckTop)
    base % 64 == 0 && decide (base < 2 ^ 52) && len % 64 == 0 && decide (fl < 16) && allZero (slice b 23 9) &&
    (if deck then !(bitAt fl 3) && (inMirrored t base len || inPlain t base len)
     else !(bitAt fl 2) && decide (hostBase ≤ base) && decide (base + len ≤ hostBase + 2 ^ 44)))

/-- The Deck map passes R368, and the spill size R398. -/
def mapOk (img : List Byte) : Bool :=
  let d := (sectionIn img 1).getD []
  let m := leAt d 8 4
  let dv := leAt d 12 4
  let c := leAt d 16 4
  decide (16 ≤ m) && decide (m ≤ 512) && m % 16 == 0 && decide (4 ≤ dv) && decide (dv + 4 ≤ m) && decide (c ≤ 256) &&
  decide (min 896 (1920 - c - 2 * m) ≤ leAt d 28 4)

/-- The registers that an overlay may set (20 R437). -/
def overlayRegs : List Nat :=
  [rwRecordBudget, rwItemBudget, rwTimeout, rwSlice, rwMigrateRate, rwJournalLevel, rwAuditRate, rwResend]

def overlayNames (img : List Byte) (p : List Byte) : Bool :=
  (sectionIn img (8 + leAt p 6 1)).isSome && (overlayEntries p).all (fun e => overlayRegs.contains e.1)

/-- The status and reason of the first check of R436 that a package fails. -/
def packageFault (s : State) (p : List Byte) : Option (Nat × Nat) :=
  let img := pkgImage p 0
  let ovs := (List.range 8).filter (fun i => leAt p (72 + 16 * (1 + i)) 8 != 0)
  let key := slice p (p.length - 264) 132
  let t := { s with cfg := { s.cfg with package := p, loaded := true } }
  if !(ownerSet s) || !s.ctxs.isEmpty || s.cfg.pending.isSome then some (0x14, 9)
  else if !(allZero (slice p 16 16)) && slice p 16 16 != fuseBytes s 0x10 16 then some (0x14, 8)
  else if !(pkgHeaderOk p && baseOk img && ovs.all (fun i => overlayOk (pkgImage p (1 + i)) i false)) then some (0x10, 1)
  else if sha512 key != fuseBytes s 0x180 64 || !(signedBy key (slice p (p.length - 132) 132) (p.take (p.length - 132)))
    then some (0x10, 2)
  else if !([8, 9, 10, 11].all (fun k => match sectionIn img k with | some b => slotTableOk b | none => true)) then
    some (0x10, 4)
  else if !(routesOk ((sectionIn img 4).getD []) (deviceId t) && inboundOk t ((sectionIn img 5).getD [])) then some (0x10, 5)
  else if !(mapOk img) then some (0x11, 6)
  else if !(overlayNames img ((sectionIn img 6).getD []) && ovs.all (fun i => overlayNames img (pkgImage p (1 + i)))) then
    some (0x10, 7)
  else none

/-! ### LOAD_CONFIG -/

/-- The flags of the image act at the first load since the cold reset (20 R427). -/
def actOnFlags (s : State) : State :=
  if s.boot.rollbackDone then s
  else
    let h := s.boot.header
    let fl := leAt h 21 1
    let cur := leNat (fuseBytes s 0x148 8)
    let want := leAt h 12 4
    let bits := ((List.range 64).filter (fun k => !(bitAt cur k))).take (want - bitCount cur)
    let s1 := if bitAt fl 0 then blow s 0x148 (natLE (bits.foldl (fun a k => a + 2 ^ k) 0) 8) else s
    let s2 := if bitAt fl 1 then blow s1 0x140 (natLE (2 ^ (leAt h 20 1 % 4) - 1) 1) else s1
    { s2 with boot := { s2.boot with rollbackDone := true } }

/-- The timing tree of a package that has just come into force (02 R20 to R24). -/
def startTiming (s : State) : State :=
  let s := { s with timing := { s.timing with onAlternate := false, lastParent := now s, lastRoot := now s } }
  if rootId s = deviceId s then (if s.timing.isRoot then s else takeRoot s)
  else
    let s1 := if s.timing.locked then
        let s' := event s evSync 0
        { s' with timing := { s'.timing with loss := s'.clock.count } } else s
    { s1 with timing := { s1.timing with
      locked := false, isRoot := false, parentLocked := false, est := 0, residual := 0, samples := []
      lastAccepted := none, correction := none, heldRate := none } }

/-- The healing log of the configuration in force (18 R404). -/
def logOfConfig (s : State) : Log :=
  let d := cfgSection s 1
  { Log.none with base := gAddr (deviceId s) (hostBase + leAt d 32 8), log2 := leAt d 40 1 }

/-- A checked package comes into force as a whole (20 R436). -/
def putInForce (s : State) (p : List Byte) : State :=
  let old := if s.cfg.loaded then some (deckMap s) else none
  let s1 := { s with cfg := { s.cfg with package := p, loaded := true }, boot := { s.boot with phase := if s.heal.outOfService then 5 else 4 } }
  let s2 := if old = some (deckMap s1) then s1
    else { s1 with deck := { s1.deck with gen := s1.deck.gen + 1, mem := [] }
                   tables := { s1.tables with versions := [] } }
  let l := logOfConfig s2
  let s3 := if s.heal.log.base = l.base ∧ s.heal.log.log2 = l.log2 then s2
            else { s2 with heal := { s2.heal with log := l } }
  let first := applyEntries (startTiming s3) (cfgSection s3 6)
  let ov := leAt p 32 1
  let s4 := bringOverlay first (if ov = 255 then none else some ov) s.clock.count
  let s5 := { s4 with trestle := { s4.trestle with
    table := (match s4.trestle.nextTable with | some (t, _) => t | none => 0), nextTable := none, cycleBase := 0 } }
  actOnFlags s5

/-- LOAD_CONFIG: the package is read, checked in the order of R436, and put in force (20 R432, R436). -/
def execLoadConfig (s : State) : Host.Outcome State Fault Refusal :=
  if !(mbxRuns s 3) then ok s
  else if !(ownerSet s) || !s.ctxs.isEmpty || s.cfg.pending.isSome then ok (mbxEnd s 0x14 9)
  else match mbxRead s (2 ^ 44) with
    | .outside => ok (mbxEnd s 0x11 0)
    | .ask t => finish t
    | .waits => ok s
    | .failed => ok (mbxEnd s 0x21 0)
    | .got p =>
      match packageFault s p with
      | some (st, r) => ok (mbxEnd s st r)
      | none => finish (putInForce (mbxEnd s 0 0) p)

end Sys2Proof.Machine
end

