-- ==== Sys2Proof/Machine/Pads.lean ====
section
/-!
DEFINITION. The management interface and boundary scan (21 R457 to R459).
-/

namespace Sys2Proof.Machine

open Sys2Proof

/-- The state field of PWR_STATE, with 3 for Off (19 R422, 21 R458). -/
def powerCode (s : State) : Nat :=
  if s.power.off then 3 else if s.power.nap then 2 else if s.power.trim then 1 else 0

/-- The management record (21 R458). -/
def mgmtRecord (s : State) : List Byte :=
  natLE 0x4816 2 ++ natLE (if s.power.off then 255 else s.boot.phase) 1 ++ natLE (powerCode s) 1 ++
  natLE (if s.power.off then 0 else intBits 16 s.power.hottest) 2 ++ natLE (if s.power.off then 0 else s.power.watts) 2 ++
  natLE ((if s.pads.alertN then 0 else 1) + (if s.heal.outOfService then 2 else 0) + (if s.pads.forcedOff then 4 else 0)) 1 ++
  zeros 7

/-- The management interface runs from AUX33: in Off it answers until AUX33 is lost too (21 R450, R456). -/
def mgmtPowered (s : State) : Bool := !s.power.off || s.pads.forcedOff

/-- MGMT_BLOCK_READ: a block read of command 0x00 returns the record; everything else is answered NACK (21 R458). -/
def execMgmtBlockRead (command : Nat) (write : Bool) (s : State) : Host.Outcome State Fault Refusal :=
  if command = 0 && !write && mgmtPowered s then
    ok { s with pads := { s.pads with mgmtOut := mgmtRecord s, mgmtNack := false } }
  else ok { s with pads := { s.pads with mgmtOut := [], mgmtNack := true } }

/-- Load an instruction: EXTEST, CLAMP and HIGHZ hold the device in cold reset, and leaving them starts one (21 R459). -/
def loadJtag (s : State) (ir : Nat) : State :=
  let s1 := { s with pads := { s.pads with jtagIr := ir, outputsFloat := ir == 5 } }
  if jtagHolds s || jtagHolds s1 then coldState s1 else s1

/-- BYPASS, and every code that is no other instruction: one bit between TDI and TDO (21 R459). -/
def execBypass (_code tdi : Nat) (s : State) : Host.Outcome State Fault Refusal :=
  let s1 := loadJtag s 255
  let held := s.pads.jtagIr == 255 && s.pads.bypassBit
  ok { s1 with pads := { s1.pads with tdo := if held then 1 else 0, bypassBit := tdi % 2 == 1 } }

/-- The IDCODE register (21 R459). -/
def idcodeWord (s : State) : Nat :=
  Config.idcodeStepping (fuseAt s 4).toNat % 16 * 2 ^ 28 + 0x4816 * 2 ^ 12 + Config.jtagManufacturer % 2 ^ 11 * 2 + 1

/-- IDCODE (21 R459). -/
def execIdcode (s : State) : Host.Outcome State Fault Refusal :=
  let s1 := loadJtag s 254
  ok { s1 with pads := { s1.pads with tdo := idcodeWord s1 } }

/-- SAMPLE/PRELOAD: the cells are loaded, and the levels of the pads are shifted out; what the board drives on them is no
state of the module (21 R459). -/
def execSamplePreload (cells : List Bool) (s : State) : Host.Outcome State Fault Refusal :=
  let (v, s1) := takeFree (loadJtag s 1)
  ok { s1 with pads := { s1.pads with cells := cells, tdo := v } }

/-- EXTEST: the cells drive the pads; the device is held in cold reset (21 R459). -/
def execExtest (s : State) : Host.Outcome State Fault Refusal := ok (loadJtag s 0)

/-- CLAMP: the cells hold the pads behind the bypass bit; the device is held in cold reset (21 R459). -/
def execClamp (s : State) : Host.Outcome State Fault Refusal := ok (loadJtag s 4)

/-- HIGHZ: the outputs float; the device is held in cold reset (21 R459). -/
def execHighz (s : State) : Host.Outcome State Fault Refusal := ok (loadJtag s 5)

end Sys2Proof.Machine
end

