-- ==== Sys2Proof/Machine/Slow.lean ====
section
/-!
DEFINITION. The slow domains behind SLOW_ADDR and SLOW_DATA (19 R416, R417; 20 R429, R431).
-/

namespace Sys2Proof.Machine

open Sys2Proof

/-- What a domain answers: a word, or the cause of a failure (19 R417, R419). -/
inductive SlowAnswer where
  | word (v : Nat)
  | fail (cause : Nat)
deriving DecidableEq, Repr

/-! ### Reading -/

/-- The bits of a fuse byte that the map names; device_secret and every other offset read as zero (20 R429). -/
def fuseMask (o : Nat) : Nat :=
  if o = 0 then 0x33 else if o = 1 then 1 else if o = 4 then 255
  else if 0x10 ≤ o ∧ o < 0x20 ∨ 0x40 ≤ o ∧ o < 0x140 ∨ 0x148 ≤ o ∧ o < 0x150 ∨ 0x180 ≤ o ∧ o < 0x1C0 then 255
  else if o = 0x140 then 15 else 0

def fuseWord (s : State) (o : Nat) : Nat :=
  leNat ((List.range 4).map (fun k => fuseAt s (o + k) &&& BitVec.ofNat 8 (fuseMask (o + k))))

/-- Slow domain 0: status and mailbox (20 R431). -/
def tollhouseWord (s : State) (o : Nat) : Nat :=
  if o = 0 then s.boot.phase + 256 * (if s.boot.phase = 1 then s.boot.reason else 0)
  else if o = 0x100 then s.boot.cmd
  else if o = 0x104 then s.boot.respStatus + (if s.boot.busy then 256 else 0) + (if s.boot.collided then 512 else 0) +
    65536 * s.boot.respTag
  else if o = 0x108 then s.boot.detail
  else if 0x1000 ≤ o ∧ o < 0x8000 then leNat (memTake zeroByte s.boot.arg o 4)
  else if 0x8000 ≤ o then leNat (memTake zeroByte s.boot.out o 4)
  else 0

/-- Lanes of a SerDes port: Kiduner, the Span ports and the PCIe root ports (19 R417). -/
def serdesLanes (port : Nat) : Nat := if port = 0 then 48 else if port < 9 then 4 else if port < 11 then 16 else 0

/-- A lane or PHY is powered down in Nap (14 R315, 20 R440). -/
def laneAsleep (s : State) (port lane : Nat) : Bool :=
  s.power.nap && ((port == 0 && !(decide (s.kidLink.firstLane ≤ lane) && decide (lane < s.kidLink.firstLane + 2))) ||
    (decide (1 ≤ port) && decide (port < 9)))

/-- A word of a SerDes lane record; the presets are the link's, and of the PCIe ports, as the
margins and symbol counts, measured figures (14 R299, 19 R417). -/
def serdesWord (s : State) (port lane k : Nat) : Nat :=
  let f := fun n => Config.laneFigure port lane n s.free
  if k = 0 then
    if port < 9 then
      let l := getLink s port
      NMap.getD l.presets lane 0 % 16 + 16 * (NMap.getD l.presetAsks lane 255 % 256) +
        (if NMap.getD l.polarity lane false then 4096 else 0)
    else f 0 % 16 + 16 * (f 1 % 256)
  else f (k + 1) % 2 ^ 32

/-- A word of an HBM PHY record; temperature and refresh interval are measured figures (19 R417). -/
def phyWord (s : State) (ch k : Nat) : Nat :=
  if k = 2 then NMap.getD s.deck.phyFails ch 0 % 2 ^ 32
  else if k = 3 then 0
  else Config.laneFigure 11 ch k s.free % 2 ^ 32

/-- Read the word at a domain and offset (19 R417). -/
def slowRead (s : State) (dom o : Nat) : SlowAnswer :=
  if dom = 0 then (if o < 0x10000 then .word (tollhouseWord s o) else .fail 2)
  else if dom = 1 then
    let lane := o / 16
    if 0x2C00 ≤ o || serdesLanes (lane / 64) ≤ lane % 64 then .fail 2
    else if laneAsleep s (lane / 64) (lane % 64) then .fail 4
    else .word (serdesWord s (lane / 64) (lane % 64) (o % 16 / 4))
  else if dom = 2 then
    if 0x2000 ≤ o then .fail 2 else if s.power.nap then .fail 4 else .word (phyWord s (o / 16) (o % 16 / 4))
  else if o < 0x1000 then .word (fuseWord s o) else .fail 2

/-! ### Writing -/

/-- A write to MBX_CMD starts a command, or sets collided while one runs (20 R428, R431, R432). -/
def mbxWrite (s : State) (v : Nat) : State :=
  if s.boot.busy then { s with boot := { s.boot with collided := true } }
  else
    let code := v % 256
    let s1 := { s with boot := { s.boot with cmd := code + 65536 * bitsAt v 16 16, busy := true, collided := false } }
    let s2 := if code = 1 then s1 else wakeUp s1
    if code = 0 || 5 < code then mbxEnd s2 0x10 0
    else if s.boot.phase = 0 || s.boot.phase = 2 || (s.boot.phase = 1 && code != 1 && code != 4) then mbxEnd s2 0x14 0
    else s2

/-- The cause of a failed write, or the state after it (19 R417, 20 R431). -/
def slowWrite (s : State) (dom o v : Nat) : State × Nat :=
  match slowRead s dom o with
  | .fail c => (s, c)
  | .word _ =>
    if dom = 0 && o = 0x100 then (mbxWrite s v, 0)
    else if dom = 0 && 0x1000 ≤ o && o < 0x8000 then
      ({ s with boot := { s.boot with arg := memPut zeroByte s.boot.arg o (natLE v 4) } }, 0)
    else (s, 3)

/-- The domain and offset that SLOW_ADDR holds. -/
def slowDomain (s : State) : Nat := bitsAt (rwGet s rwSlowAddr) 24 4
def slowOffset (s : State) : Nat := bitsAt (rwGet s rwSlowAddr) 0 24

/-- An access succeeded: the error clears, and the offset advances under autoinc (19 R416). -/
def slowGood (s : State) : State :=
  let w := rwGet s rwSlowAddr
  let s1 := { s with regs := { s.regs with slowError := false, slowCause := 0 } }
  if bitAt w 28 then rwStore s1 rwSlowAddr (w - w % 2 ^ 24 + (w % 2 ^ 24 + 4) % 2 ^ 24) else s1

/-- An access failed: the offset stays, and error, cause and slow_error are set (19 R416). -/
def slowFail (s : State) (cause : Nat) : State :=
  event { s with regs := { s.regs with slowError := true, slowCause := cause } } evReg 1

/-- The word that an alias stores, from the stored word and the written one (19 R411): 1 set, 2 clear, 3 toggle. -/
def aliasWord (kind old w : Nat) : Nat :=
  if kind = 1 then old ||| w else if kind = 2 then old &&& (w ^^^ (2 ^ 32 - 1)) else old ^^^ w

/-- A read of SLOW_DATA at its domain: the word, zero when it failed (19 R416). -/
def slowTakeRead (s : State) : State × Nat :=
  let s := { s with free := s.free + 1 }
  match slowRead s (slowDomain s) (slowOffset s) with
  | .word v => (slowGood s, v)
  | .fail c => (slowFail s c, 0)

/-- A write of SLOW_DATA at its domain, straight (kind 0) or through an alias (19 R416). -/
def slowTakeWrite (s : State) (kind v : Nat) : State :=
  let s := { s with free := s.free + 1 }
  let old := match slowRead s (slowDomain s) (slowOffset s) with | .word w => w | .fail _ => 0
  let (t, c) := slowWrite s (slowDomain s) (slowOffset s) (if kind = 0 then v else aliasWord kind old v)
  if c = 0 then slowGood t else slowFail t c

end Sys2Proof.Machine
end

