-- ==== Sys2Proof/Machine/Registers.lean ====
section
/-!
DEFINITION. The control window: what a register reads as, what a write stores, aliases, 64-bit pairs, bus errors, slow
accesses and snoops (14 R310 to R314, 19 R406 to R422).
-/

namespace Sys2Proof.Machine

open Sys2Proof

/-! ### What a register reads as -/

/-- The 32-bit registers of each block: its base and how many (19 R407). -/
def blockTable : List (Nat × Nat) :=
  [(0x0, 6), (0x1000, 3), (0x2000, 9), (0x3000, 7), (0x4000, 7), (0x5000, 1), (0x6000, 1), (0x7000, 1), (0x8000, 2),
   (0x9000, 2), (0xA000, 1), (0xB000, 1), (0xC000, 1), (0xD000, 2), (0xE000, 11), (0xF000, 19), (0x10000, 3),
   (0x11000, 4), (0x12000, 4)]

def isWord (off : Nat) : Bool := blockTable.any (fun b => decide (b.1 ≤ off) && decide (off < b.1 + 4 * b.2))

/-- The pair that a word belongs to. -/
def pairOf? (off : Nat) : Option Nat :=
  if pairOffsets.contains off then some off
  else if 4 ≤ off && pairOffsets.contains (off - 4) then some (off - 4) else none

/-- Implemented, and answering in this boot phase: Recovery answers the DEV block alone (19 R407, 20 R428). -/
def isImplemented (s : State) (off : Nat) : Bool :=
  off % 4 == 0 && (isWord off || (pairOf? off).isSome) && (s.boot.phase != 1 || decide (off < 0x1000))

/-- CTX_ADMIN_GO, CFG_SWITCH_GO and SLOW_DATA (15 R339, 19 R419, R420). -/
abbrev wpAdminGo : Nat := 0x4010
abbrev wpSwitchGo : Nat := 0x1100C

/-- The value of a 64-bit pair (02 R20, 14 R316, 19 R410). -/
def pairValue (s : State) (off : Nat) : Nat :=
  if off = prCount then s.clock.count
  else if off = prLoss then s.timing.loss
  else if off = prGain then s.timing.gain
  else if off = prPolarity then
    s.kidLink.polarity.foldl (fun a p => if p.2 then a ||| 2 ^ p.1 else a) 0
  else if off = ctKidReplay then s.kidLink.replayAsks % 2 ^ 64
  else pairGet s off

/-- A mask with bit `i` set while unit `32n + i` is in service. -/
def serviceMask (n : Nat) (lost : Nat → Bool) : Nat :=
  (List.range 32).foldl (fun a i => if lost (32 * n + i) then a else a + 2 ^ i) 0

def linkCode (l : Link) : Nat :=
  match l.st with
  | .down => 0 | .detect => 1 | .rate0 => 2 | .eq => 3 | .align => 4 | .active => 5 | .retrain => 6 | .nap => 7

/-- KEYSTONE_SYNC_STATE; parent_port has no meaning on the root and is a free value there (02). -/
def syncState (s : State) : Nat :=
  (if s.timing.locked then 1 else 0) + (if s.timing.isRoot then 2 else 0) +
  (if s.timing.isRoot then 16 * (Config.unstated 0x20 [now s] % 8)
   else if s.cfg.loaded then 16 * (parentPort s % 8) else 0) + 256 * (s.timing.depth % 16)

def healState (s : State) : Nat :=
  let out := fun p => (s.heal.banksOut.filter (fun b => b / 16 == p)).length
  (if s.heal.outOfService then 1 else 0) + 2 * s.heal.cores +
  256 * (s.heal.rebuilds.filter (fun r => r.2.running)).length +
  65536 * ((List.range 16).foldl (fun a i => if i % 4 < out (i / 4) then a + 2 ^ i else a) 0)

def cfgStateWord (s : State) : Nat :=
  (if s.cfg.loaded then 1 else 0) + (match s.cfg.overlay with | some i => 2 * i | none => 16) +
  (match s.cfg.pending with
    | some (_, some i) => 32 + 64 * i
    | some (_, none) => 32 + 512
    | none => 0)

/-- The word that a read of a 32-bit register returns (02 R20, 03 R52, 04 R75, 14 R316, 15 R339, 16 R362, 17 R387,
18 R405, 19 R412, R419 to R422). -/
def wordOf (s : State) (off : Nat) : Nat :=
  if sqOffsets.contains off then sqWord s off
  else if (rwRow off).isSome then rwGet s off
  else if off = 0x0 then 0x4816 + 0x120000 + (if gradeX s then 2 ^ 24 else 0)
  else if off = 0x8 then s.regs.busErrAddr
  else if off = 0x14 then
    (if s.regs.slowBusy.isSome then 1 else 0) + (if s.regs.slowError then 2 else 0) + 4 * s.regs.slowCause
  else if off = 0x1004 then syncState s
  else if off = 0x1008 then if s.timing.isRoot then 0 else intBits 32 s.timing.est
  else if off = 0x2000 then s.trestle.table + 4 * Nat.log2 (framesOf s s.trestle.table) + 256 * piersOut s
  else if 0x2004 ≤ off ∧ off < 0x2024 then serviceMask ((off - 0x2004) / 4) (fun p => (getPier s p).lost)
  else if off = 0x3004 then s.sched.items.length
  else if off = 0x3008 then (s.ctxs.filter (fun p => p.2.resident)).length
  else if off = 0x4014 then
    s.regs.adminStatus + (if s.regs.adminBusy = 0 then 0 else 256) + 65536 * s.regs.adminCtx
  else if off = 0x4018 then s.regs.imageLen
  else if off = 0xD004 then
    linkCode s.kidLink + 256 * s.kidLink.width + (if s.kidLink.reversed then 2 ^ 14 else 0) + 65536 * s.kidLink.firstLane
  else if off = 0xE004 then deviceId s
  else if 0xE008 ≤ off ∧ off < 0xE028 then
    let l := getSpanLink s ((off - 0xE008) / 4)
    linkCode l + 16 * l.width + (if l.reversed then 128 else 0) + 256 * l.firstLane
  else if off = 0xF004 then
    s.deck.stacksOut.length + 32 * channelsOut s + (if 32 < channelsOut s then 2 ^ 15 else 0) + 65536 * s.deck.withdrawn
  else if 0xF008 ≤ off ∧ off < 0xF048 then serviceMask ((off - 0xF008) / 4) s.deck.lost.contains
  else if off = 0x10004 then healState s
  else if off = 0x11004 then cfgStateWord s
  else if off = 0x12004 then powerCode s + 256 * s.power.duty
  else if off = 0x1200C then intBits 12 s.power.hottest + 65536 * s.power.source
  else 0

/-! ### Answers and bus errors -/

/-- A REG_DATA for a REG_READ (14 R310). -/
def regAnswer (s : State) (tag status v : Nat) : State := kidSend s { hdr := kidHdr 0x22 status tag 0 v, data := [] }

/-- A bus error: counted, its offset kept, and bus_error set (19 R409). -/
def busError (s : State) (off len : Nat) (write : Bool) : State :=
  let s1 := event (bump s ctBusErr 1) evReg 0
  { s1 with regs := { s1.regs with
    busErrAddr := off % 2 ^ 29 + (if write then 2 ^ 29 else 0) + (if len = 8 then 2 ^ 30 else 0) } }

/-- Registers answer: not in Off, and not before the ROM has trained the link (19 R408, 20 R425). -/
def regsAnswer (s : State) : Bool := !s.power.off && s.boot.phase != 0

/-- A read of a pair's _LO word: the low half, with the high half into the read shadow (19 R410). -/
def readPairLo (s : State) (p : Nat) : State × Nat :=
  let v := pairValue s p
  ({ s with regs := { s.regs with readShadow := NMap.set s.regs.readShadow p (v / 2 ^ 32) } }, v % 2 ^ 32)

/-- Read one 32-bit location. -/
def readWord (s : State) (off : Nat) : State × Nat :=
  match pairOf? off with
  | some p => if p = off then readPairLo s p else (s, NMap.getD s.regs.readShadow p 0)
  | none => (s, wordOf s off)

/-- Read 4 or 8 bytes that are implemented: an 8-byte read of a pair returns both halves of one value (19 R406, R410). -/
def readBytes (s : State) (off len : Nat) : State × Nat :=
  if len = 4 then readWord s off
  else if pairOffsets.contains off then ((readPairLo s off).1, pairValue s off)
  else
    let a := readWord s off
    let b := readWord a.1 (off + 4)
    (b.1, a.2 + 2 ^ 32 * b.2)

/-- The access lies on implemented registers and is aligned (19 R406, R409). -/
def accessOk (s : State) (off len : Nat) : Bool :=
  let r := off % 0x400000
  decide (off < 0x1000000) && (len == 4 || len == 8) && off % len == 0 && isImplemented s r &&
  (len == 4 || isImplemented s (r + 4)) &&
  (s.boot.phase != 1 || r != rwSlowData || slowDomain s == 0)

/-! ### Writes -/

/-- A GO: ignored with collided while an operation runs, else the operation of CTX_ADMIN_OP starts (15 R317). -/
def adminGo (s : State) (v : Nat) : State :=
  if v % 2 = 0 then s
  else if s.regs.adminBusy != 0 then event s evAdmin 1
  else
    let op := rwGet s rwAdminOp
    let s1 := wakeUp s
    let s2 := { s1 with regs := { s1.regs with
      adminBusy := op % 8, adminCtx := op / 65536, adminBytes := none, adminAsked := 0, adminMem := [], adminImage := []
      adminDue := false } }
    if op % 8 = 0 then event { s2 with regs := { s2.regs with adminStatus := 0x10 } } evAdmin 0 else s2

/-- A value reaches the RW fields of a register, with what the register does about it. -/
def storeWord (s : State) (off v : Nat) : State :=
  if off = rwPwrRequest then
    let w := v % 4
    if w = 2 then requestNap s else wakeUp (rwStore s rwPwrRequest w)
  else rwStore s off v

/-- A straight write to a 32-bit register: SQ, W1P and RW fields (19 R412, R413, R415). -/
def writeWord (s : State) (off v : Nat) : State :=
  if sqOffsets.contains off then sqClear s off v
  else if off = wpAdminGo then adminGo s v
  else if off = wpSwitchGo then switchGo s v
  else storeWord s off v

/-- A write to a 64-bit pair: only the RW pairs store (19 R410). -/
def isRwPair (p : Nat) : Bool := p == prAdminAddr || p == prSwitchAt

def writePairHalf (s : State) (p : Nat) (hi : Bool) (v : Nat) : State :=
  if !(isRwPair p) then s
  else if hi then
    { s with regs := { s.regs with
      pairs := NMap.set s.regs.pairs p (NMap.getD s.regs.writeShadow p 0 + 2 ^ 32 * v)
      copies := NMap.set s.regs.copies p (NMap.getD s.regs.writeShadow p 0 + 2 ^ 32 * v) } }
  else { s with regs := { s.regs with writeShadow := NMap.set s.regs.writeShadow p v } }

def writePair (s : State) (p v : Nat) : State :=
  if !(isRwPair p) then s
  else { s with regs := { s.regs with pairs := NMap.set s.regs.pairs p v, copies := NMap.set s.regs.copies p v } }

/-- A write of one word, straight or through an alias, would be a bus error for its value or its pair (19 R409, R411,
R415). -/
def writeRefused (s : State) (kind off v : Nat) : Bool :=
  if (pairOf? off).isSome then kind != 0
  else match rwRow off with
    | some (mask, _) =>
      if off = rwSlowData then false
      else rwReserved off (if kind = 0 then v &&& mask else aliasWord kind (rwGet s off) v &&& mask)
    | none => false

/-- Store one word, straight (0) or through the set, clear or toggle alias (19 R411). -/
def putWord (s : State) (kind off v : Nat) : State :=
  match pairOf? off with
  | some p => writePairHalf s p (p != off) v
  | none =>
    if kind = 0 then writeWord s off v
    else match rwRow off with
      | some (mask, _) => storeWord s off (aliasWord kind (rwGet s off) (v &&& mask))
      | none => s

/-! ### Slow accesses and waiting accesses -/

/-- An access of the host to the control window. -/
abbrev HostAccess := Nat × Nat × Nat × Nat

/-- Start an access to SLOW_DATA: the domain's answer is outstanding (19 R416).  Kinds: 0 a 4-byte read, 1 an 8-byte
read, 2 a write, 3 to 5 an alias write. -/
def slowStart (s : State) (kind v : Nat) : State :=
  { s with regs := { s.regs with slowBusy := some (kind, v, now s) } }

/-- A REG_READ (19 R406, R409; 14 R312). -/
def doRead (s : State) (off len tag : Nat) : State :=
  if !(accessOk s off len) then regAnswer (busError s off len false) tag 3 0
  else
    let r := off % 0x400000
    if r = rwSlowData then slowStart s (if len = 8 then 1 else 0) tag
    else
      let a := readBytes s r len
      regAnswer a.1 tag 0 a.2

/-- A REG_WRITE: dropped whole when any half of it is a bus error (19 R406, R409 to R411; 14 R312). -/
def doWrite (s : State) (off len v : Nat) : State :=
  if 0x10000000 ≤ off ∧ off < 0x20000000 then kidBad s
  else
    let r := off % 0x400000
    let kind := off / 0x400000
    let lo := v % 2 ^ 32
    let hi := v / 2 ^ 32 % 2 ^ 32
    let pair := pairOffsets.contains r && len == 8
    if !(accessOk s off len) || (pair && kind != 0) || (!pair && writeRefused s kind r lo) ||
        (!pair && len == 8 && writeRefused s kind (r + 4) hi) then busError s off len true
    else if pair then writePair s r (lo + 2 ^ 32 * hi)
    else if r = rwSlowData then slowStart s (2 + kind) lo
    else
      let s1 := putWord s kind r lo
      if len = 8 then putWord s1 kind (r + 4) hi else s1

/-- An access waits while a slow access is outstanding; a doorbell waits behind a write (14 R311, 19 R416). -/
def waitsForSlow (s : State) (doorbell : Bool) : Bool :=
  match s.regs.slowBusy with
  | some (k, _, _) => if doorbell then decide (2 ≤ k) || !s.regs.parked.isEmpty else true
  | none => !s.regs.parked.isEmpty

/-- Take an access: 0 a read (offset, length, tag), 1 a write (offset, length, data), 2 a doorbell. -/
def takeAccess (s : State) (a : HostAccess) : State :=
  if a.1 = 0 then doRead s a.2.1 a.2.2.1 a.2.2.2
  else if a.1 = 1 then doWrite s a.2.1 a.2.2.1 a.2.2.2
  else hostDoorbell s a.2.1 a.2.2.2

/-- The accesses that waited take effect in order, up to the next slow access (14 R311). -/
def unpark : Nat → State → State
  | 0, s => s
  | f + 1, s =>
    if s.regs.slowBusy.isSome then s
    else match s.regs.parked with
      | [] => s
      | a :: as => unpark f (takeAccess { s with regs := { s.regs with parked := as } } a)

def hostAccess (s : State) (a : HostAccess) : State :=
  if !(regsAnswer s) then s
  else if waitsForSlow s (a.1 == 2) then { s with regs := { s.regs with parked := s.regs.parked ++ [a] } }
  else takeAccess s a

/-- The outstanding slow access ends with the domain's answer (19 R416). -/
def slowEnd (s : State) : State :=
  match s.regs.slowBusy with
  | none => s
  | some (kind, v, _) =>
    let s0 := { s with regs := { s.regs with slowBusy := none } }
    let s1 :=
      if kind < 2 then
        let a := slowTakeRead s0
        let hi := if kind = 1 then wordOf a.1 0x14 else 0
        regAnswer a.1 v 0 (a.2 + 2 ^ 32 * hi)
      else slowTakeWrite s0 (kind - 2) v
    unpark s1.regs.parked.length s1

/-! ### The commands -/

def execRegRead (off len tag : Nat) (s : State) : Host.Outcome State Fault Refusal := finish (hostAccess s (0, off, len, tag))

def execRegWrite (off len data : Nat) (s : State) : Host.Outcome State Fault Refusal :=
  finish (hostAccess s (1, off, len, data))

/-- DOORBELL (14 R312, 15 R323). -/
def execDoorbell (off data : Nat) (s : State) : Host.Outcome State Fault Refusal := finish (hostAccess s (2, off, 8, data))

/-- SET_ALIAS_WRITE: stores s or w in the RW fields of the register at `off` (19 R411). -/
def execSetAliasWrite (off data : Nat) (s : State) : Host.Outcome State Fault Refusal :=
  finish (hostAccess s (1, 0x400000 + off % 0x400000, 4, data))

/-- CLEAR_ALIAS_WRITE: stores s and not w (19 R411). -/
def execClearAliasWrite (off data : Nat) (s : State) : Host.Outcome State Fault Refusal :=
  finish (hostAccess s (1, 0x800000 + off % 0x400000, 4, data))

/-- TOGGLE_ALIAS_WRITE: stores s xor w (19 R411). -/
def execToggleAliasWrite (off data : Nat) (s : State) : Host.Outcome State Fault Refusal :=
  finish (hostAccess s (1, 0xC00000 + off % 0x400000, 4, data))

/-- SQ_WRITE: a write to an SQ register (19 R412). -/
def execSqWrite (off data : Nat) (s : State) : Host.Outcome State Fault Refusal :=
  if sqOffsets.contains off then finish (hostAccess s (1, off, 4, data)) else ok s

/-- PAIR_LO_READ: the low half, with the high half latched (19 R410). -/
def execPairLoRead (off tag : Nat) (s : State) : Host.Outcome State Fault Refusal :=
  if pairOffsets.contains off then finish (hostAccess s (0, off, 4, tag)) else ok s

/-- PAIR_LO_WRITE: the word goes into the write shadow of an RW pair (19 R410). -/
def execPairLoWrite (off data : Nat) (s : State) : Host.Outcome State Fault Refusal :=
  if pairOffsets.contains off then finish (hostAccess s (1, off, 4, data)) else ok s

/-- PAIR_HI_WRITE: both halves are stored in one tick; `off` is the _LO offset of the pair (19 R410). -/
def execPairHiWrite (off data : Nat) (s : State) : Host.Outcome State Fault Refusal :=
  if pairOffsets.contains off then finish (hostAccess s (1, off + 4, 4, data)) else ok s

/-- SLOW_DATA_READ: the domain answers the outstanding read; with none outstanding, the read arrives and is answered
(19 R416). -/
def execSlowDataRead (tag : Nat) (s : State) : Host.Outcome State Fault Refusal :=
  if !(regsAnswer s) then ok s
  else match s.regs.slowBusy with
    | some (k, v, _) => if k < 2 && v == tag then finish (slowEnd s) else ok s
    | none =>
      let s1 := hostAccess s (0, rwSlowData, 4, tag)
      finish (if s1.regs.slowBusy.isSome then slowEnd s1 else s1)

/-- SLOW_DATA_WRITE: the domain takes the outstanding write; with none outstanding, the write arrives and is taken
(19 R416). -/
def execSlowDataWrite (data : Nat) (s : State) : Host.Outcome State Fault Refusal :=
  if !(regsAnswer s) then ok s
  else match s.regs.slowBusy with
    | some (k, v, _) => if 2 ≤ k && v == data % 2 ^ 32 then finish (slowEnd s) else ok s
    | none =>
      let s1 := hostAccess s (1, rwSlowData, 4, data)
      finish (if s1.regs.slowBusy.isSome then slowEnd s1 else s1)

/-- SLOW_ACCESS_TIMEOUT: no answer within 2,048 ticks fails the access with cause 1; a read returns zero (19 R416,
R417). -/
def execSlowAccessTimeout (s : State) : Host.Outcome State Fault Refusal :=
  match s.regs.slowBusy with
  | none => ok s
  | some (kind, v, since) =>
    if now s < since + 2048 || s.power.off then ok s
    else
      let s1 := slowFail { s with regs := { s.regs with slowBusy := none } } 1
      let hi := if kind = 1 then wordOf s1 0x14 else 0
      let s2 := if kind < 2 then regAnswer s1 v 0 (2 ^ 32 * hi) else s1
      finish (unpark s2.regs.parked.length s2)

/-! ### Snoops -/

/-- The READ_SHARED accesses of the line that are on their way. -/
def sharedAsked (s : State) (line : Nat) : List Nat :=
  (s.kid.tags.map (·.2)).filter (fun i => match NMap.find? s.kid.accs i with
    | some a => a.shared && (gLocal a.addr - hostBase) / 64 == line
    | none => false)

/-- SNP_INV: the line is dropped, and no fill on its way will be kept; the SNP_RESP carries the address as given
(14 R314). -/
def snoop (s : State) (addr tag : Nat) : State :=
  let line := addr / 64
  let s1 := { s with kid := { s.kid with
    lines := NMap.erase s.kid.lines line
    snooped := s.kid.snooped ++ (sharedAsked s line).filter (fun i => !(s.kid.snooped.contains i)) } }
  kidSend s1 { hdr := kidHdr 0x23 0 tag 0 addr, data := [] }

def execSnpInv (addr tag : Nat) (s : State) : Host.Outcome State Fault Refusal :=
  if regsAnswer s then ok (snoop s addr tag) else ok s

end Sys2Proof.Machine
end

