-- ==== Sys2Proof/Machine/Placement.lean ====
section
/-!
DEFINITION. Placement of row groups: the migrations of a group between the Deck and the Causeway, from the MIGRATE
command or from hits (09 R193 to R197).
-/

namespace Sys2Proof.Machine

open Sys2Proof

/-! ### Places -/

/-- Deck extents that groups and migrations hold. -/
def groupExtents (s : State) : List (Nat × Nat) :=
  (s.tables.versions.flatMap (fun p =>
    let t := tdesc s p.2.desc
    (List.range t.groups).filterMap (fun g =>
      let e := dentry s t g
      if inDeckTier e then some (gLocal (locAddr s e.loc), e.size) else none))) ++
  (s.tables.migrations.flatMap (fun p =>
    let n := (groupOf s p.2.ver p.2.group).elim 0 (fun q => q.2.size)
    ([p.2.target, p.2.old].filter (fun l => l / 2 ^ 62 == 0)).map (fun l => (l % 2 ^ 62, n))))

/-- Deck extents that contexts' tensors hold. -/
def tensorExtents (s : State) : List (Nat × Nat) :=
  s.ctxs.flatMap (fun c => c.2.tensors.filterMap (fun t =>
    if isDeck s t.2.base then some (gLocal t.2.view.lo, t.2.view.span) else none))

/-- A place of the plain region that no group, tensor or commit holds: the lowest that starts where such an extent ends,
or at the start of one of the region's intervals.  The spec names no place for a group that placement moves in
(DESIGN CHOICE, log entry 21). -/
def freePlace (s : State) (n : Nat) : Option Nat :=
  let held := groupExtents s ++ tensorExtents s ++ s.tables.commits.map (fun c => (c.2.groupBase, c.2.groupLen))
  let m := (deckMap s).1
  let cands := (m :: (2 ^ 40 + m) :: held.map (fun e => roundUp (e.1 + e.2) 256)).filter (fun a =>
    inPlain s a n && held.all (fun e => !(intersects (a, a + n) (e.1, e.1 + e.2))))
  match cands with
  | [] => none
  | c :: cs => some (cs.foldl min c)

/-- A place in the Causeway for a group that placement moves out: one that a group moved in has left, or one of the
spill target (DESIGN CHOICE, log entry 21). -/
def tailPlace (s : State) (v n : Nat) : Option (Nat × State) :=
  match getVer s v with
  | none => none
  | some x =>
    match List.find? (fun q => decide (n ≤ q.2)) x.freeTail with
    | some q => some (q.1, modVer s v (fun x => { x with freeTail := x.freeTail.filter (· != q) }))
    | none => (takeSpill s n).map (fun q => (q.1, q.2))

/-! ### Starting a migration -/

/-- A group whose migration is ignored: MIGRATING, REBUILDING, LOST or inherited, or already asked for (R194). -/
def migrationBarred (s : State) (v g : Nat) (e : DEntry) : Bool :=
  (e.state != gResident && e.state != gTail) || sharedGroup s v g || (migrationOf s v g).isSome

/-- Ask for the migration of a group to a target; it starts once it holds a place, and group `after` moves in once it has
ended (R193, R194, R196). -/
def requestMigration (s : State) (v g target : Nat) (by_ : Option (Nat × Nat × Nat)) (after : Option Nat) : State :=
  match groupOf s v g with
  | none => s
  | some (_, e) =>
    let m : Migration := {
      ver := v, group := g, old := e.loc, target := target, phase := 0, inward := target / 2 ^ 62 == 0,
      prior := e.state, held := [], by_ := by_, frame := [], asked := [], waiting := 0, failed := false
      since := 0, after := after }
    if migrationBarred s v g e then ignoreMigration s s.heal.nextJob m
    else givePlaces { s with tables := { s.tables with migrations := NMap.set s.tables.migrations s.heal.nextJob m }
                             heal := { s.heal with nextJob := s.heal.nextJob + 1 } }

/-- A move that finds no place, no group to make room, or a group that may not move is ignored and counted (log entry 179). -/
def noPlace (s : State) : State := event (bump s ctMigIgnored 1) evEmb 2

/-! ### Hits (R193) -/

/-- Groups of the version that are in the Deck or on their way in, with those that wait for another group to leave. -/
def residentCount (s : State) (v : Nat) (t : TDesc) : Nat :=
  ((List.range t.groups).filter (fun g =>
    let e := dentry s t g
    e.state == gResident || (match migrationOf s v g with | some (_, m) => m.inward || m.after.isSome | none => false))).length

/-- The group already waits to move in (log entry 179). -/
def movesIn (s : State) (v g : Nat) : Bool :=
  s.tables.migrations.any (fun p => p.2.ver == v && decide (p.2.phase ≤ 3) && (p.2.after == some g || (p.2.group == g && p.2.inward)))

/-- The RESIDENT group that leaves first: not pinned, with the fewest hits and then the lowest index; one that is about to
leave is no candidate again. -/
def coldest (s : State) (v : Nat) (t : TDesc) : Option Nat :=
  (List.range t.groups).foldl (fun (b : Option Nat) g =>
    let e := dentry s t g
    if e.state != gResident || e.pinned || (migrationOf s v g).isSome then b
    else match b with
      | none => some g
      | some h => if e.hits < (dentry s t h).hits then some g else b) none

/-- The hits of every group of a table are halved. -/
def halveHits (s : State) (v : Nat) : State :=
  match getVer s v with
  | none => s
  | some x => (List.range (tdesc s x.desc).groups).foldl (fun s g => modEntry s v g (fun e => { e with hits := e.hits / 2 })) s

/-- Ask for the move of a group to the place that was found for it. -/
def moveTo (s : State) (v g : Nat) : Option Nat → State
  | some a => requestMigration s v g a none none
  | none => noPlace s

/-- Move a group in to a free place. -/
def bringIn (s : State) (v g : Nat) (t : TDesc) : State := moveTo s v g (freePlace s ((dentry s t g).size))

/-- Ask for the move of the coldest group out to the place that was found for it; group `g` follows in. -/
def moveOut (s : State) (v h g : Nat) : Option (Nat × State) → State
  | some (loc, s2) => requestMigration s2 v h loc none (some g)
  | none => noPlace s

/-- Move a TAIL group in, after the coldest group has left when the budget is used; when none can leave, none moves in. -/
def moveIn (s : State) (v g : Nat) (t : TDesc) : State :=
  if residentCount s v t < t.budget then bringIn s v g t
  else match coldest s v t with
    | none => noPlace s
    | some h => if sharedGroup s v h then noPlace s else moveOut s v h g (tailPlace s v ((dentry s t h).size))

/-- A TAIL group has reached promote_hits: it moves in, or the decision is ignored and counted; one that already waits stands
(R193, R194). -/
def placementDue (s : State) (v g : Nat) (t : TDesc) (e : DEntry) : State :=
  if movesIn s v g then s
  else if migrationBarred s v g e then noPlace s
  else moveIn s v g t

/-- A distinct fetch from a group of the version in force (R193). -/
def hitGroup (s : State) (v g : Nat) : State :=
  match getVer s v, groupOf s v g with
  | some x, some (t, e) =>
    if !x.current || !t.autoMigrate then s
    else
      let h := min (e.hits + 1) 0xFFFF
      let s1 := modEntry s v g (fun e => { e with hits := h })
      let s2 := if e.state = gTail ∧ t.promoteHits != 0 ∧ t.promoteHits ≤ h then placementDue s1 v g t e else s1
      if h = 0xFFFF then halveHits s2 v else s2
  | _, _ => s

/-! ### The MIGRATE command -/

/-- The table set that a handle names: a readable tensor of at least 16 KiB in this device's Deck (R176). -/
def tableSetAt (s : State) (x : Ctx) (h : Nat) : Option Nat :=
  match NMap.find? x.tensors h with
  | some t => if isDeck s t.base && decide (16384 ≤ t.view.span) && !t.dying then some (gLocal t.base) else none
  | none => none

/-- A Causeway location lies inside the Causeway ranges of a context: a non-pageable host range, or an NVMe target of
the context (17 R373, R379). -/
def causewayOk (s : State) (c : Nat) (x : Ctx) (loc n : Nat) : Bool :=
  let body := loc % 2 ^ 62
  match loc / 2 ^ 62 with
  | 1 => decide (body < 2 ^ 44) && x.ranges.any (fun r =>
      let a := locAddr s loc
      !r.2.pageable && decide (r.2.base ≤ a) && decide (a + n ≤ r.2.base + r.2.len))
  | 2 =>
    (match nvmeTarget s (bitsAt body 57 5) with
    | some (_, _, _, _, count, ctx) =>
      let off := body % 2 ^ 57
      ctx == c && off % 4096 == 0 && decide (off + n ≤ count * (if Config.lbaLarge (bitsAt body 57 5) then 4096 else 512))
    | none => false)
  | _ => false

/-- A location of R180 that `n` bytes of a group of a context may lie at: in the plain region, or in the Causeway ranges
(17 R367, R373, R379). -/
def locationOk (s : State) (c : Nat) (x : Ctx) (loc n : Nat) : Bool :=
  if loc / 2 ^ 62 = 0 then
    inPlain s (loc % 2 ^ 62) n
  else causewayOk s c x loc n

/-- The first thing wrong with a command's table: its handle, its slot, or its group (15 R329). -/
def tableNamed (s : State) (x : Ctx) (raw : List Byte) : Except (Nat × Nat) (Nat × Nat × Version) :=
  let h := leAt raw 32 4
  if x.tensorTable ≤ h then .error (0x11, 32)
  else match tableSetAt s x h with
    | none => .error (0x11, 32)
    | some b =>
      match currentVer s b (leAt raw 36 1) with
      | none => .error (0x10, 36)
      | some (v, ver) => .ok (b, v, ver)

/-- MIGRATE: completes OK at the flip, with detail 1 when ignored or 2 when abandoned (15 R329, R194, R196). -/
def execMigrate (ctx ring : Nat) (s : State) : Host.Outcome State Fault Refusal :=
  finish (command s ctx ring 0xF [(32, 36), (40, 43), (48, 55)] noArg (fun x raw _ =>
    match tableNamed s x raw with
    | .error (st, k) => completeHead s ctx ring raw st k
    | .ok (_, v, ver) =>
      let g := leAt raw 40 4
      let target := leAt raw 48 8
      let t := tdesc s ver.desc
      if t.groups ≤ g then completeHead s ctx ring raw 0x11 40
      else if target / 2 ^ 62 = 3 then completeHead s ctx ring raw 0x10 48
      else if !(locationOk s ctx x target (dentry s t g).size) then completeHead s ctx ring raw 0x11 48
      else
        match getRing s ctx ring with
        | none => s
        | some y => requestMigration (startCommand s ctx ring raw) v g target (some (ctx, ring, y.consumed)) none))

/-! ### The steps of a migration -/

/-- The bytes of a migrating group's old place, once they have all come. -/
def migrationBytes (s : State) (m : Migration) (n : Nat) : List Byte :=
  let a := locAddr s m.old
  if isDeck s a then deckRead s (gLocal a) n else memTake zeroByte m.frame a n

/-- A block of a Deck extent cannot be read (17 R365, R369). -/
def extentBad (s : State) (a n : Nat) : Bool :=
  (blocksOf a n).any (fun b => badAt s (b * 64) && (match twinOf s (b * 64) with | some t => badAt s t | none => true))

/-- Row writes to a place that are still on their way. -/
def writesTo (s : State) (a n : Nat) : Bool :=
  s.kid.accs.any (fun p => p.2.write && (match p.2.owner with | .row _ => true | _ => false) &&
    decide (a ≤ p.2.addr) && decide (p.2.addr < a + n))

/-- Reads of a place that are still on their way. -/
def readsFrom (s : State) (a n : Nat) : Bool :=
  s.kid.accs.any (fun p => !p.2.write && decide (a ≤ p.2.addr) && decide (p.2.addr < a + n) && p.2.st == .flying)

/-- MIGRATION_DRAIN_DONE: no row write to the group is on its way any more, and the copy begins (R194 steps 2 and 3). -/
def execMigrationDrainDone (mig : Nat) (s : State) : Host.Outcome State Fault Refusal :=
  match NMap.find? s.tables.migrations mig with
  | none => ok s
  | some m =>
    let n := (groupOf s m.ver m.group).elim 0 (fun q => q.2.size)
    let a := locAddr s m.old
    if m.phase != 1 || s.power.off || writesTo s a n then ok s
    else
      let s1 := modMigration s mig (fun m => { m with phase := 2, since := now s })
      if isDeck s a then ok s1
      else
        let ctx := ((getVer s m.ver).map (·.ctx)).getD 0
        finish (issueReads (modMigration s1 mig (fun m => { m with waiting := (pieces a n).length })) (.migration mig) ctx a n)

/-- A command that named the migration ends with a detail. -/
def endMigrate (s : State) (m : Migration) (detail : Nat) : State :=
  match m.by_ with
  | some (c, r, d) => completeDesc s c r d 0 detail
  | none => s

/-- The group that waited for another to leave moves in, unless the flip has met something that bars it (R193). -/
def afterMove (s : State) (m : Migration) : State :=
  match m.after with
  | none => s
  | some g => match groupOf s m.ver g with
    | some (t, e) => if e.state = gTail then bringIn s m.ver g t else s
    | none => s

/-- MIGRATION_FLIP: the copied bytes go to the target, and once they are there one atomic entry write sets location, tier
and state; the held rows are then written (R194 steps 3 to 5, R195). -/
def execMigrationFlip (mig : Nat) (s : State) : Host.Outcome State Fault Refusal :=
  match NMap.find? s.tables.migrations mig with
  | none => ok s
  | some m =>
    match groupOf s m.ver m.group with
    | none => ok s
    | some (_, e) =>
      let a := locAddr s m.old
      let b := locAddr s m.target
      if m.phase != 2 || m.waiting != 0 || m.failed || s.power.off then ok s
      else if isDeck s a && extentBad s (gLocal a) e.size then ok s
      else if !(isDeck s b) && m.asked.isEmpty then
        let ctx := ((getVer s m.ver).map (·.ctx)).getD 0
        let s1 := modMigration s mig (fun m => { m with asked := [(b, e.size)], waiting := (pieces b e.size).length })
        finish (issueWrites s1 (.migration mig) ctx b (migrationBytes s m e.size))
      else
        let s1 := if isDeck s b then deckWrite s (gLocal b) (migrationBytes s m e.size) else s
        let s2 := modGroup s1 m.ver m.group (fun e => { e with
          loc := m.target, state := if isDeck s b then gResident else gTail })
        let s3 := writeHeld s2 mig m.target m
        let s4 := bump s3 (if m.inward then ctMigIn else ctMigOut) 1
        finish (givePlaces (afterMove (modMigration (endMigrate s4 m 0) mig (fun m => { m with phase := 4, frame := [] })) m))

/-- MIGRATION_FREE: the last read that used the old place has ended, and the place is free (R194 step 6). -/
def execMigrationFree (mig : Nat) (s : State) : Host.Outcome State Fault Refusal :=
  match NMap.find? s.tables.migrations mig with
  | none => ok s
  | some m =>
    let n := (groupOf s m.ver m.group).elim 0 (fun q => q.2.size)
    if m.phase != 4 || readsFrom s (locAddr s m.old) n then ok s
    else
      let s1 := { s with tables := { s.tables with migrations := NMap.erase s.tables.migrations mig } }
      let s2 := if m.old / 2 ^ 62 = 0 then s1 else modVer s1 m.ver (fun x => { x with freeTail := x.freeTail ++ [(m.old, n)] })
      finish (givePlaces s2)

/-- The copy of a migration to or from NVMe has run past the outside timeout of its context (R196, R67). -/
def copyLate (s : State) (m : Migration) : Bool :=
  let limit := match (getVer s m.ver).bind (fun v => NMap.find? s.ctxs v.ctx) with
    | some x => x.timeout
    | none => rwGet s rwTimeout
  m.phase == 2 && decide (m.target / 2 ^ 62 = 2 ∨ m.old / 2 ^ 62 = 2) && decide (m.since + limit ≤ now s)

/-- MIGRATION_ABANDON: the target failed, the copy to or from NVMe is late, or a block of the old place cannot be read,
and the group is then rebuilt in place (R196, R197). -/
def execMigrationAbandon (mig : Nat) (s : State) : Host.Outcome State Fault Refusal :=
  match NMap.find? s.tables.migrations mig with
  | none => ok s
  | some m =>
    match groupOf s m.ver m.group with
    | none => ok s
    | some (_, e) =>
      let a := locAddr s m.old
      let oldBad := m.phase == 2 && isDeck s a && extentBad s (gLocal a) e.size
      let readFailed := m.phase == 2 && m.failed && m.asked.isEmpty
      if m.phase = 2 ∧ (m.failed || oldBad || copyLate s m) then
        let s1 := abandon s mig
        finish (if oldBad || readFailed then startRebuild s1 m.ver m.group none else givePlaces s1)
      else ok s

end Sys2Proof.Machine
end

