-- ==== Sys2Proof/Machine/Columns.lean ====
section
/-!
DEFINITION. Column sets: their layout and checks (07 R118, R119), key bytes (R120), null values and skipped rows
(R125, 05 R91), and what reading and writing their parts charges (R126).
-/

namespace Sys2Proof.Machine

open Sys2Proof

/-- One value of a column: whether it is present, and its element codes (one for a scalar). -/
structure Cell where
  present : Bool
  vals : List Nat
deriving DecidableEq, Repr

/-- A column: kind 1 scalar, 2 bytes, 3 list. -/
structure Column where
  kind : Nat
  fmt : Nat
  valid : Bool
  cells : List Cell
deriving DecidableEq, Repr

structure ColSet where
  rows : Nat
  cols : List Column
deriving DecidableEq, Repr

def pad8 (n : Nat) : Nat := roundUp n 8

/-- A kept row whose position is skipped: zero bytes (R91; log entry 15). -/
def zeroCell (kind : Nat) : Cell := { present := true, vals := if kind = 1 then [0] else [] }

def nullCell (kind : Nat) : Cell := { present := false, vals := if kind = 1 then [0] else [] }

/-! ### Layout -/

/-- Sizes of a column's parts: validity, offsets, values (R103, R118). -/
def partSizes (kind fmt rows : Nat) (valid : Bool) (n : Nat) : List Nat :=
  (if valid then [ceilDiv rows 8] else []) ++ (if kind = 1 then [] else [4 * (rows + 1)]) ++ [packedBytes fmt n]

def Column.nVals (c : Column) : Nat := c.cells.foldl (fun a x => a + x.vals.length) 0

def Column.parts (c : Column) : List Nat := partSizes c.kind c.fmt c.cells.length c.valid c.nVals

/-- Bytes of a set whose columns have these part sizes. -/
def setBytes (parts : List (List Nat)) : Nat :=
  64 + 16 * parts.length + parts.foldl (fun a ps => ps.foldl (fun a p => a + pad8 p) a) 0

/-- The three parts of a column as bytes; a null scalar's slot is zero, and every NaN is canonical (R103; 08 R155). -/
def Column.bytes (c : Column) : List Byte × List Byte × List Byte :=
  let v := if c.valid then packCodes fBin1 (c.cells.map (fun x => if x.present then 1 else 0)) else []
  let offs := (c.cells.foldl (fun (acc : Nat × List Byte) x =>
    (acc.1 + x.vals.length, acc.2 ++ natLE (acc.1 + x.vals.length) 4)) (0, natLE 0 4)).2
  let vals := packCodes c.fmt (c.cells.flatMap (fun x =>
    if c.kind = 1 && !x.present then [0] else x.vals.map (canonCode c.fmt)))
  (v, if c.kind = 1 then [] else offs, vals)

/-- The entries and the parts of a set's columns from an offset on. -/
def layCols : Nat → List Column → List Byte × List Byte
  | _, [] => ([], [])
  | off, c :: cs =>
    let (v, o, w) := c.bytes
    let o1 := off + pad8 v.length
    let o2 := o1 + pad8 o.length
    let o3 := o2 + pad8 w.length
    let rest := layCols o3 cs
    (natLE c.kind 1 ++ natLE c.fmt 1 ++ natLE (if c.valid then 1 else 0) 1 ++ natLE 0 1 ++
       natLE (if c.valid then off else 0) 4 ++ natLE (if c.kind = 1 then 0 else o1) 4 ++ natLE o2 4 ++ rest.1,
     padTo 8 v ++ padTo 8 o ++ padTo 8 w ++ rest.2)

/-- The bytes of a column set, its parts in column order (R118; log entry 15). -/
def ColSet.bytes (c : ColSet) : List Byte :=
  let (es, ps) := layCols (64 + 16 * c.cols.length) c.cols
  natLE 0x53434C49 4 ++ natLE c.rows 4 ++ natLE c.cols.length 2 ++ zeros 6 ++
  natLE (64 + es.length + ps.length) 4 ++ zeros 44 ++ es ++ ps

/-! ### Checks -/

def nonDecreasing : List Nat → Bool
  | a :: b :: r => decide (a ≤ b) && nonDecreasing (b :: r)
  | _ => true

/-- Cut codes at offsets. -/
def cutAt (codes : List Nat) : List Nat → List (List Nat)
  | a :: b :: r => (codes.take (b - a)) :: cutAt (codes.drop (b - a)) (b :: r)
  | _ => []

/-- A part of a set: it lies past the entries and inside total_bytes, at a multiple of 8 (R118, R119). -/
def partOf (bs : List Byte) (first total off size : Nat) : Option (List Byte) :=
  if off % 8 != 0 || total < off + size || (size != 0 && off < first) then none else some (slice bs off size)

/-- One column read from its entry. -/
def readColumn (bs : List Byte) (first total rows : Nat) (e : List Byte) : Option Column :=
  let kind := leAt e 0 1
  let fmt := leAt e 1 1
  let valid := bitAt (leAt e 2 1) 0
  let vo := leAt e 4 4
  let oo := leAt e 8 4
  if 2 ≤ leAt e 2 1 ∨ leAt e 3 1 ≠ 0 ∨ kind = 0 ∨ 3 < kind ∨ !(fmtValid fmt) ∨ (kind = 2 ∧ fmt ≠ fUint8) ∨
      (!valid ∧ vo ≠ 0) ∨ (kind = 1 ∧ oo ≠ 0) then none
  else
    (if valid then partOf bs first total vo (ceilDiv rows 8) else some []).bind fun v =>
    let present := fun r => if valid then bitAt (leAt v (r / 8) 1) (r % 8) else true
    if kind = 1 then
      (partOf bs first total (leAt e 12 4) (packedBytes fmt rows)).map fun w =>
        let codes := unpackCodes fmt rows w
        { kind := kind, fmt := fmt, valid := valid
          cells := ((List.range rows).zip codes).map (fun q => { present := present q.1, vals := [q.2] }) }
    else
      (partOf bs first total oo (4 * (rows + 1))).bind fun o =>
      let offs := (chunksOf 4 o).map leNat
      let n := offs.getLastD 0
      if offs.headD 1 ≠ 0 ∨ !(nonDecreasing offs) ∨ 2 ^ 31 ≤ n then none
      else (partOf bs first total (leAt e 12 4) (packedBytes fmt n)).map fun w =>
        let codes := unpackCodes fmt n w
        { kind := kind, fmt := fmt, valid := valid
          cells := ((List.range rows).zip (cutAt codes offs)).map (fun q => { present := present q.1, vals := q.2 }) }

/-- A column set read and checked (R118, R119); none when a check fails. -/
def readColSet (bs : List Byte) : Option ColSet :=
  let rows := leAt bs 4 4
  let cc := leAt bs 8 2
  let total := leAt bs 16 4
  let first := 64 + 16 * cc
  if leAt bs 0 4 ≠ 0x53434C49 ∨ !(allZero (slice bs 10 6)) ∨ !(allZero (slice bs 20 44)) ∨ cc = 0 ∨ 256 < cc ∨
      2 ^ 24 < rows ∨ total % 8 ≠ 0 ∨ bs.length < total ∨ total < first then none
  else
    ((List.range cc).mapM (fun k => readColumn bs first total rows (slice bs (64 + 16 * k) 16))).map
      (fun cs => { rows := rows, cols := cs })

/-- What an operator finds in a set operand: a whole-item marker, a set that fails its check, or a set with what the
check charges (R119). -/
inductive SetIn where
  | gone
  | bad
  | got (c : ColSet) (check : Nat)
deriving DecidableEq, Repr

/-- A set operand that must hold `rows` rows; only a set read from a tensor pays for its check (R119, R123). -/
def setIn (p : Operand) (rows : Nat) : SetIn :=
  if p.gone then .gone
  else match readColSet p.bytes with
    | none => .bad
    | some c =>
      if c.rows ≠ rows then .bad
      else .got c (if p.kind = 1 then
        ceilDiv (64 + 16 * c.cols.length + c.cols.foldl (fun a x => a + if x.kind = 1 then 0 else 4 * (rows + 1)) 0) 256
        else 0)

/-- Units of a column read from an operand outside scratch, each part rounded up on its own (R126). -/
def colUnits (p : Operand) (c : Column) : Nat :=
  if p.kind = 1 || p.kind = 3 then c.parts.foldl (fun a n => a + unitsOf n) 0 else 0

/-- Units of a parameter block read from outside scratch. -/
def paramUnits (p : Operand) (n : Nat) : Nat := if p.kind = 1 || p.kind = 3 then unitsOf n else 0

/-- Units of the columns written to a dst outside scratch. -/
def writeUnits (i : OpIn) (cols : List Column) : Nat :=
  if i.dst.kind = 1 then cols.foldl (fun a c => a + c.parts.foldl (fun a n => a + unitsOf n) 0) 0 else 0

/-- Bytes of all column parts of an output. -/
def dataBytes (cols : List Column) : Nat := cols.foldl (fun a c => a + c.parts.foldl (· + ·) 0) 0

/-- A tensor with gaps holds fewer bytes than its extent, and the operator reads past them: the item ends, and no counter of a
chapter moves (05 R85; log entry 172). -/
def plainBad : OpRes := { bad := true }

/-- A failed operand check of this chapter (R124). -/
def relBad : OpRes := { bad := true, badBump := ctRelBad, badEvent := (evRel, 0) }

/-- The worst-case output fits dst (R124). -/
def fits (i : OpIn) (parts : List (List Nat)) : Bool := decide (setBytes parts ≤ i.dst.span)

/-- Rows of an output under the operator's skip mode: COMPACT removes the skipped rows, PASS and ZERO keep them as
zero bytes (R91, R125). -/
def modeCells (i : OpIn) (kind : Nat) (skip : Nat → Bool) (cells : List Cell) : List Cell :=
  let q := (List.range cells.length).zip cells
  if i.mode = 0 then q.filterMap (fun p => if skip p.1 then none else some p.2)
  else q.map (fun p => if skip p.1 then zeroCell kind else p.2)

/-- A row position of an operator's input is skipped by this operand's runs (R463). -/
def OpIn.rowSkip (i : OpIn) (p : Operand) (u : Nat) : Bool := unitSkipped p.runs i.c0 i.count u

/-! ### Keys -/

/-- A column that may be a key: bytes, or a scalar of a key format (R120). -/
def keyColumn (c : Column) : Bool := c.kind == 2 || (c.kind == 1 && (fmtKeyInt c.fmt || fmtKeyFloat c.fmt))

/-- The 8 bytes that a scalar value gives to H64 (R120). -/
def scalarKey (fmt code : Nat) : List Byte :=
  if fmtKeyFloat fmt then
    let x := widenCode fmt code
    natLE (if f32IsNan x then 0x7FC00000 else if x = 0x80000000#32 then 0 else x.toNat) 8
  else natLE (intBits 64 (intOfCode fmt code)) 8

/-- The key bytes of a value; none for a null (R120, R125). -/
def cellKey (c : Column) (x : Cell) : Option (List Byte) :=
  if !x.present then none
  else if c.kind = 2 then some (x.vals.map (BitVec.ofNat 8))
  else some (scalarKey c.fmt (x.vals.headD 0))

/-- H64 as a number. -/
def hashNat (bs : List Byte) (seed : Nat) : Nat := (h64 bs (BitVec.ofNat 64 seed)).toNat

end Sys2Proof.Machine
end

