-- ==== Sys2Proof/Machine/Relational.lean ====
section
/-!
DEFINITION. FILTER, PROJECT, HASH, BUCKET, CROSS, CLIP, NORM, PARTITION and GROUP_AGG (07 R127 to R141, R147 to R149).
-/

namespace Sys2Proof.Machine

open Sys2Proof

/-! ### What install checks (07 R123, R127 to R147) -/

def keyFmts : List Nat := [0x0B, 0x0C, 0x0D, 0x0E, 0x0F, 0x10, 0x11, 0x12, 0x13]

/-- A bound of CLIP is a NaN for a float format. -/
def boundNan (v : Nat) : Bool := f32IsNan (BitVec.ofNat 32 v)

/-- The order key of a constant held for a column format: INT64 for integers with a sign, UINT64 for the others, FP32 for
floats (R127, R135; log entry 171). -/
def constKey (fmt v : Nat) : Int :=
  if fmtIsFloat fmt then f32Key (BitVec.ofNat 32 v)
  else if fmtSigned fmt || fmt == fBin1 || fmt == fTer then sintOf 64 v else (v % 2 ^ 64 : Nat)

def filterCheck (o : List Byte) : Option Nat :=
  let terms := leAt o 24 1
  firstBad ([(24, decide (3 < terms)), (25, decide (4 ≤ leAt o 25 1))] ++
    (List.range 3).map (fun t => (28 + 12 * t,
      if t < terms then leAt o (29 + 12 * t) 1 == 0 || decide (8 < leAt o (29 + 12 * t) 1) || leAt o (30 + 12 * t) 2 != 0
      else !(allZero (slice o (28 + 12 * t) 12)))))

def projectCheck (o : List Byte) : Option Nat :=
  let n := leAt o 24 1
  let pos := bitAt (leAt o 25 1) 0
  firstBad ([(24, decide (16 < n)), (25, decide (2 ≤ leAt o 25 1) || (pos && refKind (opRef o 2) == 0))] ++
    (List.range 16).map (fun e => (32 + 2 * e,
      if e < n then decide (2 < leAt o (33 + 2 * e) 1) || refKind (opRef o (leAt o (33 + 2 * e) 1)) == 0
      else leAt o (32 + 2 * e) 2 != 0)))

/-- INT32 output needs a modulus of 1 to 2^31 (R131). -/
def moduloBad (o : List Byte) : Bool := opFmt o == fInt32 && (leAt o 40 8 == 0 || decide (2 ^ 31 < leAt o 40 8))

def hashCheck (o : List Byte) : Option Nat := firstBad [(40, moduloBad o)]

def bucketCheck (o : List Byte) : Option Nat := firstBad [(28, decide (65535 < leAt o 28 4))]

def crossCheck (o : List Byte) : Option Nat :=
  firstBad [(26, (refKind (opRef o 2) == 0) != (leAt o 26 1 == 0xFF)), (28, decide (4096 < leAt o 28 4)),
            (40, moduloBad o)]

def clipCheck (o : List Byte) : Option Nat :=
  let f := opFmt o
  let lo := leAt o 32 8
  let hi := leAt o 40 8
  firstBad [(3, opIn o != f), (25, decide (4 ≤ leAt o 25 1)),
    (36, fmtKeyFloat f && decide (2 ^ 32 ≤ lo)), (44, fmtKeyFloat f && decide (2 ^ 32 ≤ hi)),
    (32, if fmtKeyFloat f then boundNan lo || boundNan hi || decide (constKey f hi < constKey f lo)
         else decide (sintOf 64 hi < sintOf 64 lo))]

def normCheck (o : List Byte) : Option Nat :=
  let op := leAt o 24 1
  let eps : W32 := BitVec.ofNat 32 (leAt o 32 4)
  let inOk := keyFmts.contains (opIn o)
  let outOk := opFmt o == 0x0E || opFmt o == 0x0F || opFmt o == 0x10
  firstBad [(24, decide (3 < op)), (2, if op = 1 then opIn o != 0 else !inOk),
    (3, if op < 2 then opFmt o != 0 else !outOk), (25, decide (16 < leAt o 25 1)),
    (8, (refKind (opRef o 1) == 0) != decide (op < 2)),
    (16, op == 0 && !(refKind (opRef o 3) == 1 && refPerItem (opRef o 3))),
    (27, decide (2 ≤ leAt o 27 1)),
    (28, if op = 1 then decide (65536 < leAt o 28 4) else leAt o 28 4 != 0),
    (32, if op = 2 then !(f32IsFinite eps && decide (0 < f32Key eps)) else leAt o 32 4 != 0)]

def partitionCheck (o : List Byte) : Option Nat := firstBad [(25, leAt o 25 1 == 0 || decide (10 < leAt o 25 1))]

def groupCheck (o : List Byte) : Option Nat :=
  let n := leAt o 25 1
  firstBad ([(25, decide (8 < n)), (26, decide (1 < leAt o 26 1))] ++
    (List.range 8).map (fun e => (32 + 4 * e,
      if e < n then leAt o (32 + 4 * e) 1 == 0 || decide (6 < leAt o (32 + 4 * e) 1) || leAt o (34 + 4 * e) 2 != 0 ||
        (leAt o (33 + 4 * e) 1 == 0xFF && leAt o (32 + 4 * e) 1 != 1)
      else leAt o (32 + 4 * e) 4 != 0)))

def projectRule : OpRule :=
  { skip := [0, 1, 2], kinds := [kSrc, kOpt, kOpt, kDst], fmtIn := [0], fmtOut := [0], lengths := [(24, 1)],
    named := [(24, 25), (32, 63)], check := projectCheck }

def filterRule : OpRule :=
  { skip := [0], kinds := [kSrc, kNone, kNone, kDst], fmtIn := [0], fmtOut := [0], lengths := [(24, 1)],
    named := [(24, 25), (28, 63)], check := filterCheck }

def hashRule : OpRule :=
  { skip := [0, 1, 2], kinds := [kSrc, kNone, kNone, kDst], fmtIn := keyFmts, fmtOut := [0x11, 0x12, 0x13],
    lengths := [], named := [(24, 24), (32, 47)], check := hashCheck }

def bucketRule : OpRule :=
  { skip := [0, 1, 2], kinds := [kSrc, kSrc, kNone, kDst], fmtIn := keyFmts, fmtOut := [0x11], lengths := [(28, 4)],
    named := [(24, 24), (28, 31)], check := bucketCheck }

def crossRule : OpRule :=
  { skip := [0, 1, 2], kinds := [kSrc, kSrc, kOpt, kDst], fmtIn := [0], fmtOut := [0x11, 0x12, 0x13],
    lengths := [(28, 4)], named := [(24, 26), (28, 29), (32, 47)], check := crossCheck }

def clipRule : OpRule :=
  { skip := [0, 1, 2], kinds := [kSrc, kNone, kNone, kDst], fmtIn := keyFmts, fmtOut := keyFmts, lengths := [],
    named := [(24, 25), (32, 47)], check := clipCheck }

def normRule : OpRule :=
  { skip := [0, 1, 2], kinds := [kSrc, kOpt, kNone, kDst], fmtIn := 0 :: keyFmts, fmtOut := [0, 0x0E, 0x0F, 0x10],
    lengths := [(25, 1)], named := [(24, 35)], check := normCheck }

def partitionRule : OpRule :=
  { skip := [0], kinds := [kSrc, kNone, kNone, kDst], fmtIn := [0], fmtOut := [0], lengths := [],
    named := [(24, 25), (32, 39)], check := partitionCheck }

def groupRule : OpRule :=
  { skip := [0], kinds := [kSrc, kNone, kNone, kDst], fmtIn := [0], fmtOut := [0], lengths := [(25, 1)],
    named := [(24, 26), (32, 63)], check := groupCheck }

/-! ### Shared -/

/-- A row-wise operator with one output column: its cells by input row, a null for each null. -/
def oneColumn (i : OpIn) (kind fmt : Nat) (valid : Bool) (cells : List Cell) (skip : Nat → Bool) (cost : Nat)
    (ctrs : Counters) : OpRes :=
  let c : Column := { kind := kind, fmt := fmt, valid := valid, cells := modeCells i kind skip cells }
  let rows := c.cells.length
  { out := ColSet.bytes { rows := rows, cols := [c] }, cost := cost + writeUnits i [c], runs := i.runsOn, counters := ctrs }

/-- The rows that a whole-item marker gives to a one-column operator. -/
def goneCells (i : OpIn) : List Cell := List.replicate i.count (zeroCell 1)

/-- The column `k` of the set in src0, the check's charge and the units of the column; none when an operand check
fails.  A whole-item marker gives no column. -/
def srcColumn (i : OpIn) (p : Operand) (k : Nat) (allow : Column → Bool) : Option (Option Column × Nat) :=
  match setIn p i.count with
  | .bad => none
  | .gone => some (none, 0)
  | .got c check =>
    match c.cols.drop k with
    | [] => none
    | x :: _ => if allow x then some (some x, check + colUnits p x) else none

/-! ### HASH, BUCKET, CROSS, CLIP -/

/-- H64 under a seed and an optional modulus (R132). -/
def hashMod (bs : List Byte) (seed modulus : Nat) : Nat :=
  let h := hashNat bs seed
  if modulus = 0 then h else h % modulus

/-- HASH: one hash for each row (R132). -/
def hashOp (i : OpIn) : OpRes :=
  let o := i.op
  let fmt := opFmt o
  match srcColumn i i.src0 (leAt o 24 1) (fun c => keyColumn c && c.fmt == opIn o) with
  | none => relBad
  | some (c, cost) =>
    let valid := (c.map (·.valid)).getD false
    if !(fits i [partSizes 1 fmt i.count valid i.count]) then relBad
    else match c with
      | none => oneColumn i 1 fmt false (goneCells i) (fun _ => true) (cost + ceilDiv i.count 4) []
      | some c =>
        let skip := i.rowSkip i.src0
        let w := c.cells.foldl (fun a x => a + match cellKey c x with
          | some k => max 1 (ceilDiv k.length 8)
          | none => 1) 0
        let cells := c.cells.map (fun x => match cellKey c x with
          | some k => { present := true, vals := [hashMod k (leAt o 32 8) (leAt o 40 8)] }
          | none => nullCell 1)
        oneColumn i 1 fmt valid cells skip (cost + ceilDiv w 4) []

/-- The boundaries of BUCKET as order keys; none when they are not strictly ascending or hold a NaN (R124). -/
def boundaries (fmt n : Nat) (bs : List Byte) : Option (List Int) :=
  let w := if fmtKeyFloat fmt then 4 else 8
  let vs := (List.range n).map (fun k => leAt bs (w * k) w)
  let ks := vs.map (fun v => if fmtKeyFloat fmt then f32Key (BitVec.ofNat 32 v) else sintOf 64 v)
  let up := (ks.zip (ks.drop 1)).all (fun q => decide (q.1 < q.2))
  if !up || (fmtKeyFloat fmt && vs.any boundNan) then none else some ks

/-- BUCKET: the number of boundaries at or below each value; over a predecessor that was skipped whole every row is skipped
(R133; 05 R91). -/
def bucketOp (i : OpIn) : OpRes :=
  let o := i.op
  let fmt := opIn o
  let nb := leAt o 28 4
  let pb := nb * (if fmtKeyFloat fmt then 4 else 8)
  if nb = 0 then noOp
  else if !i.src1.gone && i.src1.bytes.length < pb then plainBad
  else
  match srcColumn i i.src0 (leAt o 24 1) (fun c => c.kind == 1 && c.fmt == fmt),
    (if i.src1.gone then some [] else boundaries fmt nb i.src1.bytes) with
  | some (c, cost), some ks =>
    let valid := (c.map (·.valid)).getD false
    if !(fits i [partSizes 1 fInt32 i.count valid i.count]) then relBad
    else
      let cost := cost + (if i.src1.gone then 0 else paramUnits i.src1 pb) + ceilDiv (i.count * clog2 (nb + 1)) 64
      match c with
      | none => oneColumn i 1 fInt32 false (goneCells i) (fun _ => true) cost []
      | some c =>
        let bucket := fun (code : Nat) =>
          if fmtKeyFloat fmt && f32IsNan (widenCode fmt code) then nb + 1
          else (ks.filter (fun b => decide (b ≤ orderKey fmt code))).length
        let cells := c.cells.map (fun x =>
          if x.present then { present := true, vals := [bucket (x.vals.headD 0)] } else nullCell 1)
        oneColumn i 1 fInt32 valid cells (fun u => i.src1.gone || i.rowSkip i.src0 u) cost []
  | _, _ => relBad

/-- A column that CROSS may read (R134). -/
def crossColumn (c : Column) : Bool := (c.kind == 1 || c.kind == 3) && (fmtKeyInt c.fmt || fmtKeyFloat c.fmt)

/-- The encodings of a row's values; a null scalar or a null list gives one null. -/
def crossVals (c : Column) (x : Cell) : List (Option (List Byte)) :=
  if x.present then x.vals.map (fun v => some (scalarKey c.fmt v)) else [none]

/-- Combinations of values, the first operand's outermost (R134). -/
def combos : List (List (Option (List Byte))) → List (List (Option (List Byte)))
  | [] => [[]]
  | xs :: rest => xs.flatMap (fun x => (combos rest).map (x :: ·))

/-- CROSS: hashed combinations of the values of two or three columns (R134). -/
def crossOp (i : OpIn) : OpRes :=
  let o := i.op
  let fmt := opFmt o
  let three := leAt o 26 1 != 0xFF
  let cap := leAt o 28 4
  let srcs := [i.src0, i.src1] ++ (if three then [i.src2] else [])
  let ins := ((List.range srcs.length).zip srcs).map (fun q => srcColumn i q.2 (leAt o (24 + q.1) 1) crossColumn)
  if cap = 0 then noOp
  else if ins.any (·.isNone) then relBad
  else
    let got := ins.filterMap id
    let cost := got.foldl (fun a q => a + q.2) 0
    let cols := got.filterMap (·.1)
    let isList := cols.any (·.kind == 3)
    let valid := !isList && cols.any (·.valid)
    let kind := if isList then 3 else 1
    if !(fits i [partSizes kind fmt i.count valid (if isList then i.count * cap else i.count)]) then relBad
    else if cols.length < srcs.length then
      oneColumn i kind fmt false (List.replicate i.count (zeroCell kind)) (fun _ => true) cost []
    else
      let skip := fun u => srcs.any (fun p => i.rowSkip p u)
      let rows := (List.range i.count).map (fun r =>
        let vs := cols.map (fun c => match c.cells.drop r with | x :: _ => crossVals c x | [] => [])
        let all := combos vs
        let keep := all.take cap
        let hs := keep.filterMap (fun cb => if cb.any (·.isNone) then none
          else some (hashMod (cb.flatMap (·.getD [])) (leAt o 32 8) (leAt o 40 8)))
        (hs, all.length - hs.length))
      let live := ((List.range i.count).zip rows).filter (fun q => !(skip q.1))
      let w := live.foldl (fun a q => a + q.2.1.length * srcs.length) 0
      let cut := live.foldl (fun a q => a + q.2.2) 0
      let cells := rows.map (fun q => if isList then { present := true, vals := q.1 }
        else match q.1 with | [] => nullCell 1 | v :: _ => { present := true, vals := [v] })
      oneColumn i kind fmt valid cells skip (cost + ceilDiv w 4) [(32, cut)]

/-- One value clamped by CLIP, and whether it changed (R135). -/
def clipValue (fmt nanMode lo hi code : Nat) : Nat × Bool :=
  if fmtKeyFloat fmt then
    let put := fun (v : Nat) => (narrowF32 fmt (BitVec.ofNat 32 v)).code
    if f32IsNan (widenCode fmt code) then
      if nanMode = 0 then ((canonicalNan? fmt).getD 0, false)
      else ((if nanMode = 1 then put lo else if nanMode = 2 then put hi else 0), true)
    else
      let k := orderKey fmt code
      let c := if k < constKey fmt lo then put lo else if constKey fmt hi < k then put hi else code
      (c, c != code)
  else
    let k := intOfCode fmt code
    let c := if k < sintOf 64 lo then (encodeInt fmt (sintOf 64 lo)).code
      else if sintOf 64 hi < k then (encodeInt fmt (sintOf 64 hi)).code else code
    (c, c != code)

/-- CLIP: values clamped to a range (R135). -/
def clipOp (i : OpIn) : OpRes :=
  let o := i.op
  let fmt := opFmt o
  match srcColumn i i.src0 (leAt o 24 1) (fun c => c.kind == 1 && c.fmt == fmt) with
  | none => relBad
  | some (c, cost) =>
    let valid := (c.map (·.valid)).getD false
    let cost := cost + ceilDiv i.count 64
    if !(fits i [partSizes 1 fmt i.count valid i.count]) then relBad
    else match c with
      | none => oneColumn i 1 fmt false (goneCells i) (fun _ => true) cost []
      | some c =>
        let skip := i.rowSkip i.src0
        let clip := fun (x : Cell) => clipValue fmt (leAt o 25 1) (leAt o 32 8) (leAt o 40 8) (x.vals.headD 0)
        let cells := c.cells.map (fun x => if x.present then { present := true, vals := [(clip x).1] } else nullCell 1)
        let n := (((List.range c.cells.length).zip c.cells).filter
          (fun q => !(skip q.1) && q.2.present && (clip q.2).2)).length
        oneColumn i 1 fmt valid cells skip cost [(28, n)]

/-! ### FILTER and PROJECT -/

/-- A term of FILTER on one value (R127, R128). -/
def termHolds (c : Column) (cmp v : Nat) (x : Cell) : Bool :=
  if cmp = 7 then !x.present
  else if cmp = 8 then x.present
  else if !x.present then false
  else
    let a := orderKey c.fmt (x.vals.headD 0)
    let b := constKey c.fmt v
    if cmp = 1 then a == b else if cmp = 2 then a != b else if cmp = 3 then decide (a < b)
    else if cmp = 4 then decide (a ≤ b) else if cmp = 5 then decide (b < a) else decide (b ≤ a)

/-- FILTER: the positions of the kept rows (R127, R128). -/
def filterOp (i : OpIn) : OpRes :=
  let o := i.op
  let terms := leAt o 24 1
  let done := fun (pos : List Nat) (cost : Nat) =>
    let c : Column := { kind := 1, fmt := fInt32, valid := false, cells := pos.map (fun p => { present := true, vals := [p] }) }
    { out := ColSet.bytes { rows := pos.length, cols := [c] }
      cost := cost + ceilDiv (i.count * terms) 64 + ceilDiv pos.length 64 + writeUnits i [c] : OpRes }
  if terms = 0 then noOp
  else if !(fits i [partSizes 1 fInt32 i.count false i.count]) then relBad
  else match setIn i.src0 i.count with
    | .bad => relBad
    | .gone => done [] 0
    | .got c check =>
      let t := fun (k : Nat) => 28 + 12 * k
      let bad := (List.range terms).any (fun k =>
        match c.cols.drop (leAt o (t k) 1) with
        | [] => true
        | x :: _ => leAt o (t k + 1) 1 < 7 && x.kind != 1)
      if bad then relBad
      else
        let used := ((List.range terms).map (fun k => leAt o (t k) 1)).eraseDups
        let units := used.foldl (fun a k => match c.cols.drop k with | x :: _ => a + colUnits i.src0 x | [] => a) 0
        let hold := fun (k r : Nat) =>
          match c.cols.drop (leAt o (t k) 1) with
          | x :: _ => (match x.cells.drop r with
            | v :: _ => termHolds x (leAt o (t k + 1) 1) (leAt o (t k + 4) 8) v
            | [] => false)
          | [] => false
        let join := fun (k : Nat) (a b : Bool) => if bitAt (leAt o 25 1) (k - 1) then a || b else a && b
        let keep := fun (r : Nat) => (List.range (terms - 1)).foldl (fun a k => join (k + 1) a (hold (k + 1) r)) (hold 0 r)
        let skip := i.rowSkip i.src0
        done ((List.range i.count).filter (fun r => !(skip r) && keep r)) (check + units)

/-- The kind and format of a column that a whole-item marker does not tell (log entry 16). -/
def untold (k : Nat) : Nat × Nat :=
  let kind := 1 + Config.unstated 0x130 [k] % 3
  (kind, if kind = 2 then fUint8 else 1 + Config.unstated 0x131 [k] % 19)

/-- The item positions that carry on which of `m` output rows are skipped: those whose rows are all skipped, or whose row is
(R130; 05 R463; log entry 173). -/
def runsOfRows (c0 m : Nat) (skip : Nat → Bool) : List (Nat × Nat) :=
  runsOf c0 (fun p =>
    if c0 ≤ m then (List.range ((p + 1) * m / c0 - p * m / c0)).all (fun k => skip (p * m / c0 + k))
    else (List.range m).any (fun u => skip u && decide (u * c0 / m ≤ p) && decide (p < (u + 1) * c0 / m)))

/-- PROJECT: columns of up to three sets, with rows in place or by a position list (R129, R130). -/
def projectOp (i : OpIn) : OpRes :=
  let o := i.op
  let n := leAt o 24 1
  let pos := bitAt (leAt o 25 1) 0
  let srcOf := fun (k : Nat) => if k = 0 then i.src0 else if k = 1 then i.src1 else i.src2
  let entries := (List.range n).map (fun e => (leAt o (32 + 2 * e) 1, leAt o (33 + 2 * e) 1))
  let sets := (entries.map (·.2)).eraseDups
  let ins := sets.map (fun k => (k, setIn (srcOf k) i.count))
  let posIn : Option (Option (List Nat) × Nat) :=
    if !pos then some (none, 0)
    else if i.src2.gone then some (some [], 0)
    else match readColSet i.src2.bytes with
      | some c => (match c.cols with
        | x :: _ => if x.kind = 1 && x.fmt = fInt32 && x.cells.all (fun v => v.present && decide (v.vals.headD 0 < i.count))
          then some (some (x.cells.map (fun v => v.vals.headD 0)), colUnits i.src2 x +
            (if i.src2.kind = 1 then ceilDiv (64 + 16 * c.cols.length) 256 else 0)) else none
        | [] => none)
      | none => none
  let column := fun (e : Nat × Nat) => match List.find? (fun q => q.1 == e.2) ins with
    | some (_, .got c _) => c.cols[e.1]?
    | _ => none
  let isGone := fun (e : Nat × Nat) => match List.find? (fun q => q.1 == e.2) ins with
    | some (_, .gone) => true
    | _ => false
  if n = 0 then noOp
  else if ins.any (fun q => q.2 == .bad) || entries.any (fun e => !(isGone e) && (column e).isNone) then relBad
  else match posIn with
    | none => relBad
    | some (pl, posCost) =>
      let rows := match pl with | some ps => ps | none => List.range i.count
      let checks := ins.foldl (fun a q => a + match q.2 with | .got _ c => c | _ => 0) 0
      let units := (entries.eraseDups.foldl (fun a e => match column e with | some c => a + colUnits (srcOf e.2) c | none => a) 0)
      let skip := fun (r : Nat) => sets.any (fun k => i.rowSkip (srcOf k) r)
      let cols := ((List.range n).zip entries).map (fun q =>
        match column q.2 with
        | some c => { c with cells := modeCells i c.kind (fun k => skip (rows.getD k 0)) (rows.map (fun r =>
            c.cells.getD r (zeroCell c.kind))) }
        | none =>
          let (k, f) := untold q.1
          { kind := k, fmt := f, valid := false,
            cells := modeCells i k (fun _ => true) (rows.map (fun _ => zeroCell k)) : Column })
      let worst := entries.map (fun e => match column e with
        | some c => partSizes c.kind c.fmt rows.length c.valid
            (if c.kind = 1 then rows.length else if pos then c.nVals * rows.length else c.nVals)
        | none => [])
      if !(fits i worst) then relBad
      else
        let outRows := match cols with | c :: _ => c.cells.length | [] => 0
        { out := ColSet.bytes { rows := outRows, cols := cols }
          cost := checks + units + posCost + 4 * n + ceilDiv (dataBytes cols) 256 + writeUnits i cols
          runs := if pos && i.mode == 1 && !i.runs.isEmpty then
              runsOfRows i.c0 rows.length (fun r => skip (rows.getD r 0))
            else i.runsOn }

/-! ### NORM -/

/-- A stats record (R137). -/
structure Stats where
  n : Nat
  mean : W32
  m2 : W32
deriving DecidableEq, Repr

def Stats.empty : Stats := { n := 0, mean := 0#32, m2 := 0#32 }

def Stats.bytes (s : Stats) : List Byte :=
  natLE s.n 8 ++ natLE (canonCode fFp32 s.mean.toNat) 4 ++ natLE (canonCode fFp32 s.m2.toNat) 4

def readStats (bs : List Byte) : Stats :=
  { n := leAt bs 0 8, mean := BitVec.ofNat 32 (leAt bs 8 4), m2 := BitVec.ofNat 32 (leAt bs 12 4) }

/-- welford_add (R138). -/
def welfordAdd (p : Stats) (x : W32) : Stats :=
  let n := (p.n + 1) % 2 ^ 64
  let d := fsub x p.mean
  let mean := fadd p.mean (fdiv d (fpNat n))
  { n := n, mean := mean, m2 := fadd p.m2 (fmul d (fsub x mean)) }

/-- welford_merge (R138). -/
def welfordMerge (a b : Stats) : Stats :=
  if b.n = 0 then a
  else if a.n = 0 then b
  else
    let n := (a.n + b.n) % 2 ^ 64
    let d := fsub b.mean a.mean
    { n := n
      mean := fadd a.mean (fmul d (fdiv (fpNat b.n) (fpNat n)))
      m2 := fadd (fadd a.m2 b.m2) (fmul (fmul d d) (fdiv (fmul (fpNat a.n) (fpNat b.n)) (fpNat n))) }

/-- The columns that NORM reads from src0. -/
def normColumns (i : OpIn) (c : ColSet) : Option (List Column) :=
  let o := i.op
  let cols := (c.cols.drop (leAt o 26 1)).take (leAt o 25 1)
  if cols.length = leAt o 25 1 ∧ cols.all (fun x => x.kind == 1 && x.fmt == opIn o) then some cols else none

/-- STATS: one record for each column (R138). -/
def normStats (i : OpIn) : OpRes :=
  let o := i.op
  let k := leAt o 25 1
  let done := fun (rs : List Stats) (cost : Nat) =>
    { out := rs.flatMap Stats.bytes, cost := cost + ceilDiv (k * i.count) 16 + i.outUnits (16 * k), runs := i.runsOn : OpRes }
  if i.dst.span < 16 * k then relBad
  else match setIn i.src0 i.count with
    | .bad => relBad
    | .gone => done (List.replicate k Stats.empty) 0
    | .got c check =>
      match normColumns i c with
      | none => relBad
      | some cols =>
        let skip := i.rowSkip i.src0
        let rs := cols.map (fun x => ((List.range x.cells.length).zip x.cells).foldl (fun p q =>
          let v := widenCode x.fmt (q.2.vals.headD 0)
          if skip q.1 || !q.2.present || (bitAt (leAt o 27 1) 0 && f32IsNan v) then p else welfordAdd p v) Stats.empty)
        done rs (check + cols.foldl (fun a x => a + colUnits i.src0 x) 0)

/-- MERGE: slots merged in ascending order (R139). -/
def normMerge (i : OpIn) : OpRes :=
  let o := i.op
  let k := leAt o 25 1
  let slots := leAt o 28 4
  if slots = 0 then noOp
  else if i.src0.gone then
    { out := (List.replicate k Stats.empty).flatMap Stats.bytes, cost := 8 * slots * k + i.outUnits (16 * k)
      runs := i.runsOn }
  else if i.src0.bytes.length < 16 * k * slots then plainBad
  else if i.dst.span < 16 * k then relBad
  else
    let rs := (List.range k).map (fun c => (List.range slots).foldl
      (fun acc j => welfordMerge acc (readStats (slice i.src0.bytes (16 * (j * k + c)) 16))) Stats.empty)
    { out := rs.flatMap Stats.bytes
      cost := 8 * slots * k + paramUnits i.src0 (16 * k * slots) + i.outUnits (16 * k)
      runs := i.runsOn }

/-- APPLY_Z and APPLY_AFFINE; over a predecessor that was skipped whole every row is skipped (R140; 05 R91). -/
def normApply (i : OpIn) : OpRes :=
  let o := i.op
  let z := leAt o 24 1 == 2
  let k := leAt o 25 1
  let pb := (if z then 16 else 8) * k
  let fmt := opFmt o
  let cost := ceilDiv (i.count * k) 64 + 16 * k + (if i.src1.gone then 0 else paramUnits i.src1 pb)
  let done := fun (cols : List Column) (cost : Nat) =>
    let rows := match cols with | c :: _ => c.cells.length | [] => 0
    { out := ColSet.bytes { rows := rows, cols := cols }, cost := cost + writeUnits i cols, runs := i.runsOn : OpRes }
  if !i.src1.gone && i.src1.bytes.length < pb then plainBad
  else match setIn i.src0 i.count with
    | .bad => relBad
    | .gone =>
      if !(fits i (List.replicate k (partSizes 1 fmt i.count false i.count))) then relBad
      else done (List.replicate k { kind := 1, fmt := fmt, valid := false,
                                    cells := modeCells i 1 (fun _ => true) (goneCells i) }) cost
    | .got c check =>
      match normColumns i c with
      | none => relBad
      | some cols =>
        if !(fits i (cols.map (fun x => partSizes 1 fmt i.count x.valid i.count))) then relBad
        else
          let skip := fun u => i.src1.gone || i.rowSkip i.src0 u
          let out := ((List.range k).zip cols).map (fun q =>
            let r := readStats (slice i.src1.bytes (16 * q.1) 16)
            let var := if r.n = 0 then 0#32 else fdiv r.m2 (fpNat r.n)
            let rsd := fdiv (fpNat 1) (fsqrt (fadd var (BitVec.ofNat 32 (leAt o 32 4))))
            let a : W32 := BitVec.ofNat 32 (leAt i.src1.bytes (8 * q.1) 4)
            let b : W32 := BitVec.ofNat 32 (leAt i.src1.bytes (8 * q.1 + 4) 4)
            let f := fun (x : W32) => if z then fmul (fsub x r.mean) rsd else fmul (fsub x a) b
            { kind := 1, fmt := fmt, valid := q.2.valid
              cells := modeCells i 1 skip (q.2.cells.map (fun x => if x.present then
                { present := true, vals := [(narrowF32 fmt (f (widenCode q.2.fmt (x.vals.headD 0)))).code] }
                else nullCell 1)) : Column })
          done out (check + cost + cols.foldl (fun a x => a + colUnits i.src0 x) 0)

def normOp (i : OpIn) : OpRes :=
  let op := leAt i.op 24 1
  if leAt i.op 25 1 = 0 then noOp else if op = 0 then normStats i else if op = 1 then normMerge i else normApply i

/-! ### PARTITION and GROUP_AGG -/

/-- PARTITION: rows grouped by the top bits of the key's hash (R141). -/
def partitionOp (i : OpIn) : OpRes :=
  let o := i.op
  let p := leAt o 25 1
  let tail := 4 * (2 ^ p + 1)
  let done := fun (cols : List Column) (offs : List Nat) (cost : Nat) =>
    let rows := match cols with | c :: _ => c.cells.length | [] => 0
    { out := ColSet.bytes { rows := rows, cols := cols } ++ offs.flatMap (fun x => natLE x 4)
      cost := cost + ceilDiv i.count 16 + ceilDiv (dataBytes cols + tail) 256 + writeUnits i cols + i.outUnits tail : OpRes }
  match setIn i.src0 i.count with
  | .bad => relBad
  | .gone =>
    let (k, f) := untold 0
    done [{ kind := k, fmt := f, valid := false, cells := [] }] (List.replicate (2 ^ p + 1) 0) 0
  | .got c check =>
    match c.cols[leAt o 24 1]? with
    | none => relBad
    | some key =>
      if !(keyColumn key) || i.dst.span < setBytes (c.cols.map (·.parts)) + tail then relBad
      else
        let skip := i.rowSkip i.src0
        let part := fun (r : Nat) => match (key.cells[r]?).bind (cellKey key) with
          | some k => hashNat k (leAt o 32 8) / 2 ^ (64 - p)
          | none => 0
        let live := (List.range i.count).filter (fun r => !(skip r))
        let by_ := (List.range (2 ^ p)).map (fun j => live.filter (fun r => part r == j))
        let order := by_.flatMap id
        let cols := c.cols.map (fun x => { x with cells := order.map (fun r => x.cells.getD r (nullCell x.kind)) })
        let offs := (by_.foldl (fun (acc : Nat × List Nat) g => (acc.1 + g.length, acc.2 ++ [acc.1 + g.length])) (0, [0])).2
        done cols offs (check + c.cols.foldl (fun a x => a + colUnits i.src0 x) 0)

/-- The groups of rows, in order of first appearance, each with its rows ascending (R148). -/
def groupRows (keyOf : Nat → Option (List Byte)) (rows : List Nat) : List (Option (List Byte) × List Nat) :=
  rows.foldl (fun gs r =>
    let k := keyOf r
    if gs.any (fun g => g.1 == k) then gs.map (fun g => if g.1 = k then (g.1, g.2 ++ [r]) else g)
    else gs ++ [(k, [r])]) []

/-- A SUM of integers, clamped at the INT64 limits after each addition, with the clamps counted (R148). -/
def sumInts (vs : List Int) : Int × Nat :=
  vs.foldl (fun (acc : Int × Nat) v =>
    let z := acc.1 + v
    if z < -(2 ^ 63 : Nat) then (-(2 ^ 63 : Nat), acc.2 + 1)
    else if (2 ^ 63 - 1 : Nat) < z then ((2 ^ 63 - 1 : Nat), acc.2 + 1)
    else (z, acc.2)) (0, 0)

/-- The first value that no other lies beyond, in a direction, under the device ordering. -/
def extreme (fmt : Nat) (up : Bool) : List Nat → Option Nat
  | [] => none
  | v :: vs => some (vs.foldl (fun best x =>
      if (if up then orderKey fmt best < orderKey fmt x else orderKey fmt x < orderKey fmt best) then x else best) v)

/-- The output kind and format of an aggregate; none when its column does not allow it (R148). -/
def aggShape (op : Nat) (c : Option Column) (merge : Bool) : Option (Nat × Nat) :=
  match c with
  | none => if op = 1 && !merge then some (1, fInt64) else none
  | some c =>
    if op = 1 then (if merge && !(c.kind == 1 && !fmtIsFloat c.fmt) then none else some (1, fInt64))
    else if op = 2 then (if c.kind = 1 then some (1, if fmtIsFloat c.fmt then fFp32 else fInt64) else none)
    else if op = 3 || op = 4 then (if c.kind = 1 then some (1, c.fmt) else none)
    else some (c.kind, c.fmt)

/-- One aggregate over the rows of a group, with its clamps (R148). -/
def aggregate (op : Nat) (c : Option Column) (merge : Bool) (rows : List Nat) : Cell × Nat :=
  match c with
  | none => ({ present := true, vals := [rows.length] }, 0)
  | some c =>
    let present := (rows.filterMap (fun r => c.cells[r]?)).filter (·.present)
    let codes := present.map (fun x => x.vals.headD 0)
    if op = 1 then
      if merge then
        let (z, n) := sumInts (codes.map (intOfCode c.fmt))
        ({ present := true, vals := [intBits 64 z] }, n)
      else ({ present := true, vals := [present.length] }, 0)
    else match present with
      | [] => (nullCell (if op ≤ 4 then 1 else c.kind), 0)
      | first :: _ =>
        let canon := fun (x : Cell) => { x with vals := x.vals.map (canonCode c.fmt) }
        if op = 2 then
          if fmtIsFloat c.fmt then
            ({ present := true, vals := [(codes.foldl (fun (a : W32) v => fadd a (widenCode c.fmt v)) 0#32).toNat] }, 0)
          else
            let (z, n) := sumInts (codes.map (intOfCode c.fmt))
            ({ present := true, vals := [intBits 64 z] }, n)
        else if op = 3 then ({ present := true, vals := [canonCode c.fmt ((extreme c.fmt false codes).getD 0)] }, 0)
        else if op = 4 then ({ present := true, vals := [canonCode c.fmt ((extreme c.fmt true codes).getD 0)] }, 0)
        else if op = 5 then (canon first, 0)
        else (canon (present.getLastD first), 0)

/-- GROUP_AGG: one row for each group in order of first appearance (R147, R148). -/
def groupOp (i : OpIn) : OpRes :=
  let o := i.op
  let k := leAt o 24 1
  let n := leAt o 25 1
  let merge := leAt o 26 1 == 1
  if n = 0 then noOp else
  let compute := ceilDiv i.count 4 + ceilDiv (i.count * n) 16
  let done := fun (cols : List Column) (cost sats : Nat) =>
    let rows := match cols with | c :: _ => c.cells.length | [] => 0
    { out := ColSet.bytes { rows := rows, cols := cols }
      cost := cost + compute + writeUnits i cols
      counters := if sats = 0 then [] else [(52, sats)], events := if sats = 0 then [] else [(evRel, 3)] : OpRes }
  let aggs := (List.range n).map (fun e => (leAt o (32 + 4 * e) 1, leAt o (33 + 4 * e) 1))
  match setIn i.src0 i.count with
  | .bad => relBad
  | .gone =>
    let keyCol : List Column := if k = 0xFF then [] else
      [{ kind := (untold 0).1, fmt := (untold 0).2, valid := true, cells := [] }]
    done (keyCol ++ aggs.map (fun a => {
      kind := 1, fmt := if a.1 = 1 then fInt64 else (untold a.2).2, valid := true,
      cells := if k = 0xFF then [if a.1 = 1 then { present := true, vals := [0] } else nullCell 1] else [] })) 0 0
  | .got c check =>
    let key := if k = 0xFF then none else c.cols[k]?
    let colOf := fun (x : Nat) => if x = 0xFF then none else c.cols[x]?
    if (k != 0xFF && !(key.elim false keyColumn)) || aggs.any (fun a => a.2 != 0xFF && (colOf a.2).isNone) ||
        aggs.any (fun a => (aggShape a.1 (colOf a.2) merge).isNone) then relBad
    else
      let groupsMax := if k = 0xFF then 1 else i.count
      let worst := (match key with | some c => [partSizes c.kind c.fmt groupsMax c.valid c.nVals] | none => []) ++
        aggs.map (fun a => match aggShape a.1 (colOf a.2) merge with
          | some (kd, f) => partSizes kd f groupsMax (a.1 != 1)
              (if kd = 1 then groupsMax else ((colOf a.2).map (·.nVals)).getD 0)
          | none => [])
      if !(fits i worst) then relBad
      else
        let skip := i.rowSkip i.src0
        let live := (List.range i.count).filter (fun r => !(skip r))
        let groups : List (Option (List Byte) × List Nat) := match key with
          | none => [(none, live)]
          | some c => groupRows (fun r => (c.cells[r]?).bind (cellKey c)) live
        let keyCols : List Column := match key with
          | none => []
          | some c => [{ c with cells := groups.map (fun g => c.cells.getD (g.2.headD 0) (nullCell c.kind)) }]
        let rs := aggs.map (fun a => groups.map (fun g => aggregate a.1 (colOf a.2) merge g.2))
        let cols := (aggs.zip rs).map (fun q =>
          let (kd, f) := (aggShape q.1.1 (colOf q.1.2) merge).getD (1, fInt64)
          { kind := kd, fmt := f, valid := q.1.1 != 1, cells := q.2.map (·.1) : Column })
        let sats := rs.foldl (fun a r => r.foldl (fun a q => a + q.2) a) 0
        let used := ((if k = 0xFF then [] else [k]) ++ (aggs.map (·.2)).filter (· != 0xFF)).eraseDups
        let units := used.foldl (fun a x => match c.cols[x]? with | some y => a + colUnits i.src0 y | none => a) 0
        done (keyCols ++ cols) (check + units) sats

/-! ### Commands -/

def execFilter (item : Nat) (s : State) : Host.Outcome State Fault Refusal :=
  finish (runOp s item 0x09 (fun _ _ _ i => filterOp i))

def execProject (item : Nat) (s : State) : Host.Outcome State Fault Refusal :=
  finish (runOp s item 0x08 (fun _ _ _ i => projectOp i))

def execHash (item : Nat) (s : State) : Host.Outcome State Fault Refusal :=
  finish (runOp s item 0x0A (fun _ _ _ i => hashOp i))

def execBucket (item : Nat) (s : State) : Host.Outcome State Fault Refusal :=
  finish (runOp s item 0x0B (fun _ _ _ i => bucketOp i))

def execCross (item : Nat) (s : State) : Host.Outcome State Fault Refusal :=
  finish (runOp s item 0x0C (fun _ _ _ i => crossOp i))

def execNorm (item : Nat) (s : State) : Host.Outcome State Fault Refusal :=
  finish (runOp s item 0x0D (fun _ _ _ i => normOp i))

def execClip (item : Nat) (s : State) : Host.Outcome State Fault Refusal :=
  finish (runOp s item 0x0E (fun _ _ _ i => clipOp i))

def execPartition (item : Nat) (s : State) : Host.Outcome State Fault Refusal :=
  finish (runOp s item 0x10 (fun _ _ _ i => partitionOp i))

def execGroupAgg (item : Nat) (s : State) : Host.Outcome State Fault Refusal :=
  finish (runOp s item 0x13 (fun _ _ _ i => groupOp i))

end Sys2Proof.Machine
end

