-- ==== Sys2Proof/Machine/Selection.lean ====
section
/-!
DEFINITION. SORT, UNIQUE, TOPK and SEL_MERGE (11 R223 to R236), and lookup sets (09 R182).
-/

namespace Sys2Proof.Machine

open Sys2Proof

def selBad : OpRes := { bad := true, badBump := ctSelBad, badEvent := (evSel, 0) }

/-! ### What install checks -/

def topkFmts : List Nat := [0x09, 0x0A, 0x0B, 0x0C, 0x0D, 0x0E, 0x0F, 0x10, 0x11, 0x12, 0x13]

/-- A work area stands in src2 exactly when count exceeds 4,096 (R224). -/
def workBad (o : List Byte) : Bool := (refKind (opRef o 2) == 0) != decide (opCount o ≤ 4096)

def sortCheck (o : List Byte) : Option Nat :=
  firstBad [(20, decide (2 ^ 20 < opCount o)), (12, workBad o), (26, decide (8 ≤ leAt o 26 1))]

def sortRule : OpRule :=
  { skip := [0], kinds := [kSrc, kNone, [0, 1, 2], kDst], fmtIn := [0], fmtOut := [0], lengths := [],
    named := [(24, 26)], check := sortCheck }

def uniqueCheck (o : List Byte) : Option Nat :=
  firstBad [(12, workBad o), (16, refPerItem (opRef o 3)), (20, decide (2 ^ 20 < opCount o)),
    (26, leAt o 25 1 != 0xFF && leAt o 26 1 != 0), (32, decide (2 ^ 20 < leAt o 32 4))]

def uniqueRule : OpRule :=
  { skip := [0], kinds := [kSrc, kNone, [0, 1, 2], [1]], fmtIn := [0], fmtOut := [0], lengths := [(32, 4)],
    named := [(24, 28), (32, 35)], check := uniqueCheck }

def topkCheck (o : List Byte) : Option Nat :=
  let l := leAt o 28 4
  firstBad [(8, (leAt o 25 1 == 1) != (refKind (opRef o 1) != 0)), (16, refKind (opRef o 3) == 1 && !(refPerItem (opRef o 3))),
    (20, l != 0 && opCount o % l != 0), (24, decide (1 < leAt o 24 1)), (25, decide (1 < leAt o 25 1)),
    (26, decide (4096 < leAt o 26 2)), (28, decide (2 ^ 20 < l))]

def topkRule : OpRule :=
  { skip := [0], kinds := [kSrc, [0, 1], kNone, kDst], fmtIn := topkFmts, fmtOut := [0], lengths := [(26, 2), (28, 4)],
    named := [(24, 39)], check := topkCheck }

def selMergeCheck (o : List Byte) : Option Nat :=
  let k := leAt o 26 2 * leAt o 30 4
  firstBad [(20, k != 0 && opCount o % k != 0), (24, decide (1 < leAt o 24 1)), (26, decide (4096 < leAt o 26 2)),
    (28, decide (4096 < leAt o 28 2)), (30, decide (65536 < leAt o 30 4))]

def selMergeRule : OpRule :=
  { skip := [0], kinds := [kSrc, kNone, kNone, kDst], fmtIn := topkFmts, fmtOut := [0],
    lengths := [(26, 2), (28, 2), (30, 4)], named := [(24, 24), (26, 33)], check := selMergeCheck }

/-! ### Ordering -/

/-- Insertion into a list ordered by a strict order; equal elements keep their order. -/
def insertBy {α : Type} (lt : α → α → Bool) (x : α) : List α → List α
  | [] => [x]
  | y :: ys => if lt y x then y :: insertBy lt x ys else x :: y :: ys

/-- A stable sort by a strict order. -/
def sortBy {α : Type} (lt : α → α → Bool) (xs : List α) : List α := xs.foldr (insertBy lt) []

/-- Passes of the sort unit (R236). -/
def sortPasses (count : Nat) : Nat :=
  if count ≤ 4096 then 1 else 1 + ceilDiv (clog2 (ceilDiv count 4096)) 4

/-- What a sort leaves in its work area is not stated (R224; log entry 20). -/
def workWrites (i : OpIn) (x : Ctx) (idx : Nat) : List (Nat × List Byte) :=
  if refKind (opRef i.op 2) = 1 then
    match tensorView x (opRef i.op 2) idx with
    | some v => [(v.lo, (List.range (16 * i.count)).map (fun k => BitVec.ofNat 8 (Config.unstated 0x224 (i.seed ++ [k]))))]
    | none => []
  else []

/-- The work area of more than 4,096 elements is large enough. -/
def workOk (i : OpIn) (img : List Byte) : Bool :=
  decide (i.count ≤ 4096) ||
  (if refKind (opRef i.op 2) = 2 then decide (16 * i.count ≤ chainBufSize img (refIndex (opRef i.op 2)))
   else decide (16 * i.count ≤ i.src2.span))

/-- Units that the passes read and write of the input columns and the work area (R236). -/
def passUnits (i : OpIn) (r colUnits : Nat) : Nat :=
  r * colUnits + (if refKind (opRef i.op 2) = 1 then 2 * r * unitsOf (16 * i.count) else 0)

/-! ### SORT -/

/-- The comparison of two cells of a key column: less, equal or greater as -1, 0, 1 (R225). -/
def cellOrder (c : Column) (desc nullsFirst : Bool) (a b : Nat) : Int :=
  let x := c.cells.getD a (nullCell 1)
  let y := c.cells.getD b (nullCell 1)
  if !x.present && !y.present then 0
  else if !x.present then (if nullsFirst then -1 else 1)
  else if !y.present then (if nullsFirst then 1 else -1)
  else
    let p := orderKey c.fmt (x.vals.headD 0)
    let q := orderKey c.fmt (y.vals.headD 0)
    if p = q then 0 else if decide (p < q) != desc then -1 else 1

def sortColumn (c : Column) : Bool := c.kind == 1 && (fmtKeyInt c.fmt || fmtKeyFloat c.fmt)

/-- SORT: input positions in sorted order (R224, R225). -/
def sortOp (img : List Byte) (i : OpIn) : OpRes :=
  let o := i.op
  let two := leAt o 25 1 != 0xFF
  let r := sortPasses i.count
  let done := fun (pos : List Nat) (cost : Nat) =>
    let c : Column := { kind := 1, fmt := fInt32, valid := false, cells := pos.map (fun p => { present := true, vals := [p] }) }
    { out := ColSet.bytes { rows := pos.length, cols := [c] }
      cost := cost + r * ceilDiv i.count 32 * (if two then 2 else 1) + writeUnits i [c] : OpRes }
  if !(workOk i img) || !(fits i [partSizes 1 fInt32 i.count false i.count]) then plainBad
  else match setIn i.src0 i.count with
    | .bad => selBad
    | .gone => done [] (passUnits i r 0)
    | .got c check =>
      match c.cols[leAt o 24 1]?, (if two then c.cols[leAt o 25 1]? else c.cols[leAt o 24 1]?) with
      | some a, some b =>
        if !(sortColumn a) || !(sortColumn b) then selBad
        else
          let nf := bitAt (leAt o 26 1) 2
          let lt := fun (p q : Nat) =>
            let k := cellOrder a (bitAt (leAt o 26 1) 0) nf p q
            if k ≠ 0 then decide (k < 0)
            else
              let k := if two then cellOrder b (bitAt (leAt o 26 1) 1) nf p q else 0
              if k ≠ 0 then decide (k < 0) else decide (p < q)
          let units := colUnits i.src0 a + (if two && leAt o 25 1 != leAt o 24 1 then colUnits i.src0 b else 0)
          let live := (List.range i.count).filter (fun p => !(i.rowSkip i.src0 p))
          done (sortBy lt live) (check + passUnits i r units)
      | _, _ => selBad

/-! ### UNIQUE -/

/-- A part of a lookup set: distinct (table, row) pairs with the row as 64 bits, (slot, bag) positions, and weights
(09 R182). -/
structure LookPart where
  distinct : List (Nat × Nat)
  positions : List (Nat × Nat)
  weights : List Nat
deriving DecidableEq, Repr

def LookPart.bytes (p : LookPart) : List Byte :=
  p.distinct.flatMap (fun d => natLE d.2 8 ++ natLE d.1 1 ++ zeros 7) ++
  p.positions.flatMap (fun q => natLE q.1 4 ++ natLE q.2 4) ++ p.weights.flatMap (fun w => natLE w 4)

/-- Parts per item, the bytes of a part's place, and the bytes of the whole set (R227). -/
def uniqueLayout (o : List Byte) (n : Nat) : Nat × Nat × Nat :=
  let p := leAt o 32 4
  let q := ceilDiv (opCount o) p
  let place := roundUp ((if leAt o 28 1 != 0xFF then 28 else 24) * p) 16
  (q, place, 64 + 16 * n * q + n * q * place)

/-- A column of UNIQUE by its number; `some none` when 0xFF names none. -/
def uniqueCol (c : ColSet) (k : Nat) (fmts : List Nat) (must : Bool) : Option (Option Column) :=
  if k = 0xFF && !must then some none
  else match c.cols[k]? with
    | some x => if x.kind = 1 && fmts.contains x.fmt then some (some x) else none
    | none => none

/-- The code of a cell, none for a null. -/
def cellCode (c : Option Column) (r : Nat) : Option Nat :=
  c.bind (fun c => (c.cells[r]?).bind (fun x => if x.present then some (x.vals.headD 0) else none))

/-- The part that covers some input rows (R227). -/
def uniquePart (o : List Byte) (row table bag weight : Option Column) (rows : List Nat) : LookPart :=
  let key := fun (r : Nat) =>
    match cellCode row r, (if leAt o 25 1 = 0xFF then some (leAt o 26 1) else cellCode table r) with
    | some v, some t => some (t, intBits 64 (intOfCode ((row.map (·.fmt)).getD 0) v))
    | _, _ => none
  let lt := fun (a b : Nat × Nat) => if a.1 = b.1 then decide (sintOf 64 a.2 < sintOf 64 b.2) else decide (a.1 < b.1)
  let keys := rows.map key
  let distinct := sortBy lt (keys.filterMap id).eraseDups
  { distinct := distinct
    positions := ((List.range rows.length).zip (rows.zip keys)).map (fun q =>
      let slot := match q.2.2 with | some k => (distinct.findIdx? (· == k)).getD 0xFFFFFFFF | none => 0xFFFFFFFF
      (slot, if leAt o 27 1 = 0xFF then q.1 else (cellCode bag q.2.1).getD 0))
    weights := if leAt o 28 1 = 0xFF then [] else rows.map (fun r => (cellCode weight r).getD 0) }

/-- UNIQUE: the lookup-set parts of an item, at their fixed places (R226, R227). -/
def uniqueOp (img : List Byte) (i : OpIn) : OpRes :=
  let o := i.op
  let pp := leAt o 32 4
  if pp = 0 then noOp else
  let (q, place, total) := uniqueLayout o i.n
  let r := sortPasses i.count
  let hw := leAt o 28 1 != 0xFF
  let done := fun (part : List Nat → LookPart) (cost : Nat) =>
    let skip := fun (p : Nat) => i.src0.gone || i.rowSkip i.src0 p
    let parts := (List.range q).map (fun j => part
      (((List.range (min pp (i.count - j * pp))).map (· + j * pp)).filter (fun p => !(skip p))))
    let head := if i.index = 0 then i.putAt 0 (natLE 0x4B4C4C49 4 ++ natLE (i.n * q) 4 ++ natLE total 8 ++
      natLE (if hw then 1 else 0) 1 ++ zeros 47) else []
    let body := ((List.range q).zip parts).flatMap (fun z =>
      let j := i.index * q + z.1
      let off := 64 + 16 * i.n * q + j * place
      i.putAt off z.2.bytes ++
      i.putAt (64 + 16 * j) (natLE off 8 ++ natLE z.2.positions.length 4 ++ natLE z.2.distinct.length 4))
    let units := parts.foldl (fun a p => a + unitsOf (16 * p.distinct.length) + unitsOf (8 * p.positions.length) +
      unitsOf (4 * p.weights.length)) 0
    { writes := head ++ body, cost := cost + r * ceilDiv i.count 32 + ceilDiv i.count 16 + units : OpRes }
  if !(workOk i img) then plainBad
  else match setIn i.src0 i.count with
    | .bad => selBad
    | .gone => done (uniquePart o none none none none) (passUnits i r 0)
    | .got c check =>
      match uniqueCol c (leAt o 24 1) [fInt64, fInt32] true, uniqueCol c (leAt o 25 1) [fUint8] false,
            uniqueCol c (leAt o 27 1) [fInt32] false, uniqueCol c (leAt o 28 1) [fFp32] false with
      | some row, some table, some bag, some weight =>
        let units := [row, table, bag, weight].foldl (fun a x => a + match x with | some c => colUnits i.src0 c | none => 0) 0
        done (uniquePart o row table bag weight) (check + passUnits i r units)
      | _, _, _, _ => selBad

/-! ### Selection lists -/

/-- An element or entry: its index, its code, its place (position or list number), and its value's order key. -/
structure Sel where
  index : Nat
  code : Nat
  place : Nat
deriving DecidableEq, Repr

/-- Entry `a` ranks before entry `b` (R223). -/
def ranksBefore (fmt order : Nat) (a b : Sel) : Bool :=
  let x := orderKey fmt a.code
  let y := orderKey fmt b.code
  if x ≠ y then (if order = 0 then decide (y < x) else decide (x < y))
  else if a.index ≠ b.index then decide (a.index < b.index) else decide (a.place < b.place)

/-- A sum with its INT64 clamps: FP32 bits for floats, INT64 bits for integers (R229). -/
def sumFrom (fmt start : Nat) (codes : List Nat) : Nat × Nat :=
  if fmtIsFloat fmt then
    ((codes.foldl (fun (a : W32) v => fadd a (widenCode fmt v)) (BitVec.ofNat 32 start)).toNat, 0)
  else
    let clamp := fun (z : Int) => if z < -(2 ^ 63 : Nat) then (-(2 ^ 63 : Nat) : Int)
      else if (2 ^ 63 - 1 : Nat) < z then ((2 ^ 63 - 1 : Nat) : Int) else z
    let r := codes.foldl (fun (acc : Int × Nat) v =>
      let x := clamp (intOfCode fmt v)
      let n1 := if x = intOfCode fmt v then 0 else 1
      let z := acc.1 + x
      let n2 := if clamp z = z then 0 else 1
      (clamp z, acc.2 + n1 + n2)) (sintOf 64 start, 0)
    (intBits 64 r.1, r.2)

/-- Sums of inputs' sums: each an FP32 or an INT64. -/
def sumSums (fmt : Nat) (sums : List Nat) : Nat × Nat :=
  if fmtIsFloat fmt then
    ((sums.foldl (fun (a : W32) v => fadd a (BitVec.ofNat 32 v)) 0#32).toNat, 0)
  else sumFrom fInt64 0 sums

/-- The bytes of a selection list (R228). -/
def listBytes (fmt order k ties conflicts : Nat) (es : List Sel) (selected rest : Nat) : List Byte :=
  natLE es.length 4 ++ natLE ties 4 ++ natLE conflicts 4 ++ natLE fmt 1 ++ natLE order 1 ++ zeros 2 ++
  natLE selected 8 ++ natLE rest 8 ++
  es.flatMap (fun e => natLE e.index 8 ++ natLE (canonCode fmt e.code) 8) ++
  (List.replicate (k - es.length) (natLE (2 ^ 64 - 1) 8 ++ zeros 8)).flatMap id

/-- Elements equal to the last valid value that were left out (R231). -/
def tiesOf (fmt k : Nat) (ranked : List Sel) : Nat :=
  match (ranked.take k).getLast? with
  | some l => if ranked.length < k then 0 else ((ranked.drop k).filter (fun e => orderKey fmt e.code == orderKey fmt l.code)).length
  | none => 0

/-- TOPK (R230, R231). -/
def topkOp (i : OpIn) : OpRes :=
  let o := i.op
  let fmt := opIn o
  let order := leAt o 24 1
  let k := leAt o 26 2
  let len := leAt o 28 4
  if k = 0 || len = 0 then noOp else
  let hasIdx := leAt o 25 1 == 1
  let lists := i.count / len
  let passes := ceilDiv k 64
  let inB := packedBytes fmt i.count
  let r := if fmtBits fmt = 64 then 16 else 32
  if !(i.src0.gone) && i.src0.bytes.length < inB || (hasIdx && !(i.src1.gone) && i.src1.bytes.length < 8 * i.count) then plainBad
  else
    let codes := if i.src0.gone then [] else unpackCodes fmt i.count i.src0.bytes
    let els := ((List.range i.count).zip codes).map (fun q =>
      { index := if hasIdx then leAt i.src1.bytes (8 * q.1) 8
                 else (leAt o 32 8 + i.index * i.count + q.1) % 2 ^ 64, code := q.2, place := q.1 : Sel })
    let live := els.filter (fun e => i.keep e.place)
    let bad := live.filter (fun e => e.index == 2 ^ 64 - 1)
    let present := live.filter (fun e => e.index != 2 ^ 64 - 1)
    let outs := (List.range lists).map (fun l =>
      let mine := present.filter (fun e => e.place / len == l)
      let ranked := sortBy (ranksBefore fmt order) mine
      let top := ranked.take k
      let rest := mine.filter (fun e => !(top.contains e))
      let a := sumFrom fmt 0 (top.map (fun (e : Sel) => e.code))
      let b := sumFrom fmt 0 (rest.map (·.code))
      let ties := tiesOf fmt k ranked
      (listBytes fmt order k ties 0 top a.1 b.1, ties, a.2 + b.2))
    let out := outs.flatMap (·.1)
    let units := fun (p : Operand) (n : Nat) => if p.kind = 1 || p.kind = 3 then unitsOf n else 0
    { out := out
      cost := passes * ceilDiv i.count r + passes * (units i.src0 inB + if hasIdx then units i.src1 (8 * i.count) else 0) +
        i.outUnits out.length
      counters := [(4, bad.length), (40, (outs.map (·.2.1)).sum), (52, (outs.map (·.2.2)).sum)] }

/-- An input list of SEL_MERGE: its entries, ties, conflicts and sum_rest. -/
structure SelList where
  entries : List Sel
  ties : Nat
  conflicts : Nat
  rest : Nat
deriving DecidableEq, Repr

/-- Read an input list; none when its header fails R234. -/
def readList (i : OpIn) (l : Nat) : Option SelList :=
  let o := i.op
  let k := leAt o 26 2
  let bs := i.src0.bytes.drop (l * (32 + 16 * k))
  let n := leAt bs 0 4
  if leAt bs 12 1 ≠ opIn o ∨ leAt bs 13 1 ≠ leAt o 24 1 ∨ leAt bs 14 2 ≠ 0 ∨ k < n then none
  else some {
    entries := ((List.range n).map (fun e =>
      { index := leAt bs (32 + 16 * e) 8, code := leAt bs (40 + 16 * e) 8 % 2 ^ fmtBits (opIn o), place := l : Sel })).zip
        (List.range n) |>.filterMap (fun q => if q.1.index = 2 ^ 64 - 1 || i.skipped (l * k + q.2) then none else some q.1)
    ties := leAt bs 4 4, conflicts := leAt bs 8 4, rest := leAt bs 16 16 / 2 ^ 64 }

/-- Reduce entries of one index to one (R233 step 2): the entries kept and the conflicts. -/
def reduceDups (fmt : Nat) (es : List Sel) : List Sel × Nat :=
  es.foldl (fun (acc : List Sel × Nat) e =>
    match acc.1.find? (fun x => x.index == e.index) with
    | none => (acc.1 ++ [e], acc.2)
    | some x =>
      if x.code = e.code then acc
      else
        let n := acc.2 + 1
        if orderKey fmt x.code < orderKey fmt e.code then
          (acc.1.filter (fun y => y.index != e.index) ++ [e], n)
        else (acc.1, n)) ([], 0)

/-- SEL_MERGE (R232, R233). -/
def selMergeOp (i : OpIn) : OpRes :=
  let o := i.op
  let fmt := opIn o
  let order := leAt o 24 1
  let kin := leAt o 26 2
  let kout := leAt o 28 2
  let g := leAt o 30 4
  if kin = 0 || kout = 0 || g = 0 then noOp else
  let m := i.count / kin
  let inB := m * (32 + 16 * kin)
  let passes := ceilDiv kout 64
  let none_ : SelList := { entries := [], ties := 0, conflicts := 0, rest := 0 }
  if !(i.src0.gone) && i.src0.bytes.length < inB then plainBad
  else match (if i.src0.gone then some (List.replicate m none_) else (List.range m).mapM (readList i)) with
    | none => selBad
    | some ls =>
      let outs := (chunksOf g ls).map (fun (grp : List SelList) =>
        let all := grp.flatMap (fun (x : SelList) => x.entries)
        let (kept, conf) := reduceDups fmt all
        let ranked := sortBy (ranksBefore fmt order) kept
        let top := ranked.take kout
        let left := (all.filter (fun e => kept.contains e)).eraseDups.filter (fun e => !(top.contains e))
        let last := top.getLast?
        let ties := tiesOf fmt kout ranked + (match last with
          | none => 0
          | some l => (grp.map (fun (x : SelList) => match x.entries.getLast? with
              | some y => if orderKey fmt y.code = orderKey fmt l.code then x.ties else 0
              | none => 0)).sum)
        let a := sumFrom fmt 0 (top.map (fun (e : Sel) => e.code))
        let b := sumSums fmt (grp.map (fun (x : SelList) => x.rest))
        let c := sumFrom fmt b.1 (left.map (fun (e : Sel) => e.code))
        let conflicts := conf + (grp.map (fun (x : SelList) => x.conflicts)).sum
        (listBytes fmt order kout ties conflicts top a.1 c.1, ties, conflicts, a.2 + b.2 + c.2))
      let out := outs.flatMap (·.1)
      let units := if i.src0.kind = 1 || i.src0.kind = 3 then unitsOf inB else 0
      { out := out
        cost := passes * ceilDiv i.count 16 + passes * units + i.outUnits out.length
        counters := [(40, (outs.map (·.2.1)).sum), (48, (outs.map (·.2.2.1)).sum), (52, (outs.map (·.2.2.2)).sum)] }

/-! ### Commands -/

/-- SORT and UNIQUE leave their work area with contents that the spec does not state. -/
def withWork (i : OpIn) (x : Ctx) (r : OpRes) : OpRes :=
  if r.bad then r else { r with writes := r.writes ++ workWrites i x i.index }

def execSort (item : Nat) (s : State) : Host.Outcome State Fault Refusal :=
  finish (runOp s item 0x18 (fun s x it i => withWork i x (sortOp (itemImage s it) i)))

def execUnique (item : Nat) (s : State) : Host.Outcome State Fault Refusal :=
  finish (runOp s item 0x19 (fun s x it i => withWork i x (uniqueOp (itemImage s it) i)))

def execTopk (item : Nat) (s : State) : Host.Outcome State Fault Refusal :=
  finish (runOp s item 0x1A (fun _ _ _ i => topkOp i))

def execSelMerge (item : Nat) (s : State) : Host.Outcome State Fault Refusal :=
  finish (runOp s item 0x1B (fun _ _ _ i => selMergeOp i))

end Sys2Proof.Machine
end

