-- ==== Sys2Proof/Machine/Gather.lean ====
section
/-!
DEFINITION. GATHER and GATHER_POOL: lookup sets, the rows they name, the row stage, and the pooled bags (09 R182 to
R192).
-/

namespace Sys2Proof.Machine

open Sys2Proof

/-! ### Install checks (R183, R184) -/

def gatherCheck (pool : Bool) (o : List Byte) : Option Nat :=
  let dst := refKind (opRef o 3)
  let pre := leAt o 25 1
  firstBad [(24, decide ((if pool then 2 else 0) < leAt o 24 1)), (25, decide ((if pool then 0 else 1) < pre)),
    (26, decide (4096 < leAt o 26 2)), (28, decide ((if pool then 2 ^ 20 else 0) < leAt o 28 4)),
    (16, if pre = 1 then dst != 0 else dst = 0),
    (3, if pre = 1 then opFmt o != 0 else opFmt o = 0 || (dst = 4 && opFmt o != fFp32))]

def gatherRule : OpRule :=
  { skip := [0, 1, 2], kinds := [[1, 3], [1], kNone, [0, 1, 2]], fmtIn := [0], fmtOut := [0, fFp32, fBf16, fFp16]
    lengths := [(26, 2)], named := [(24, 31)], check := gatherCheck false }

def gatherPoolRule : OpRule :=
  { skip := [0], kinds := [[1, 3], [1], kNone, [1, 2, 4]], fmtIn := [0], fmtOut := [fFp32, fBf16, fFp16]
    lengths := [(26, 2), (28, 4)], named := [(24, 31)], check := gatherCheck true }

/-! ### Lookup sets -/

/-- Part `idx` of a lookup set, with whether it carries weights; `none` when the header, a reserved field, the directory
entry or the part's place breaks R182. -/
def parseLookup (bs : List Byte) (idx : Nat) : Option (LookPart × Bool) :=
  let parts := leAt bs 4 4
  let total := leAt bs 8 8
  let hw := leAt bs 16 1 = 1
  let d := 64 + 16 * idx
  let off := leAt bs d 8
  let np := leAt bs (d + 8) 4
  let nd := leAt bs (d + 12) 4
  let len := 16 * nd + 8 * np + (if hw then roundUp (4 * np) 16 else 0)
  let ok_ := decide (64 ≤ bs.length) && leAt bs 0 4 == 0x4B4C4C49 && decide (1 ≤ parts) && decide (parts ≤ 65536) &&
    total % 16 == 0 && decide (total ≤ bs.length) && decide (leAt bs 16 1 ≤ 1) && allZero (slice bs 17 47) &&
    decide (idx < parts) && decide (64 + 16 * parts ≤ total) && decide (np ≤ 2 ^ 20) && decide (nd ≤ np) &&
    off % 16 == 0 && decide (off + len ≤ total)
  if !ok_ then none
  else
    let p := bs.drop off
    let distinct := (List.range nd).map (fun k => (leAt p (16 * k + 8) 1, leAt p (16 * k) 8))
    let clean := (List.range nd).all (fun k => allZero (slice p (16 * k + 9) 7))
    let q := p.drop (16 * nd)
    let positions := (List.range np).map (fun k => (leAt q (8 * k) 4, leAt q (8 * k + 4) 4))
    let w := q.drop (8 * np)
    if clean then
      some ({ distinct := distinct, positions := positions
              weights := if hw then (List.range np).map (fun k => leAt w (4 * k) 4) else [] }, hw)
    else none

/-- Every slot is below the distinct count or says that the index was invalid (R182, R185). -/
def slotsOk (p : LookPart) : Bool :=
  p.positions.all (fun q => q.1 == 0xFFFFFFFF || decide (q.1 < p.distinct.length))

/-- The position `p` of a lookup set's part is skipped: GATHER maps item positions as 05 R463 does, the pooled operators take
them as the set's positions, since the bags map them (05 R91, R463). -/
def partSkip (i : OpIn) (p : Nat) : Bool :=
  i.src0.gone || (if opCode i.op = 0x20 then i.rowSkip i.src0 p else inRuns i.src0.runs p)

/-- An operand error of R185. -/
def embBad : OpRes := { bad := true, badBump := ctEmbBad, badEvent := (evEmb, 0) }

/-! ### Rows -/

/-- What a distinct entry comes to: an invalid row, a row of a LOST group, a wait for a rebuild, a rebuild to be
started, a read of the Causeway, or the row's bytes with their offset and whether they came from the Causeway. -/
inductive RowAt where
  | invalid
  | lost (ver group : Nat)
  | wait
  | broken (ver group : Nat) (blocks : List Nat)
  | ask (addr len : Nat)
  | here (ver group : Nat) (t : TDesc) (e : DEntry) (row : Nat) (bytes : List Byte) (tail : Bool)
deriving DecidableEq, Repr

def staged (x : Ctx) (t : TDesc) (row : Nat) : Option StageEntry :=
  x.stage.find? (fun e => e.table == t.tableId && e.version == t.version && e.row == row)

/-- Where a row of a version is read (R186, R191; 17 R370). -/
def rowAt (s : State) (x : Ctx) (it : Item) (v : Nat) (row : Nat) : RowAt :=
  match getVer s v with
  | none => .invalid
  | some y =>
    let t := tdesc s y.desc
    if t.rowCount ≤ row then .invalid
    else
      let g := row / 4096
      let e := dentry s t g
      let a := rowAddr s e (row % 4096)
      if e.state = gLost then .lost v g
      else if e.state = gRebuilding then .wait
      else if isDeck s a then
        if extentBad s (gLocal a) e.stride then .broken v g ((blocksOf (gLocal a) e.stride).filter (fun b => s.deck.bad.contains b))
        else .here v g t e row (deckRead s (gLocal a) e.stride) false
      else match staged x t row with
        | some q => .here v g t e row (slice q.bytes 0 e.stride) false
        | none =>
          if NMap.has it.answers a then .broken v g []
          else if it.asked.contains (a, e.stride) then .here v g t e row (memTake zeroByte it.landed a e.stride) true
          else .ask a e.stride

/-- A row that the item has resolved before: from where it lay then, whatever has happened to its group since (R186, R197).  A
read that failed is made again where the group lies now, and the group is rebuilt when that is the same place. -/
def rowAgain (s : State) (x : Ctx) (it : Item) (l : Lookup) (v row : Nat) : RowAt :=
  match getVer s v with
  | none => .invalid
  | some y =>
    let t := tdesc s y.desc
    let g := row / 4096
    let e := { dentry s t g with loc := l.loc }
    match l.bytes with
    | some bs => .here v g t e row bs l.tail
    | none =>
      if NMap.has it.answers l.addr then (if (dentry s t g).loc = l.loc then .broken v g [] else rowAt s x it v row)
      else .here v g t e row (memTake zeroByte it.landed l.addr e.stride) l.tail

/-- What an item keeps of an entry that it has resolved: a row that it has read, or one that it asks the Causeway for. -/
def keptLookup (s : State) (v row : Nat) : RowAt → Option Lookup
  | .here _ _ _ e _ bs tail => some { loc := e.loc, addr := rowAddr s e (row % 4096), tail := tail, bytes := some bs, stale := false }
  | .ask a _ => (groupOf s v (row / 4096)).map (fun p => { loc := p.2.loc, addr := a, tail := true, bytes := none, stale := false })
  | _ => none

/-- Read rows from the Causeway for an item. -/
def askRows (s : State) (id : Nat) (miss : List (Nat × Nat)) : State :=
  miss.foldl (fun s g =>
    match getItem s id with
    | none => s
    | some it =>
      if it.asked.contains g then s
      else
        let s1 := modItem s id (fun it => { it with asked := it.asked ++ [g], waitSince := some (now s),
                                                     waiting := it.waiting + (pieces g.1 g.2).length })
        issueReads s1 (.row id) it.ctx g.1 g.2) s

/-- Rebuild a group whose row could not be read, and forget the failed read (18 R395). -/
def breakRow (s : State) (id v g : Nat) : State :=
  let s1 := modItem s id (fun it => { it with
    asked := it.asked.filter (fun q => !(NMap.has it.answers q.1)), answers := []
    lookups := it.lookups.filter (fun l => l.2.bytes.isSome || !(NMap.has it.answers l.2.addr)) })
  startRebuild s1 v g none

/-- Either what must happen before the rows are all here, or nothing. -/
def rowsFirst (s : State) (id : Nat) (rs : List RowAt) : Option State :=
  let broken := rs.filterMap (fun r => match r with | .broken v g _ => some (v, g) | _ => none)
  let blocks := rs.flatMap (fun r => match r with | .broken _ _ bs => bs | _ => [])
  let asks := rs.filterMap (fun r => match r with | .ask a n => some (a, n) | _ => none)
  if !broken.isEmpty then 
    some (broken.eraseDups.foldl (fun s p => breakRow s id p.1 p.2) (blocks.eraseDups.foldl (fun s b => blockRead s b 4) s))
  else if !asks.isEmpty then some (askRows s id asks)
  else if rs.any (fun r => match r with | .wait => true | _ => false) then some s
  else none

/-- The rows of a LOST group that a descriptor met are named once (18 R399). -/
def nameLost (s : State) (it : Item) (id v g : Nat) : State :=
  match groupOf s v g with
  | none => s
  | some (t, _) =>
    let rows := min 4096 (t.rowCount - g * 4096)
    modDesc (modItem s id (fun it => { it with lost := true })) it.ctx it.ring it.idx (fun d =>
      if d.lostGroups.any (fun q => q.1 == v && q.2.1 == g) then d else { d with lostGroups := d.lostGroups ++ [(v, g, rows)] })

/-! ### GATHER and GATHER_POOL -/

/-- The rows of a part as FP32, and the malformed blocks among them. -/
def rowValues : RowAt → Option (List W32 × Nat)
  | .here _ _ t e _ bs _ => some (decodeRow e.fmt t.rowLen e.stride bs)
  | _ => none

/-- Units that a fetched row touches (R189). -/
def rowUnits : RowAt → Nat
  | .here _ _ _ e row _ _ =>
    let o := e.loc % 2 ^ 62 + row % 4096 * e.stride
    (o + e.stride - 1) / 256 - o / 256 + 1
  | _ => 0

/-- Passes of the fused pair in which a distinct row is read (R260). -/
def rowPasses (i : OpIn) (part : LookPart) (k : Nat) : Nat :=
  if refKind (opRef i.op 3) != 4 then 1
  else
    let per := 16384 / max 1 (leAt i.op 26 2)
    max 1 (((((List.range part.positions.length).zip part.positions).filter (fun q =>
      q.2.1 == k && !(partSkip i q.1))).map (fun q => q.2.2 / max 1 per)).eraseDups.length)

/-- The FP32 rows of the positions that are present, with their weights and bags, in ascending position. -/
def presentRows (i : OpIn) (part : LookPart) (vals : List (Option (List W32 × Nat))) : List (Nat × W32 × List W32) :=
  ((List.range part.positions.length).zip part.positions).filterMap (fun q =>
    if partSkip i q.1 then none
    else match vals.getD q.2.1 none with
      | some (row, _) => some (q.2.2, BitVec.ofNat 32 (part.weights.getD q.1 0), row)
      | none => none)

/-- The bags of a part (R188). -/
def poolBags (pool bags len : Nat) (ps : List (Nat × W32 × List W32)) : List (List W32) :=
  let acc := ps.foldl (fun (m : NMap (Nat × List W32)) p =>
    let row := if pool = 2 then p.2.2.map (fun v => fmul v p.2.1) else p.2.2
    match NMap.find? m p.1 with
    | none => NMap.set m p.1 (1, row)
    | some (n, a) => NMap.set m p.1 (n + 1, zipW fadd a row)) []
  (List.range bags).map (fun b => match NMap.find? acc b with
    | none => List.replicate len 0#32
    | some (n, a) => if pool = 1 then a.map (fun v => fdiv v (fpNat n)) else a)

/-- Values written in the output format, with how many saturated and how many NaN were written as zero. -/
def narrowAll (fmt : Nat) (xs : List W32) : List Byte × Nat × Nat :=
  let cs := xs.map (narrowF32 fmt)
  (packCodes fmt (cs.map (·.code)), cs.countP (·.sat), cs.countP (·.nan))

/-- Positions that R190 counts, by what their entry came to. -/
def droppedCount (i : OpIn) (part : LookPart) (rs : List RowAt) (lost : Bool) : Nat :=
  (((List.range part.positions.length).zip part.positions).filter (fun q => !(partSkip i q.1) &&
    (match rs[q.2.1]? with
    | none => !lost
    | some .invalid => !lost
    | some (.lost _ _) => lost
    | some _ => false))).length

/-- The result of a gather whose rows are all here. -/
def gatherRes (i : OpIn) (pooled : Bool) (part : LookPart) (rs : List RowAt) : OpRes :=
  let o := i.op
  let len := leAt o 26 2
  let bags := leAt o 28 4
  let pool := leAt o 24 1
  let vals := rs.map rowValues
  let np := part.positions.length
  let c := ceilDiv len 128
  let compute := if !pooled then np * c else if pool = 2 then 2 * np * c else np * c + (if pool = 1 then bags * c else 0)
  let arrays := if i.src0.kind = 1 || i.src0.kind = 3 then
    unitsOf (16 * part.distinct.length) + unitsOf (8 * np) + unitsOf (4 * part.weights.length) else 0
  let rows := (((List.range rs.length).zip rs).map (fun q => rowUnits q.2 * rowPasses i part q.1)).sum
  let values := if pooled then (poolBags pool bags len (presentRows i part vals)).flatten
    else ((List.range np).zip part.positions).flatMap (fun q =>
      if partSkip i q.1 then (if i.mode = 0 then [] else List.replicate len 0#32)
      else match vals.getD q.2.1 none with
        | some (row, _) => row
        | none => List.replicate len 0#32)
  let toAcc := refKind (opRef o 3) = 4
  let out := if toAcc then ([], 0, 0) else narrowAll (opFmt o) values
  let bad := (vals.map (fun v => (v.map (·.2)).getD 0)).sum
  { bumps := [(ctBadBlock, bad)]
    events := if bad = 0 then [] else [(evNum, 2)]
    out := out.1
    accum := if toAcc then some (values.map (·.toNat)) else none
    cost := compute + arrays + rows + i.outUnits out.1.length
    runs := if pooled then [] else i.runsOn
    counters := [(4, droppedCount i part rs false), (8, droppedCount i part rs true),
      (12, (vals.filter (·.isSome)).length),
      (16, rs.countP (fun r => match r with | .here _ _ _ _ _ _ b => b | _ => false)),
      (20, out.2.1), (24, out.2.2), (56, bad)] }

/-- The output of a gather that reads a whole-item marker: every position skipped (05 R91). -/
def goneGather (i : OpIn) (pooled : Bool) : OpRes :=
  let part : LookPart := {
    distinct := [], positions := if pooled then [] else List.replicate i.count (0xFFFFFFFF, 0), weights := [] }
  gatherRes i pooled part []

/-- The hits of R193 for each distinct fetch of a committed charge. -/
def hitAll (s : State) (rs : List RowAt) : State :=
  rs.foldl (fun s r => match r with | .here v g _ _ _ _ _ => hitGroup s v g | _ => s) s

/-- The charge fits the item's budget (04 R64). -/
def affords (it : Item) (r : OpRes) : Bool := decide (it.charge + r.cost ≤ it.budget)

/-! ### The row stage (R191) -/

def stageRoom (x : Ctx) : Nat := 65536 * x.stagePages

/-- The offset of the next `n` bytes: after the newest entry, or at the start where the end has no room. -/
def stageNext (room n : Nat) (es : List StageEntry) : Nat :=
  let next := match es.getLast? with | some e => e.off + e.bytes.length | none => 0
  if next + n ≤ room then next else 0

/-- Room for `n` bytes: entries are freed oldest first; answers those that stay, oldest first, and the offset, or `none` when it
would cost an entry of the last `keep`. -/
def stagePlace (room n keep : Nat) : List StageEntry → Option (List StageEntry × Nat)
  | [] => if n ≤ room then some ([], 0) else none
  | e :: es =>
    let off := stageNext room n (e :: es)
    if n ≤ room && !((e :: es).any (fun e => decide (e.off < off + n) && decide (off < e.off + e.bytes.length))) then
      some (e :: es, off)
    else if es.length < keep then none
    else stagePlace room n keep es

/-- Stage the tail rows of a part, in order; answers how many were refused. -/
def stageRows (room : Nat) : List (TDesc × Nat × List Byte) → Nat → List StageEntry → List StageEntry × Nat
  | [], _, es => (es, 0)
  | (t, row, bs) :: rest, keep, es =>
    match stagePlace room bs.length keep es with
    | none => let r := stageRows room rest keep es; (r.1, r.2 + 1)
    | some (kept, off) =>
      stageRows room rest (keep + 1) (kept ++ [{ table := t.tableId, version := t.version, row := row, off := off, bytes := bs }])

/-- GATHER with prefetch: tail rows go to the stage, except one that an apply has changed since it was read, and nothing is
written (R191, R192, R189). -/
def prefetchDone (s : State) (id : Nat) (x : Ctx) (it : Item) (i : OpIn) (part : LookPart) (rs : List RowAt) : State :=
  let tail := ((List.range rs.length).zip rs).filterMap (fun q => match q.2 with
    | .here _ _ t _ row bs true => if (NMap.find? it.lookups q.1).elim false (·.stale) then none else some (t, row, bs)
    | _ => none)
  let arrays := if i.src0.kind = 1 || i.src0.kind = 3 then unitsOf (16 * part.distinct.length) + unitsOf (8 * part.positions.length) +
    unitsOf (4 * part.weights.length) else 0
  let units := (rs.map (fun r => match r with | .here _ _ _ _ _ _ true => rowUnits r | _ => 0)).sum
  let r : OpRes := { cost := ceilDiv part.distinct.length 16 + arrays + units }
  if !(affords it r) then applyRes s id x it i.op r
  else
    let (es, refused) := stageRows (stageRoom x) tail 0 x.stage
    let s1 := modCtx s it.ctx (fun y => { y with stage := es })
    let s2 := (List.range refused).foldl (fun s _ => event (bump s ctStageFull 1) evEmb 5) s1
    applyRes s2 id x it i.op r

/-- The row that a distinct entry names, of which the item may hold what it has resolved; a negative row has its top bit set, and
a prefetch reads rows of TAIL groups only (R182, R186, R191). -/
def entryRow (s : State) (x : Ctx) (it : Item) (pins : List Nat) (set : Nat) (prefetch : Bool) (k : Nat) (d : Nat × Nat) : RowAt :=
  match pinnedVer s pins set d.1 with
  | none => .invalid
  | some (v, _) =>
    if 2 ^ 63 ≤ d.2 then .invalid
    else match NMap.find? it.lookups k with
      | some l => rowAgain s x it l v d.2
      | none =>
        if prefetch && !((groupOf s v (d.2 / 4096)).elim false (fun p => p.2.state == gTail)) then .invalid
        else rowAt s x it v d.2

/-- The item keeps what it has resolved (R186). -/
def keepLookups (s : State) (id : Nat) (it : Item) (pins : List Nat) (set : Nat) (ds : List (Nat × Nat)) (rs : List RowAt) : State :=
  let new := ((List.range ds.length).zip (ds.zip rs)).filterMap (fun q =>
    if NMap.has it.lookups q.1 then none
    else (pinnedVer s pins set q.2.1.1).bind (fun v => (keptLookup s v.1 q.2.1.2 q.2.2).map (fun l => (q.1, l))))
  modItem s id (fun it => { it with lookups := new.foldl (fun m q => NMap.set m q.1 q.2) it.lookups })

/-- A lookup set that a gather cannot use: too many positions, slots or bags out of range, no weights, a table that the
descriptor has not pinned or whose rows have another length (R183 to R185). -/
def gatherWrong (s : State) (i : OpIn) (pooled : Bool) (pins : List Nat) (set : Nat) (part : LookPart) (hw : Bool) : Bool :=
  let o := i.op
  decide (i.count < part.positions.length) || !(slotsOk part) ||
  (pooled && part.positions.any (fun q => decide (leAt o 28 4 ≤ q.2))) || (pooled && leAt o 24 1 == 2 && !hw) ||
  part.distinct.any (fun d => match pinnedVer s pins set d.1 with
    | none => true
    | some (_, v) => (tdesc s v.desc).rowLen != leAt o 26 2)

/-- The versions that an item's descriptor has pinned (R199). -/
def itemPins (s : State) (it : Item) : List Nat := ((getDesc s it.ctx it.ring it.idx).map (·.pins)).getD []

/-- The step of a gather (R183 to R192). -/
def gatherStep (pooled : Bool) (s : State) (id : Nat) (x : Ctx) (it : Item) (i : OpIn) : State :=
  let o := i.op
  let len := leAt o 26 2
  let bags := leAt o 28 4
  let prefetch := !pooled && leAt o 25 1 == 1
  if len = 0 || (pooled && bags = 0) then applyRes s id x it o noOp
  else if i.src0.gone then
    (if prefetch then applyRes s id x it o { cost := 0 } else applyRes s id x it o (goneGather i pooled))
  else match parseLookup i.src0.bytes i.index, handleBase s x (refIndex (opRef o 1)) with
    | some (part, hw), some set =>
      let pins := itemPins s it
      if gatherWrong s i pooled pins set part hw then applyRes s id x it o embBad
      else
        let rs := ((List.range part.distinct.length).zip part.distinct).map (fun q => entryRow s x it pins set prefetch q.1 q.2)
        match rowsFirst (keepLookups s id it pins set part.distinct rs) id rs with
        | some s1 => s1
        | none =>
          if prefetch then prefetchDone s id x it i part rs
          else
            let r := gatherRes i pooled part rs
            if !(affords it r) then applyRes s id x it o r
            else
              let s1 := rs.foldl (fun s r => match r with | .lost v g => nameLost s it id v g | _ => s) s
              applyRes (hitAll s1 rs) id x it o r
    | _, _ => applyRes s id x it o embBad

def execGather (item : Nat) (s : State) : Host.Outcome State Fault Refusal :=
  match takeOp s item 0x20 with
  | .idle => ok s
  | .moved t => finish t
  | .go t x it i => finish (gatherStep false t item x it i)

def execGatherPool (item : Nat) (s : State) : Host.Outcome State Fault Refusal :=
  match takeOp s item 0x21 with
  | .idle => ok s
  | .moved t => finish t
  | .go t x it i => finish (gatherStep true t item x it i)

end Sys2Proof.Machine
end

