-- ==== Sys2Proof/Machine/Merge.lean ====
section
/-!
DEFINITION. Merge queues and the update journal: arriving records, finalisation, journal frames, and the MERGE_QUEUE
commands (10 R202 to R206, R211 to R213; 15 R330).
-/

namespace Sys2Proof.Machine

open Sys2Proof

/-! ### Records (R203, R204) -/

def mergeFmts : List Nat := [fFp32, fBf16, fFp16]

def getQueue (s : State) (c q : Nat) : Option MergeQueue := (NMap.find? s.ctxs c).bind (fun x => NMap.find? x.queues q)

def modQueue (s : State) (c q : Nat) (f : MergeQueue → MergeQueue) : State :=
  modCtx s c (fun x => { x with queues := NMap.modify x.queues q f })

def mergeDropped (s : State) : State := event (bump s ctMergeDrop 1) evMerge 0

/-- A duplicate is dropped too, and counted apart (R204, R222). -/
def mergeDuplicate (s : State) : State := event (bump s ctMergeDup 1) evMerge 0

/-- The (source, seq) of a record was stored or recorded before. -/
def seenRec (y : StepStore) (src seq : Nat) : Bool :=
  y.recs.any (fun r => r.src == src && r.seq == seq) || y.dropped.contains (src, seq)

/-- The checks of R204 on a record, in their order, and its storing. -/
def mergeArrive (s : State) (c q : Nat) (r : MergeRec) : State :=
  match getQueue s c q with
  | none => mergeDropped s
  | some m =>
    if !(m.sources.contains r.src) then mergeDropped s
    else if r.step != m.next && r.step != m.next + 1 then mergeDropped s
    else
      let y := stepOf m r.step
      let put := fun (y : StepStore) => modQueue s c q (fun m => { m with steps := NMap.set m.steps r.step y })
      if r.close then
        (if NMap.has y.closes r.src then mergeDuplicate s
        else put { y with closes := NMap.set y.closes r.src (r.key % 2 ^ 32) })
      else if m.keyLimit ≤ r.key then
        (if seenRec y r.src r.seq then mergeDuplicate s
        else mergeDropped (put { y with dropped := y.dropped ++ [(r.src, r.seq)] }))
      else if !(mergeFmts.contains r.fmt) || r.payload.length != m.elems * elemBytes r.fmt || (!r.keyed && m.rows) then
        mergeDropped s
      else if seenRec y r.src r.seq then mergeDuplicate s
      else if m.cap ≤ y.recs.length then event (mergeDropped s) evMerge 1
      else put { y with recs := y.recs ++ [{ src := r.src, key := r.key, seq := r.seq, fmt := r.fmt, payload := r.payload }] }

/-- MERGE_RECORD: a record arrives at a queue (R204). -/
def execMergeRecord (ctx queue : Nat) (rec : MergeRec) (s : State) : Host.Outcome State Fault Refusal :=
  if s.power.off then ok s else finish (mergeArrive s ctx queue rec)

/-! ### Merged values (R205, R206) -/

/-- Ascending source, then ascending seq. -/
def recBefore (a b : StoredRec) : Bool := if a.src = b.src then decide (a.seq < b.seq) else decide (a.src < b.src)

def recValues (elems : Nat) (r : StoredRec) : List W32 := (unpackCodes r.fmt elems r.payload).map (widenCode r.fmt)

/-- The merged value of a key's records, in FP32. -/
def mergeKey (elems : Nat) (rs : List StoredRec) : List W32 :=
  match sortBy recBefore rs with
  | [] => List.replicate elems 0#32
  | r :: rest => rest.foldl (fun acc x => zipW fadd acc (recValues elems x)) (recValues elems r)

/-- A merged value rounded once to u_fmt: its codes and how many saturated. -/
def mergedCodes (m : MergeQueue) (rs : List StoredRec) : List Nat × Nat :=
  let cs := (mergeKey m.elems rs).map (narrowF32 m.ufmt)
  (cs.map (·.code), cs.countP (·.sat))

def keyRecs (y : StepStore) (k : Nat) : List StoredRec := y.recs.filter (fun r => r.key == k)

/-- Every listed source has closed the step, and its records number its count (R205). -/
def stepWhole (m : MergeQueue) (y : StepStore) : Bool :=
  m.sources.all (fun d => match NMap.find? y.closes d with
    | none => false
    | some n => (y.recs.filter (fun r => r.src == d)).length + (y.dropped.filter (fun p => p.1 == d)).length == n)

/-- The optimiser parameters in force for a step (15 R330). -/
def paramsAt (m : MergeQueue) (step : Nat) : OptParams :=
  ((m.params.filter (fun p => decide (p.from_ ≤ step))).getLast?).getD { from_ := 0, opt := 0, wb := 0, lr := 0, eps := 0, beta := 0 }

/-- The update_version that a step produces (R215). -/
def producedVersion (m : MergeQueue) (step : Nat) : Nat := (m.u0 + (step - m.first + 1)) % 2 ^ 64

/-! ### The journal (R211, R212) -/

def journalChunk : Nat := 2 ^ 20

/-- A block header (R211). -/
def blockHeader (kind : Nat) (m : MergeQueue) (p : OptParams) (table upd step count elems stateTable : Nat) : List Byte :=
  natLE 0x424A4C49 4 ++ natLE kind 1 ++ natLE p.opt 1 ++ natLE m.ufmt 1 ++ natLE p.wb 1 ++ natLE table 8 ++ natLE upd 8 ++
  natLE step 4 ++ natLE count 4 ++ natLE elems 2 ++ natLE 0 2 ++ natLE p.lr 4 ++ natLE p.eps 4 ++ natLE p.beta 4 ++
  natLE stateTable 8 ++ zeros 8

/-- The width of a STEP block's record (R211). -/
def recordWidth (m : MergeQueue) : Nat := 8 + roundUp (m.elems * elemBytes m.ufmt) 8

def stepBlockBody (m : MergeQueue) (vs : List (Nat × List Nat)) : List Byte :=
  vs.flatMap (fun v => natLE v.1 8 ++ padTo 8 (packCodes m.ufmt v.2))

/-- Keys of a block whose records meet bytes [off, off + len) of it. -/
def chunkKeys (keys : List Nat) (w off len : Nat) : List Nat :=
  ((List.range keys.length).zip keys).filterMap (fun q =>
    let a := 64 + q.1 * w
    if a < off + len ∧ off < a + w then some q.2 else none)

/-- A block's bytes become frames that wait for a place in the journal area (R212). -/
def addBlock (s : State) (c kind queue step table : Nat) (keys : List Nat) (w : Nat) (bs : List Byte) : State :=
  let level := rwGet s rwJournalLevel
  let codec := if Config.journalZstd then 2 else 1
  let bytesOut := ((chunksOf journalChunk bs).map (fun q => (frameOf codec level table 0 q).length)).sum
  modCtx (bump (bump s ctBytesIn bs.length) ctBytesOut bytesOut) c (fun x =>
    let j := x.journal
    let fs := ((List.range (ceilDiv bs.length journalChunk)).zip (chunksOf journalChunk bs)).map (fun q =>
      let f := frameOf codec level table (step * 2 ^ 32 + q.1) q.2
      ({ off := 0, len := f.length, queue := queue, step := step, kind := kind, table := table, block := j.nextBlock,
         blockOff := q.1 * journalChunk, blockLen := q.2.length,
         groups := ((chunkKeys keys w (q.1 * journalChunk) q.2.length).map (· / 4096)).eraseDups,
         acked := false, sent := false, flushing := false, waiting := 0, bytes := f } : JFrame))
    { x with journal := { j with
        nextBlock := j.nextBlock + 1
        next := j.next + fs.length
        frames := ((List.range fs.length).zip fs).foldl (fun m q => NMap.set m (j.next + q.1) q.2) j.frames } })

/-- On NVMe the frames keep to whole 4,096-byte units of the area (log entry 22). -/
def frameRoom (base : Nat) (f : JFrame) : Nat := if base / 2 ^ 62 = 2 then roundUp f.len 4096 else f.len

def placeFrames (base at_ : Nat) : List (Nat × JFrame) → List (Nat × JFrame)
  | [] => []
  | (k, f) :: fs => (k, { f with off := at_ }) :: placeFrames base (at_ + frameRoom base f) fs

/-- A place for `n` bytes of the area, from its head or its start, that no frame holds. -/
def journalPlace (j : Journal) (n : Nat) : Option Nat :=
  let free := fun (a : Nat) => decide (a + n ≤ j.len) && j.frames.all (fun f => !f.2.sent ||
    !(intersects (a, a + n) (f.2.off, f.2.off + frameRoom j.base f.2)))
  if free j.head then some j.head else if free 0 then some 0 else none

/-- The frames of a block of the journal. -/
def journalBlock (j : Journal) (b : Nat) : List (Nat × JFrame) := j.frames.filter (fun p => p.2.block == b)

/-- The room that a block takes in the area. -/
def blockRoom (j : Journal) (b : Nat) : Nat := ((journalBlock j b).map (fun p => frameRoom j.base p.2)).sum

/-- The oldest waiting block that the free space holds, and its place (R213). -/
def nextBlock (j : Journal) : Option (Nat × Nat) :=
  (((j.frames.filter (fun p => !p.2.sent)).map (fun p => p.2.block)).eraseDups).findSome? (fun b =>
    (journalPlace j (blockRoom j b)).map (fun a => (b, a)))

/-- Write the oldest waiting block that fits; answers whether one was written. -/
def sendBlock (s : State) (c : Nat) : State × Bool :=
  match NMap.find? s.ctxs c with
  | none => (s, false)
  | some x =>
    match nextBlock x.journal with
    | none => (s, false)
    | some (b, a) =>
      let placed := placeFrames x.journal.base a (journalBlock x.journal b)
      let base := locAddr s x.journal.base
      let s1 := modCtx s c (fun x => { x with journal := { x.journal with
        head := a + blockRoom x.journal b
        frames := placed.foldl (fun m q => NMap.set m q.1 { q.2 with
          sent := true, waiting := (pieces (base + q.2.off) q.2.len).length, bytes := [] }) x.journal.frames } })
      (placed.foldl (fun s q => issueWrites s (.journal c q.1) c (base + q.2.off) q.2.bytes) s1, true)

def sendBlocksFuel : Nat → State → Nat → State
  | 0, s, _ => s
  | f + 1, s, c => match sendBlock s c with
    | (s1, true) => sendBlocksFuel f s1 c
    | (s1, false) => s1

def unsentFrames (s : State) (c : Nat) : Nat :=
  ((NMap.find? s.ctxs c).map (fun x => (x.journal.frames.filter (fun p => !p.2.sent)).length)).getD 0

/-- Write the blocks that wait, oldest first; a block that finds no room waits, and holds no other back (R213). -/
def sendBlocks (s : State) (c : Nat) : State := sendBlocksFuel (unsentFrames s c) s c

/-- A frame of a block waits for space. -/
def blockWaits (s : State) (c block : Nat) : Bool :=
  (NMap.find? s.ctxs c).elim false (fun x => x.journal.frames.any (fun p => p.2.block == block && !p.2.sent))

/-- Add a block and write it, or let it wait for space (R212, R213). -/
def writeBlock (s : State) (c kind queue step table : Nat) (keys : List Nat) (w : Nat) (bs : List Byte) : State :=
  let block := ((NMap.find? s.ctxs c).map (fun x => x.journal.nextBlock)).getD 0
  let s1 := sendBlocks (addBlock s c kind queue step table keys w bs) c
  if blockWaits s1 c block then event s1 evMerge 2 else s1

/-- The journal area lies in a namespace that reports a volatile write cache. -/
def flushesFrames (base : Nat) : Bool := base / 2 ^ 62 == 2 && Config.volatileCache (bitsAt (base % 2 ^ 62) 57 5)

/-- JOURNAL_FRAME_ACK: every write of a frame has completed; in a namespace with a volatile write cache a Flush follows, an
access that carries no bytes, and the frame is acknowledged once that has completed (R212). -/
def execJournalFrameAck (ctx frame : Nat) (s : State) : Host.Outcome State Fault Refusal :=
  match NMap.find? s.ctxs ctx with
  | none => ok s
  | some x =>
    match NMap.find? x.journal.frames frame with
    | none => ok s
    | some f =>
      if !f.sent || f.acked || f.waiting != 0 then ok s
      else if flushesFrames x.journal.base && !f.flushing then
        finish (issue (modFrame s ctx frame (fun f => { f with flushing := true, waiting := 1 }))
          (accWrite s (.journal ctx frame) ctx (locAddr s x.journal.base) []))
      else ok (bump (modFrame s ctx frame (fun f => { f with acked := true })) ctJournal f.len)

/-- An acknowledged COMMIT block of the frame's table stands behind the frame, and closed a step no older (R213). -/
def committedPast (x : Ctx) (f : JFrame) : Bool :=
  x.journal.frames.any (fun g => g.2.kind == 2 && g.2.acked && g.2.table == f.table && decide (f.block < g.2.block) &&
    decide (f.step ≤ g.2.step))

/-- Frames of a table before an acknowledged COMMIT block of it (R213). -/
def reclaimable (x : Ctx) : List Nat :=
  (x.journal.frames.filter (fun f => f.2.acked && committedPast x f.2)).map (·.1)

/-- JOURNAL_SPACE_FREED: space before an acknowledged COMMIT block is reclaimed, and a waiting write goes on (R213). -/
def execJournalSpaceFreed (ctx : Nat) (s : State) : Host.Outcome State Fault Refusal :=
  match NMap.find? s.ctxs ctx with
  | none => ok s
  | some x =>
    let ks := reclaimable x
    if ks.isEmpty then ok s
    else finish (sendBlocks (modCtx s ctx (fun x => { x with journal := { x.journal with
      frames := x.journal.frames.filter (fun f => !(ks.contains f.1)) } })) ctx)

/-! ### Finalisation -/

/-- The weight table's version and the state table's, of a ROWS queue. -/
def queueTables (s : State) (c : Nat) (m : MergeQueue) : Option Nat × Option Nat :=
  match (NMap.find? s.ctxs c).bind (fun x => handleBase s x m.tableSet) with
  | none => (none, none)
  | some b => ((currentVer s b m.table).map (·.1), m.stateTable.bind (fun k => (currentVer s b k).map (·.1)))

/-- A table takes the version that a step produced. -/
def putVersion (s : State) (v : Option Nat) (version : Nat) : State :=
  match v.bind (getVer s) with
  | some x => deckWrite s (x.desc + 56) (natLE version 8)
  | none => s

/-- Every key of the first unapplied step is marked: applied_step advances and the tables take the version that the step
produced; so it goes on over the steps after it that hold no key (R215). -/
def advanceFuel : Nat → State → Nat → Nat → State
  | 0, s, _, _ => s
  | fuel + 1, s, c, q =>
  match getQueue s c q with
  | none => s
  | some m =>
    match NMap.find? m.finals m.toApply with
    | none => s
    | some f =>
      if !m.rows || !(f.values.all (fun v => f.marked.contains v.1)) then s
      else
        let (w, st) := queueTables s c m
        advanceFuel fuel (modQueue (putVersion (putVersion s w f.version) st f.version) c q (fun m => { m with
          toApply := m.toApply + 1, finals := NMap.erase m.finals m.toApply })) c q

def advanceApplied (s : State) (c q : Nat) : State :=
  advanceFuel ((getQueue s c q).elim 0 (fun m => m.finals.length)) s c q

/-- The keys of a step, ascending. -/
def stepKeys (y : StepStore) : List Nat := sortBy (fun a b => decide (a < b)) (y.recs.map (·.key)).eraseDups

/-- The finalised values of a DENSE queue go to its tensor (R202, R205). -/
def writeDense (s : State) (c : Nat) (m : MergeQueue) (vs : List (Nat × List Nat)) : State :=
  match (NMap.find? s.ctxs c).bind (fun x => handleBase s x m.dense) with
  | none => s
  | some b => deckWrite s b (vs.flatMap (fun v => packCodes m.ufmt v.2))

/-- STEP_FINALISE: the queue's next step merges, rounds and, for a ROWS queue, journals its keys (R205, R206, R211). -/
def execStepFinalise (ctx queue : Nat) (s : State) : Host.Outcome State Fault Refusal :=
  match getQueue s ctx queue with
  | none => ok s
  | some m =>
    let step := m.next
    let y := stepOf m step
    if s.power.off || !(stepWhole m y) then ok s
    else
      let keys := if m.rows then stepKeys y else List.range m.keyLimit
      let merged := keys.map (fun k => (k, mergedCodes m (keyRecs y k)))
      let vs := merged.map (fun v => (v.1, v.2.1))
      let sats := merged.filterMap (fun v => if v.2.2 = 0 then none else some (v.1, v.2.2))
      let p := paramsAt m step
      let f : FinalStep := {
        values := if m.rows then vs else [], skipped := [], marked := [], params := p, version := producedVersion m step
        sats := sats, gaps := if m.rows then [] else keys.filter (fun k => (keyRecs y k).isEmpty)
        block := ((NMap.find? s.ctxs ctx).map (fun x => x.journal.nextBlock)).getD 0 }
      let s1 := modQueue s ctx queue (fun m => { m with
        next := step + 1, steps := NMap.erase m.steps step
        finals := if m.rows then NMap.set m.finals step f else [(step, f)] })
      if m.rows then
        let (w, st) := queueTables s ctx m
        let idOf := fun (v : Option Nat) => ((v.bind (getVer s)).map (·.tableId)).getD 0
        let head := blockHeader 1 m p (idOf w) f.version step vs.length m.elems (idOf st)
        finish (advanceApplied (writeBlock s1 ctx 1 queue step (idOf w) keys (recordWidth m) (head ++ stepBlockBody m vs)) ctx queue)
      else finish (writeDense s1 ctx m vs)

/-! ### MERGE_QUEUE commands (15 R330) -/

def f32Finite (n : Nat) : Bool := f32IsFinite (BitVec.ofNat 32 n)

/-- Bytes of the argument block: 64, and for CREATE the source list after it. -/
def queueNeed (create : Bool) (_ got : List Byte) : Nat :=
  if !create || got.length < 64 then 64 else 64 + roundUp (2 * min 4096 (leAt got 4 2)) 64

/-- Optimiser parameters that break R216, with the first field that does. -/
def optBad (b : List Byte) : List (Nat × Bool) :=
  [(2, decide (3 < leAt b 2 1)), (3, leAt b 3 1 != 0 && leAt b 3 1 != 2), (24, !(f32Finite (leAt b 24 4))),
   (28, !(f32Finite (leAt b 28 4)) || (bitAt (leAt b 28 4) 31 && leAt b 28 4 % 2 ^ 31 != 0)), (32, !(f32Finite (leAt b 32 4)))]

/-- What a CREATE block's own bytes break, whatever the context holds. -/
def createBad (b : List Byte) : Option Nat :=
  let n := leAt b 4 2
  let rows := leAt b 0 1 = 1
  firstBad ([(0, decide (1 < leAt b 0 1)), (1, !(mergeFmts.contains (leAt b 1 1)))] ++ (optBad b).take 2 ++
    [(4, n = 0 || decide (4096 < n)), (6, leAt b 6 2 = 0 || decide (4096 < leAt b 6 2)),
     (8, leAt b 8 8 = 0 || (!rows && decide (2 ^ 24 < leAt b 8 8))), (16, leAt b 16 4 = 0 || decide (2 ^ 26 < leAt b 16 4))] ++
    (optBad b).drop 2 ++
    [(36, !rows && leAt b 36 3 != 0), (41, leAt b 41 3 != 0), (44, rows && leAt b 44 4 != 0), (48, !(allZero (slice b 48 16)))] ++
    (List.range n).map (fun k => (64 + 2 * k, decide (4096 ≤ leAt b (64 + 2 * k) 2))) ++
    [(64 + 2 * n, !(allZero (b.drop (64 + 2 * n))))])

/-- The state table suits an optimiser: none for sgd, else row_len, row_count, group_count and FP32 groups (15 R330). -/
def stateBad (s : State) (set opt st : Nat) (t : TDesc) : Bool :=
  if opt = 0 then st != 0xFF
  else if st = 0xFF then true
  else match currentVer s set st with
    | none => true
    | some (_, v) =>
      let u := tdesc s v.desc
      u.rowLen != (if opt = 3 then 1 else t.rowLen) || u.rowCount != t.rowCount || u.groups != t.groups ||
      !((List.range u.groups).all (fun g => (dentry s u g).fmt == fFp32))

/-- Another ROWS queue updates one of these tables of the set (15 R330). -/
def tableTaken (s : State) (set : Nat) (ks : List Nat) : Bool :=
  (rowsQueues s).any (fun q => q.2.2.1 == set && ks.any (fun k => q.2.2.2.table == k || q.2.2.2.stateTable == some k))

/-- What a CREATE breaks against the context's tensors and tables: a status and a block offset. -/
def createRefused (s : State) (x : Ctx) (b : List Byte) : Option (Nat × Nat) :=
  let elems := leAt b 6 2
  let limit := leAt b 8 8
  if leAt b 0 1 = 0 then
    match NMap.find? x.tensors (leAt b 44 4) with
    | none => some (0x10, 44)
    | some t =>
      if t.dying || !t.write || !t.view.isDense || t.fmt != leAt b 1 1 then some (0x10, 44)
      else if !(isDeck s t.base) || t.view.count < limit * elems then some (0x11, 44) else none
  else
    match tableSetAt s x (leAt b 36 3) with
    | none => some (0x10, 36)
    | some set =>
      match currentVer s set (leAt b 39 1) with
      | none => some (0x10, 39)
      | some (_, v) =>
        let t := tdesc s v.desc
        let st := leAt b 40 1
        if elems != t.rowLen then some (0x10, 6)
        else if limit != t.rowCount then some (0x10, 8)
        else if !t.updatable then some (0x10, 39)
        else if stateBad s set (leAt b 2 1) st t then some (0x10, 40)
        else if x.journal.len = 0 then some (0x10, 0)
        else if tableTaken s set (leAt b 39 1 :: (if st = 0xFF then [] else [st])) then some (0x10, 39)
        else none

def optOf (b : List Byte) (from_ : Nat) : OptParams :=
  { from_ := from_, opt := leAt b 2 1, wb := leAt b 3 1, lr := leAt b 24 4, eps := leAt b 28 4, beta := leAt b 32 4 }

/-- The queue that a CREATE block describes (R202). -/
def newQueue (s : State) (x : Ctx) (b : List Byte) : MergeQueue :=
  let rows := leAt b 0 1 = 1
  let first := leAt b 20 4
  let st := leAt b 40 1
  let u0 := match (tableSetAt s x (leAt b 36 3)).bind (fun set => currentVer s set (leAt b 39 1)) with
    | some (_, v) => (tdesc s v.desc).upd
    | none => 0
  { rows := rows, ufmt := leAt b 1 1, elems := leAt b 6 2, keyLimit := leAt b 8 8, cap := leAt b 16 4
    sources := (List.range (leAt b 4 2)).map (fun k => leAt b (64 + 2 * k) 2), tableSet := leAt b 36 3
    table := leAt b 39 1, stateTable := if rows && st != 0xFF then some st else none, dense := leAt b 44 4
    params := [optOf b 0], first := first, next := first, steps := [], finals := [], toApply := first, started := 0
    u0 := if rows then u0 else 0, dying := false }

/-- MERGE_QUEUE CREATE, and a MERGE_QUEUE whose op byte is reserved (R202, 15 R330). -/
def execMergeQueueCreate (ctx ring : Nat) (s : State) : Host.Outcome State Fault Refusal :=
  if headOp s ctx ring 0x11 34 = some 2 || headOp s ctx ring 0x11 34 = some 3 then ok s
  else finish (command s ctx ring 0x11 [(32, 34)] (queueNeed true) (fun x raw b =>
    let q := leAt raw 32 2
    if 1024 ≤ q then completeHead s ctx ring raw 0x10 32
    else if leAt raw 34 1 != 1 then completeHead s ctx ring raw 0x10 34
    else if NMap.has x.queues q then completeHead s ctx ring raw 0x10 32
    else match createBad b with
      | some k => completeHead s ctx ring raw 0x10 (0x80000000 + k)
      | none =>
        match createRefused s x b with
        | some (st, k) => completeHead s ctx ring raw st (0x80000000 + k)
        | none => completeHead (modCtx s ctx (fun y => { y with queues := NMap.set y.queues q (newQueue s x b) })) ctx ring raw 0 0))

/-- A live item or a running commit names a queue (15 R330). -/
def queueLive (s : State) (c q : Nat) : Bool :=
  s.sched.items.any (fun p => p.2.ctx == c && (List.range (chainOps (itemImage s p.2))).any (fun k =>
    let o := chainOp (itemImage s p.2) k
    (opCode o == 0x23 && leAt o 24 2 == q) || (opCode o == 0x22 && leAt o 30 2 == q))) ||
  s.tables.commits.any (fun p => p.2.ctx == c && p.2.queues.contains q)

/-- MERGE_QUEUE DESTROY: completes once no live item names the queue (15 R330). -/
def execMergeQueueDestroy (ctx ring : Nat) (s : State) : Host.Outcome State Fault Refusal :=
  match runningDesc s ctx ring 0x11 (fun d => !(queueLive s ctx (leAt d.raw 32 2))) with
  | some (i, d) =>
    finish (completeDesc (modCtx s ctx (fun x => { x with queues := NMap.erase x.queues (leAt d.raw 32 2) })) ctx ring i 0 0)
  | none =>
    if headOp s ctx ring 0x11 34 != some 2 then ok s
    else finish (command s ctx ring 0x11 [(32, 34)] noArg (fun x raw _ =>
      let q := leAt raw 32 2
      match (if q < 1024 then NMap.find? x.queues q else none) with
      | none => completeHead s ctx ring raw 0x10 32
      | some m =>
        if m.dying then completeHead s ctx ring raw 0x10 32
        else startCommand (modQueue s ctx q (fun m => { m with dying := true })) ctx ring raw))

/-- What a SET block breaks (15 R330). -/
def setBad (s : State) (x : Ctx) (m : MergeQueue) (b : List Byte) : Option Nat :=
  let st := m.stateTable.getD 0xFF
  let suits := match (handleBase s x m.tableSet).bind (fun set => (currentVer s set m.table).map (fun v => (set, v.2))) with
    | some (set, v) => !(stateBad s set (leAt b 2 1) st (tdesc s v.desc))
    | none => false
  let unread := fun (f : Nat × Nat) => (f.1, leAt b f.1 f.2 != 0)
  firstBad ([(0, 1), (1, 1)].map unread ++ [(2, !suits)] ++ (optBad b).take 2 ++
    [(4, 2), (6, 2), (8, 8), (16, 4), (20, 4)].map unread ++ (optBad b).drop 2 ++
    [(36, 3), (39, 1), (40, 1), (41, 3), (44, 4), (48, 16)].map unread)

/-- MERGE_QUEUE SET: new optimiser parameters from a named step (15 R330). -/
def execMergeQueueSet (ctx ring : Nat) (s : State) : Host.Outcome State Fault Refusal :=
  if headOp s ctx ring 0x11 34 != some 3 then ok s
  else finish (command s ctx ring 0x11 [(32, 34), (36, 39)] (queueNeed false) (fun x raw b =>
    let q := leAt raw 32 2
    let from_ := leAt raw 36 4
    match (if q < 1024 then NMap.find? x.queues q else none) with
    | none => completeHead s ctx ring raw 0x10 32
    | some m =>
      if !m.rows || m.dying then completeHead s ctx ring raw 0x10 32
      else if from_ < m.toApply then completeHead s ctx ring raw 0x10 36
      else match setBad s x m b with
        | some k => completeHead s ctx ring raw 0x10 (0x80000000 + k)
        | none => completeHead (modQueue s ctx q (fun m => { m with params := m.params ++ [optOf b from_] })) ctx ring raw 0 0))

end Sys2Proof.Machine
end

