-- ==== Sys2Proof/Machine/Apply.lean ====
section
/-!
DEFINITION. SCATTER_MERGE, ROW_APPLY and the copy of apply slots (10 R207 to R219).
-/

namespace Sys2Proof.Machine

open Sys2Proof

/-! ### SCATTER_MERGE -/

def scatterCheck (o : List Byte) : Option Nat :=
  let bags := leAt o 36 4
  let split := leAt o 25 1
  firstBad [(12, decide (1 < leAt o 34 2) && refKind (opRef o 2) = 0), (24, decide (2 < leAt o 24 1)), (25, decide (5 < split)),
    (26, decide (1 < leAt o 26 1)), (28, decide (4096 < leAt o 28 2)), (30, decide (1023 < leAt o 30 2)),
    (32, decide (1024 < leAt o 32 2 + leAt o 47 2)), (34, leAt o 34 2 = 0 || decide (4096 < leAt o 34 2)),
    (36, decide (2 ^ 20 < bags) || bags % 2 ^ split != 0), (47, leAt o 47 2 = 0 || decide (256 < leAt o 47 2))]

def scatterRule : OpRule :=
  { skip := [0], kinds := [[1, 3], [1], [0, 1], kNone], fmtIn := mergeFmts, fmtOut := mergeFmts
    lengths := [(28, 2), (36, 4)], named := [(24, 26), (28, 48)], check := scatterCheck }

/-- A row's owner and its key there (R208). -/
def shardOf (s : State) (map : List Byte) (shards row : Nat) : Nat × Nat :=
  let g := row / 4096
  (if shards = 1 then deviceId s else leAt map (2 * (g % shards)) 2 % 4096, g / shards * 4096 + row % 4096)

/-- The key under which a context counts the DATA records it sent (R210). -/
def sentKey (step queue owner : Nat) : Nat := (step * 1024 + queue) * 4096 + owner

/-- Merged gradients that an item reads: u_fmt codes of each bag of its range, and what the finalisation counts of them:
saturations and gaps (R206, R208). -/
def denseValues (s : State) (m : MergeQueue) (base step first n : Nat) : List (List Nat) × Nat × Nat :=
  let keys := (List.range n).map (· + first)
  if step < m.next then
    let w := m.elems * elemBytes m.ufmt
    let f := NMap.find? m.finals step
    (keys.map (fun k => unpackCodes m.ufmt m.elems (deckRead s (base + k * w) w)),
     (keys.map (fun k => f.elim 0 (fun f => NMap.getD f.sats k 0))).sum,
     keys.countP (fun k => f.elim false (fun f => f.gaps.contains k)))
  else
    let y := stepOf m step
    let vs := keys.map (fun k => mergedCodes m (keyRecs y k))
    (vs.map (·.1), (vs.map (·.2)).sum, 0)

/-- A DATA record formed by an item: owner, queue, key, seq and payload. -/
structure OutRec where
  owner : Nat
  queue : Nat
  key : Nat
  seq : Nat
  payload : List Byte
deriving DecidableEq, Repr

/-- Present positions of a part (R208): position, slot and bag. -/
def scatterPresent (i : OpIn) (part : LookPart) : List (Nat × Nat × Nat) :=
  ((List.range part.positions.length).zip part.positions).filterMap (fun q =>
    if partSkip i q.1 || q.2.1 == 0xFFFFFFFF || decide (2 ^ 63 ≤ (part.distinct.getD q.2.1 (0, 0)).2) then none
    else some (q.1, q.2.1, q.2.2))

/-- Positions of the range that the lookup set itself shows to be invalid (R208). -/
def scatterInvalid (i : OpIn) (part : LookPart) (lo n : Nat) : Nat :=
  (((List.range part.positions.length).zip part.positions).filter (fun q =>
    !(partSkip i q.1) && decide (lo ≤ q.2.2) && decide (q.2.2 < lo + n) &&
    (q.2.1 == 0xFFFFFFFF || decide (2 ^ 63 ≤ (part.distinct.getD q.2.1 (0, 0)).2)))).length

/-- The gradients summed per distinct slot, ascending slot, and how many positions took part (R208). -/
def slotSums (o : List Byte) (ufmt : Nat) (part : LookPart) (present : List (Nat × Nat × Nat)) (vals : List (List Nat))
    (lo n : Nat) : NMap (List W32) × Nat :=
  let pool := leAt o 24 1
  let mine := present.filter (fun p => decide (lo ≤ p.2.2) && decide (p.2.2 < lo + n))
  (mine.foldl (fun (acc : NMap (List W32)) p =>
    let g := (vals.getD (p.2.2 - lo) []).map (widenCode ufmt)
    let g1 := if pool = 1 then
        (let c := fpNat (present.countP (fun q => q.2.2 == p.2.2)); g.map (fun v => fdiv v c))
      else if pool = 2 then g.map (fun v => fmul v (BitVec.ofNat 32 (part.weights.getD p.1 0))) else g
    match NMap.find? acc p.2.1 with
    | none => NMap.set acc p.2.1 g1
    | some a => NMap.set acc p.2.1 (zipW fadd a g1)) [], mine.length)

/-- The wire form of a keyed record (16 R349). -/
def keyedRecord (r : OutRec) : List Byte := natLE r.key 8 ++ natLE r.seq 8 ++ padTo 8 r.payload

/-- Send the records of an item: to this device's own queues at once, to others as keyed MERGE requests under spread
(16 R359). -/
def sendRecords (s : State) (id : Nat) (it : Item) (o : List Byte) (rs : List OutRec) : State :=
  let fmt := opFmt o
  let step := leAt o 40 4
  let me := deviceId s
  let s1 := rs.foldl (fun s r => modCtx s it.ctx (fun x =>
    let k := sentKey step r.queue r.owner
    let old := NMap.getD x.sentData k []
    if old.contains r.seq then x else { x with sentData := NMap.set x.sentData k (old ++ [r.seq]) })) s
  let s2 := (rs.filter (fun r => r.owner == me)).foldl (fun s r => mergeArrive s it.ctx r.queue
    { src := me, step := step, fmt := fmt, close := false, keyed := true, key := r.key, seq := r.seq, payload := r.payload }) s1
  let away := rs.filter (fun r => r.owner != me)
  let groups := (away.map (fun r => (r.owner, r.queue))).eraseDups
  let w := 16 + roundUp (leAt o 28 2 * elemBytes fmt) 8
  let per := max 1 (65536 / w)
  groups.foldl (fun s g =>
    (chunksOf per (away.filter (fun r => r.owner == g.1 && r.queue == g.2))).foldl (fun s c =>
      let h : SpanHdr := {
        opcode := 4, op := fmt + 64, channel := 0, hops := 0, resend := false, src := 0, dst := g.1, context := it.ctx,
        queue := g.2, seq := 0, length := 0, step := step, address := (c.head?.map (·.key)).getD 0 }
      let s1 := modItem s id (fun it => { it with waiting := it.waiting + 1, waitSince := some (now s) })
      issue s1 { accWrite s (.itemMerge id) it.ctx (gAddr g.1 0) (c.flatMap keyedRecord) with tmpl := some (h, true) }) s) s2

/-- A lookup set, its weights, tables and keys that a SCATTER_MERGE cannot use (R207, R208). -/
def scatterWrong (i : OpIn) (m : MergeQueue) (part : LookPart) (hw : Bool) : Bool :=
  let o := i.op
  decide (i.count < part.positions.length) || !(slotsOk part) ||
  part.positions.any (fun q => decide (leAt o 36 4 ≤ q.2)) || (leAt o 24 1 == 2 && !hw) ||
  part.distinct.any (fun d => decide (leAt o 47 2 ≤ d.1)) ||
  decide (m.keyLimit < (scatterKeys o i.index).1 + (scatterKeys o i.index).2) ||
  (leAt o 34 2 != 1 && decide (i.src2.bytes.length < 2 * leAt o 34 2))

/-- The records that a SCATTER_MERGE forms from a part, and its result (R208, R209). -/
def scatterWork (s : State) (i : OpIn) (m : MergeQueue) (base : Nat) (part : LookPart) : List OutRec × OpRes :=
  let o := i.op
  let len := leAt o 28 2
  let split := 2 ^ bitsAt (leAt o 25 1) 0 3
  let (first, n) := scatterKeys o i.index
  let lo := i.index % split * n
  let shards := leAt o 34 2
  let (vals, sats, gaps) := denseValues s m base (leAt o 40 4) first n
  let present := scatterPresent i part
  let (sums, used) := slotSums o m.ufmt part present vals lo n
  let recs := sums.map (fun p =>
    let d := part.distinct.getD p.1 (0, 0)
    let w := shardOf s i.src2.bytes shards d.2
    ({ owner := w.1, queue := leAt o 32 2 + d.1, key := w.2
       seq := leAt o 44 3 * 2 ^ 40 + i.index * 2 ^ 20 + p.1
       payload := packCodes (opFmt o) (p.2.map (fun v => (narrowF32 (opFmt o) v).code)) } : OutRec))
  let c := ceilDiv len 128
  let arrays := if i.src0.kind = 1 || i.src0.kind = 3 then unitsOf (16 * part.distinct.length) +
    unitsOf (8 * part.positions.length) + unitsOf (4 * part.weights.length) else 0
  let away := recs.filter (fun r => r.owner != deviceId s)
  let sent := ((away.map (fun r => (r.owner, r.queue))).eraseDups.map (fun g =>
    unitsOf ((away.filter (fun r => r.owner == g.1 && r.queue == g.2)).flatMap keyedRecord).length)).sum
  (recs, {
    cost := used * c * (if leAt o 24 1 = 2 then 2 else 1) + recs.length * c + arrays +
      unitsOf (n * len * elemBytes m.ufmt) + (if shards = 1 then 0 else unitsOf (2 * shards)) + sent
    counters := [(4, scatterInvalid i part lo n), (20, sats), (60, gaps)] })

/-- The step of a SCATTER_MERGE (R207 to R209). -/
def scatterStep (s : State) (id : Nat) (x : Ctx) (it : Item) (i : OpIn) : State :=
  let o := i.op
  if leAt o 28 2 = 0 || leAt o 36 4 = 0 then applyRes s id x it o noOp
  else match NMap.find? x.queues (leAt o 30 2), handleBase s x (refIndex (opRef o 1)) with
    | some m, some base =>
      if i.src0.gone then applyRes s id x it o { cost := 0 }
      else match parseLookup i.src0.bytes (i.index / 2 ^ bitsAt (leAt o 25 1) 0 3) with
        | none => applyRes s id x it o embBad
        | some (part, hw) =>
          if scatterWrong i m part hw then applyRes s id x it o embBad
          else
            let w := scatterWork s i m base part
            if affords it w.2 then applyRes (sendRecords s id it o w.1) id x it o w.2 else applyRes s id x it o w.2
    | _, _ => applyRes s id x it o { bad := true }

def execScatterMerge (item : Nat) (s : State) : Host.Outcome State Fault Refusal :=
  match takeOp s item 0x22 with
  | .idle => ok s
  | .moved t => finish t
  | .go t x it i => finish (scatterStep t item x it i)

/-! ### ROW_APPLY -/

def rowApplyRule : OpRule :=
  { skip := [0], kinds := [kNone, [1], kNone, kNone], fmtIn := [0], fmtOut := [0], lengths := []
    named := [(24, 25), (28, 32)]
    check := fun o => firstBad [(24, decide (1023 < leAt o 24 2)), (32, decide (1 < leAt o 32 1))] }

/-- The frames of a step's block that hold a key's record are all acknowledged (R212). -/
def recordAcked (x : Ctx) (m : MergeQueue) (f : FinalStep) (key : Nat) : Bool :=
  let a := 64 + ((f.values.findIdx? (fun v => v.1 == key)).getD 0) * recordWidth m
  x.journal.frames.all (fun p => p.2.block != f.block || p.2.acked || p.2.kind != 1 ||
    decide (p.2.blockOff + p.2.blockLen ≤ a) || decide (a + recordWidth m ≤ p.2.blockOff))

/-- A row of a table that an apply reads; a group inherited from a version not yet retired waits (R218). -/
def applyRow (s : State) (x : Ctx) (it : Item) (v key : Nat) : RowAt :=
  match groupOf s v (key / 4096) with
  | none => .invalid
  | some (_, e) => if e.state = gLost then .lost v (key / 4096) else if e.inherited then .wait else rowAt s x it v key

/-- What an item does with one key: its slots, its counters, its charge and the LOST groups it met (R214 to R219). -/
structure KeyWork where
  slots : List ApplySlot
  counters : Counters
  cost : Nat
  lost : List (Nat × Nat)
deriving DecidableEq, Repr

/-- The work of one key whose rows are here. -/
def keyWork (m : MergeQueue) (f : FinalStep) (skipNan : Bool) (slot : Nat → List Byte → Nat → Nat → ApplySlot)
    (codes : List Nat) (key : Nat) (w : RowAt) (st : Option RowAt) : KeyWork :=
  let p := f.params
  let g := codes.map (widenCode m.ufmt)
  let lostOf := fun (r : RowAt) => match r with | .lost v q => [(v, q)] | _ => []
  let lost := lostOf w ++ (match st with | some r => lostOf r | none => [])
  let sat := NMap.getD f.sats key 0
  if !lost.isEmpty then { slots := [slot 0 [] 0 1], counters := [(8, 1), (20, sat)], cost := 0, lost := lost }
  else if skipNan && g.any (fun x => !(f32IsFinite x)) then
    { slots := [slot 0 [] 0 2], counters := [(62, 1), (20, sat)], cost := 0, lost := [] }
  else match w with
    | .here v _ t e _ bs _ =>
      let (w0, bad) := decodeRow e.fmt t.rowLen e.stride bs
      let (sv, ss, s0, sb) := match st with
        | some (.here v' _ t' e' _ bs' _) =>
          let d := decodeRow e'.fmt t'.rowLen e'.stride bs'
          (v', e'.stride, d.1, d.2)
        | _ => (0, 0, [], 0)
      let f32 := fun (n : Nat) => BitVec.ofNat 32 n
      let (w1, s1) := optStep p.opt (f32 p.lr) (f32 p.eps) (f32 p.beta) w0 s0 g
      let enc := writeBack t e key f.version (p.wb == 2) w1
      let c := ceilDiv t.rowLen 128
      let opt := if p.opt = 0 then c else if p.opt = 2 then 3 * c else 2 * c
      { slots := slot v (slice enc.bytes 0 e.stride) (enc.sat + enc.denied) 0 ::
          (if ss = 0 then [] else [slot sv (slice (f32Bytes s1) 0 ss) 0 0])
        counters := [(20, sat + enc.sat), (24, enc.nan), (54, enc.denied), (56, bad + sb)]
        cost := opt + (if fmtScaled e.fmt then 2 * ceilDiv t.rowLen 32 else 0) + 2 * unitsOf e.stride +
          (if ss = 0 then 0 else 2 * unitsOf ss) + unitsOf (m.elems * elemBytes m.ufmt)
        lost := [] }
    | _ => { slots := [slot 0 [] 0 1], counters := [(20, sat)], cost := 0, lost := [] }

/-- The slots that an item placed before are replaced (R217). -/
def setSlots (s : State) (id : Nat) (zs : List ApplySlot) : State :=
  { s with tables := { s.tables with slots := s.tables.slots.filter (fun z => z.item != id) ++ zs } }

/-- The keys that an item of a ROW_APPLY descriptor applies: its share of the keys that were not marked when the first
item ran (R215). -/
def keyShare (keys : List Nat) (i n : Nat) : List Nat :=
  let k := keys.length
  (keys.drop (i * k / n)).take ((i + 1) * k / n - i * k / n)

/-- The keys of the step that were open when the descriptor's first item ran (R215). -/
def applyKeys (d : Desc) (f : FinalStep) : List Nat :=
  d.keys.getD ((f.values.map (·.1)).filter (fun k => !(f.marked.contains k)))

/-- The item's share of them that is still open (R215). -/
def applyMine (d : Desc) (f : FinalStep) (index : Nat) : List Nat :=
  (keyShare (applyKeys d f) index (max 1 d.n)).filter (fun k => !(f.marked.contains k))

/-- The rows of keys, in the weight table and in the state table where there is one (R214). -/
def applyRows (s : State) (x : Ctx) (it : Item) (d : Desc) (m : MergeQueue) (set : Nat) (mine : List Nat) :
    List (Nat × RowAt × Option RowAt) :=
  let rowOf := fun (v : Option Nat) (k : Nat) => v.elim RowAt.invalid (fun v => applyRow s x it v k)
  let wv := (pinnedVer s d.pins set m.table).map (·.1)
  let sv := m.stateTable.map (fun t => (pinnedVer s d.pins set t).map (·.1))
  mine.map (fun k => (k, rowOf wv k, sv.map (fun v => rowOf v k)))

/-- What an item does with its keys (R214 to R219). -/
def applyWorks (id : Nat) (it : Item) (i : OpIn) (m : MergeQueue) (f : FinalStep)
    (rows : List (Nat × RowAt × Option RowAt)) : List KeyWork :=
  let o := i.op
  let slot := fun (key v : Nat) (row : List Byte) (sat kind : Nat) =>
    ({ item := id, ctx := it.ctx, queue := leAt o 24 2, step := leAt o 28 4, key := key, ver := v, row := row, sat := sat,
       kind := kind } : ApplySlot)
  rows.map (fun r => keyWork m f (leAt o 32 1 == 1) (slot r.1)
    (((List.find? (fun v => v.1 == r.1) f.values).map (·.2)).getD []) r.1 r.2.1 r.2.2)

/-- The charge and the counts of that work (R219). -/
def worksRes (ws : List KeyWork) : OpRes :=
  let counters := ws.foldl (fun c w => addCounters c w.counters) []
  let bad := NMap.getD counters 56 0
  { cost := (ws.map (·.cost)).sum, counters := counters
    bumps := [(ctBadBlock, bad)], events := if bad = 0 then [] else [(evNum, 2)] }

/-- The step of a ROW_APPLY (R214 to R219). -/
def applyStep (s : State) (id : Nat) (x : Ctx) (it : Item) (i : OpIn) : State :=
  let o := i.op
  match NMap.find? x.queues (leAt o 24 2), getDesc s it.ctx it.ring it.idx, handleBase s x (refIndex (opRef o 1)) with
  | some m, some d, some set =>
    match NMap.find? m.finals (leAt o 28 4) with
    | none => applyRes (setSlots s id []) id x it o { cost := 0 }
    | some f =>
      let s := modDesc s it.ctx it.ring it.idx (fun y => { y with keys := some (applyKeys d f) })
      if i.count < ceilDiv (applyKeys d f).length (max 1 d.n) then skipItem s id .tooMany
      else
        let mine := applyMine d f i.index
        let rows := applyRows s x it d m set mine
        match rowsFirst s id (rows.flatMap (fun r => r.2.1 :: r.2.2.toList)) with
        | some s1 => modItem s1 id (fun it => if it.waiting = 0 then { it with waitSince := none } else it)
        | none =>
          if !(mine.all (recordAcked x m f)) then
            modItem s id (fun it => { it with waitSince := some (it.waitSince.getD (now s)) })
          else
            let ws := applyWorks id it i m f rows
            if !(affords it (worksRes ws)) then applyRes s id x it o (worksRes ws)
            else
              let s1 := (ws.flatMap (·.lost)).foldl (fun s p => nameLost s it id p.1 p.2) s
              let s2 := modItem (setSlots s1 id (ws.flatMap (·.slots))) id (fun it => { it with waitSince := none })
              applyRes s2 id x it o (worksRes ws)
  | _, _, _ => applyRes s id x it o { bad := true }

def execRowApply (item : Nat) (s : State) : Host.Outcome State Fault Refusal :=
  match takeOp s item 0x23 with
  | .idle => ok s
  | .moved t => finish t
  | .go t x it i => finish (applyStep t item x it i)

/-! ### APPLY_SLOT_COPY -/

def slotsOf (s : State) (id : Nat) : List ApplySlot := s.tables.slots.filter (fun z => z.item == id)

/-- Change the item's slot of a key in a version. -/
def modSlot (s : State) (z : ApplySlot) (f : ApplySlot → ApplySlot) : State :=
  { s with tables := { s.tables with slots := s.tables.slots.map (fun y =>
      if y.item = z.item ∧ y.key = z.key ∧ y.ver = z.ver then f y else y) } }

/-- A row is held by the migration of its group; a replay's value replaces the one it held (09 R195). -/
def holdRow (s : State) (mig : Nat) (id off : Nat) (row : List Byte) : State :=
  modMigration s mig (fun m => { m with
    held := m.held.filter (fun h => !(h.1 == id && h.2.1 == off)) ++ [(id, off, row)] })

/-- Copy one slot to its group, hand it to a migration, or leave it waiting (R217, R218, 09 R195). -/
def copySlot (s : State) (id : Nat) (it : Item) (z : ApplySlot) : State :=
  let g := z.key / 4096
  match groupOf s z.ver g with
  | none => modSlot s z (fun z => { z with kind := 1 })
  | some (_, e) =>
    if e.state = gRebuilding || e.inherited then s
    else if e.state = gLost then nameLost (modSlot s z (fun z => { z with kind := 1 })) it id z.ver g
    else
      let off := z.key % 4096 * e.stride
      let s1 := modEntry s z.ver g (fun e => { e with flags := withBit e.flags 2 true })
      if e.state = gMigrating then
        match migrationOf s z.ver g with
        | some (mig, _) => holdRow (modSlot s1 z (fun z => { z with kind := 4 })) mig id off z.row
        | none => s
      else
        let a := locAddr s e.loc + off
        let s1 := dropStageRow s1 z.ver z.key a
        if isDeck s a then modSlot (deckWrite s1 (gLocal a) z.row) z (fun z => { z with kind := 5 })
        else
          let s2 := modSlot s1 z (fun z => { z with kind := 3 })
          issueWrites (modItem s2 id (fun it => { it with
            waiting := it.waiting + (pieces a z.row.length).length, waitSince := some (now s) })) (.row id) it.ctx a z.row

/-- A row of a slot is in place; what was staged of it while it was on its way is invalidated (09 R192). -/
def landSlot (s : State) (z : ApplySlot) : State :=
  let s1 := modSlot s z (fun z => { z with kind := 5 })
  match groupOf s z.ver (z.key / 4096) with
  | some (_, e) => dropStageRow s1 z.ver z.key (rowAddr s e (z.key % 4096))
  | none => s1

/-- Rows whose writes have all been answered are in place: those sent to the Causeway, and those a migration has
written. -/
def landSlots (s : State) (id : Nat) : State :=
  if (getItem s id).elim true (fun it => it.waiting != 0) then s
  else
    let held := s.tables.migrations.any (fun p => p.2.held.any (fun h => h.1 == id))
    ((slotsOf s id).filter (fun z => z.kind == 3 || (z.kind == 4 && !held))).foldl landSlot s

/-- Saturated and denied elements of an item's rows go to their groups' counters as it commits (08 R172, R217). -/
def countSlots (s : State) (id : Nat) : State :=
  ((slotsOf s id).filter (fun z => z.kind == 5 && z.sat != 0)).foldl (fun s z =>
    modEntry s z.ver (z.key / 4096) (fun e => { e with sat := min (e.sat + z.sat) 0xFFFFFFFF })) s

/-- Mark the keys of an item whose every slot is in place, lost or left unchanged; each row applied is stamped (R215; 02 R27,
R28; log entry 181). -/
def markSlots (s : State) (id : Nat) : State :=
  let zs := slotsOf s id
  match zs.head? with
  | none => s
  | some z0 =>
    let keys := (zs.map (·.key)).eraseDups.filter (fun k => (zs.filter (fun z => z.key == k)).all (fun z =>
      z.kind == 1 || z.kind == 2 || z.kind == 5))
    let old := ((getQueue s z0.ctx z0.queue).bind (fun m => NMap.find? m.finals z0.step)).elim [] (·.marked)
    let new := keys.filter (fun k => !(old.contains k))
    let rows := new.filter (fun k => zs.any (fun z => z.key == k && z.kind == 5))
    let s1 := modQueue s z0.ctx z0.queue (fun m => { m with
      finals := NMap.modify m.finals z0.step (fun f => { f with marked := f.marked ++ new }) })
    bump (rows.foldl (fun s k => trace s z0.ctx srcCauseway 8 (k / 4096) 0) s1) ctApplyRows rows.length

/-- The SKIP block of the keys that an item leaves unchanged (R211, R214). -/
def writeSkipBlock (s : State) (z0 : ApplySlot) (keys : List Nat) : State :=
  match getQueue s z0.ctx z0.queue with
  | none => s
  | some m =>
    match NMap.find? m.finals z0.step with
    | none => s
    | some f =>
      let (w, st) := queueTables s z0.ctx m
      let idOf := fun (v : Option Nat) => ((v.bind (getVer s)).map (·.tableId)).getD 0
      let s1 := modQueue s z0.ctx z0.queue (fun m => { m with
        finals := NMap.modify m.finals z0.step (fun f => { f with skipped := f.skipped ++ keys }) })
      let s2 := keys.foldl (fun s _ => event s evMerge 3) s1
      writeBlock s2 z0.ctx 3 z0.queue z0.step (idOf w) keys 8
        (blockHeader 3 m f.params (idOf w) f.version z0.step keys.length 0 (idOf st) ++ keys.flatMap (fun k => natLE k 8))

/-- Every SKIP block of a step is acknowledged (R211). -/
def skipsAcked (s : State) (z0 : ApplySlot) : Bool :=
  match NMap.find? s.ctxs z0.ctx with
  | none => true
  | some x => x.journal.frames.all (fun f => f.2.kind != 3 || f.2.queue != z0.queue || f.2.step != z0.step || f.2.acked)

end Sys2Proof.Machine
end

