-- ==== Sys2Proof/Machine/Decoders.lean ====
section
/-!
DEFINITION. Decoding of source bytes: the segment entry (06 R99, R100), schema programs (R105), IRC row blocks
(R102, R103, R106), Avro blocks and values (R104, R106), charges and the record budget (R109, 04 R63).
-/

namespace Sys2Proof.Machine

open Sys2Proof

/-! ### Causes (R110) -/

abbrev cBudget : Nat := 1
abbrev cSize : Nat := 2
abbrev cExpansion : Nat := 3
abbrev cHeader : Nat := 4
abbrev cSync : Nat := 5
abbrev cCodec : Nat := 6
abbrev cCheck : Nat := 7
abbrev cMalformed : Nat := 8
abbrev cTruncated : Nat := 9
abbrev cSchema : Nat := 10
abbrev cSegment : Nat := 11

/-- One quarantine: first position, positions covered, cause, block offset in src2 and the first record's charge. -/
structure Quar where
  pos : Nat
  n : Nat
  cause : Nat
  block : Nat
  charge : Nat
deriving DecidableEq, Repr

/-! ### Schema programs -/

/-- One step of a schema program (R105). -/
structure SStep where
  kind : Nat
  fmt : Nat
  nullable : Bool
  discard : Bool
  logical : Nat
  column : Nat
  param : Nat
deriving DecidableEq, Repr

def readStep (b : List Byte) : Option SStep :=
  let kind := leAt b 0 1
  if kind = 0 ∨ 15 < kind ∨ 0x13 < leAt b 1 1 ∨ 4 ≤ leAt b 2 1 ∨ 9 < leAt b 3 1 ∨ leAt b 12 4 ≠ 0 then none
  else some { kind := kind, fmt := leAt b 1 1, nullable := bitAt (leAt b 2 1) 0
              discard := bitAt (leAt b 2 1) 1 || leAt b 1 1 == 0, logical := leAt b 3 1
              column := leAt b 4 4, param := leAt b 8 4 }

/-- The format that R104 gives a step's output. -/
def stepFmt (s : SStep) : Nat :=
  match s.kind with
  | 2 => fUint8
  | 3 => fInt32
  | 4 => fInt64
  | 5 | 6 => fFp32
  | 7 | 9 => if s.logical = 1 then fInt64 else fUint8
  | 8 => fUint8
  | 10 => fInt32
  | 12 => fUint8
  | 14 => fInt8
  | _ => 0

/-- The bytes that an element of a step's output takes, as far as its format tells (R106 step 9). -/
def stepWidth (s : SStep) : Nat :=
  if s.discard then 0
  else if s.kind = 9 ∧ s.logical ≠ 1 then s.param
  else if (s.kind = 7 ∧ s.logical ≠ 1) ∨ s.kind = 8 ∨ s.kind = 11 ∨ s.kind = 12 ∨ s.kind = 13 then 0
  else codeWidth (stepFmt s)
where
  codeWidth (f : Nat) : Nat := ceilDiv (fmtBits f) 8

/-- A program as a tree: a value, an array or map with what an element holds, or a union with its branches. -/
inductive Node where
  | leaf (s : SStep)
  | group (s : SStep) (kids : List Node)

/-- At most `n` nodes, up to an end step or the end of the program. -/
def parseNodes : Nat → Nat → List SStep → Option (List Node × List SStep)
  | 0, _, _ => none
  | _, _, [] => some ([], [])
  | f + 1, n, st :: rest =>
    if n = 0 ∨ st.kind = 13 then some ([], st :: rest)
    else if st.kind = 11 ∨ st.kind = 12 then
      match parseNodes f 4096 rest with
      | some (kids, e :: r) => if e.kind = 13 then
          (parseNodes f (n - 1) r).map (fun q => (.group st kids :: q.1, q.2)) else none
      | _ => none
    else if st.kind = 14 then
      match parseNodes f st.param rest with
      | some (kids, r) => if kids.length = st.param ∧ 1 ≤ st.param ∧ st.param ≤ 16 then
          (parseNodes f (n - 1) r).map (fun q => (.group st kids :: q.1, q.2)) else none
      | none => none
    else (parseNodes f (n - 1) rest).map (fun q => (.leaf st :: q.1, q.2))

/-- What an output column is: its kind, format and whether it carries validity. -/
structure ColSpec where
  kind : Nat
  fmt : Nat
  valid : Bool
deriving DecidableEq, Repr

/-- The kind of a step's column at a nesting depth: a list inside an array or map, bytes for byte strings
(log entry 19). -/
def stepCol (depth : Nat) (nul : Bool) (s : SStep) : ColSpec :=
  let bytesLike := (s.kind = 7 ∧ s.logical ≠ 1) ∨ s.kind = 8 ∨ (s.kind = 9 ∧ s.logical ≠ 1)
  { kind := if depth = 0 then (if bytesLike then 2 else 1) else 3, fmt := s.fmt, valid := nul || s.nullable }

/-- The output columns that nodes write. -/
def nodeCols : Nat → Nat → Bool → List Node → NMap ColSpec
  | 0, _, _, _ => []
  | _, _, _, [] => []
  | f + 1, depth, nul, .leaf s :: ns =>
    let rest := nodeCols f depth nul ns
    if s.discard || s.kind = 1 then rest else NMap.set rest s.column (stepCol depth nul s)
  | f + 1, depth, nul, .group s kids :: ns =>
    let rest := nodeCols f depth nul ns
    let own := if s.discard || s.kind = 11 then rest
      else NMap.set rest s.column (if s.kind = 12 then { kind := 3, fmt := s.fmt, valid := nul || s.nullable }
                                   else stepCol depth nul s)
    let inner := nodeCols f (if s.kind = 14 then depth else depth + 1) (nul || s.nullable || s.kind == 14) kids
    inner.foldl (fun m q => NMap.set m q.1 q.2) own

/-- A schema program that has passed its checks. -/
structure Program where
  steps : List SStep
  nodes : List Node
  cols : List ColSpec

/-- A program read and checked; none quarantines every record with cause SCHEMA (R105).  DESIGN CHOICE (log entry 164): an output
column that no step names is a scalar UINT8 column of zeros, and a step that is read and discarded may name any column. -/
def readProgram (irc : Bool) (schemaFp : Nat) (bs : List Byte) : Option Program :=
  let n := leAt bs 0 4
  let cc := leAt bs 4 2
  if n = 0 ∨ 4096 < n ∨ cc = 0 ∨ 256 < cc ∨ !(allZero (slice bs 6 10)) ∨ bs.length < 16 + 16 * n then none
  else
    match (List.range n).mapM (fun k => readStep (slice bs (16 + 16 * k) 16)) with
    | none => none
    | some steps =>
      let named := steps.all (fun s => s.discard || s.kind = 1 || s.kind = 13 || decide (s.column < cc))
      let dflt : ColSpec := { kind := 1, fmt := fUint8, valid := false }
      if !named then none
      else if irc then
        if !(steps.all (fun s => s.kind == 15)) then none
        else
          let kindOf := fun (k : Nat) (s : SStep) =>
            if s.fmt = fUint8 then 1 + Config.ircKind schemaFp k % 3
            else if Config.ircKind schemaFp k % 2 = 0 then 1 else 3
          let m := ((List.range n).zip steps).foldl (fun (m : NMap ColSpec) q =>
            if q.2.discard then m else NMap.set m q.2.column { kind := kindOf q.1 q.2, fmt := q.2.fmt, valid := q.2.nullable }) []
          some { steps := steps, nodes := [], cols := (List.range cc).map (fun k => NMap.getD m k dflt) }
      else if !(steps.all (fun s => s.kind != 15 && (s.fmt == 0 || s.fmt == stepFmt s))) then none
      else match parseNodes 8193 4096 steps with
        | some (nodes, []) =>
          let m := nodeCols 8193 0 false nodes
          some { steps := steps, nodes := nodes, cols := (List.range cc).map (fun k => NMap.getD m k dflt) }
        | _ => none

/-- The kind of the IRC column that step `k` describes (log entry 18). -/
def ircColKind (schemaFp k : Nat) (s : SStep) : Nat :=
  if s.fmt = fUint8 then 1 + Config.ircKind schemaFp k % 3
  else if Config.ircKind schemaFp k % 2 = 0 then 1 else 3

/-! ### Results -/

/-- What has been decoded: rows by position (none for a skipped position), quarantines, the charge, a record that
waits for its budget quarantine, the values written so far by column, and whether the item's budget has ended it. -/
structure DecAcc where
  rows : List (Option (List Cell))
  quars : List Quar
  charge : Nat
  overAt : Option Nat
  vals : List Nat
  kept : Nat
  stop : Bool
  overBudget : Bool

def DecAcc.pos (a : DecAcc) : Nat := a.rows.length

/-- What decoding is asked for. -/
structure DecAsk where
  count : Nat
  budget : Nat
  ratio : Nat
  maxRec : Nat
  codec : Nat
  schemaFp : Nat
  sync : List Byte
  room : Nat
  pass : Bool
  late : List Nat
  start : Nat
  left : Nat

/-- Skip `n` positions for a cause, in one quarantine, unless the charge would pass what is left of the item's budget
(04 R64). -/
def DecAcc.quarantine (q : DecAsk) (a : DecAcc) (n cause block charge : Nat) : DecAcc :=
  if n = 0 then a
  else if q.left < a.charge + charge then { a with overBudget := true, stop := true }
  else { a with rows := a.rows ++ List.replicate n none, quars := a.quars ++ [⟨a.pos, n, cause, block, charge⟩]
                charge := a.charge + charge }

/-- The rest of the segment is skipped for a cause. -/
def DecAcc.endWith (q : DecAsk) (a : DecAcc) (cause block : Nat) : DecAcc :=
  { (a.quarantine q (q.count - a.pos) cause block 0) with stop := true }

/-- The bytes of the output set with one more row of these value counts (R106 step 9: output fits dst). -/
def DecAcc.sizeWith (q : DecAsk) (p : Program) (a : DecAcc) (add : List Nat) : Nat :=
  let rows := if q.pass then q.count else a.kept + 1
  setBytes ((p.cols.zip (a.vals.zip add)).map (fun c =>
    partSizes c.1.kind c.1.fmt rows c.1.valid (if c.1.kind = 1 then rows else c.2.1 + c.2.2)))

/-- The output bytes of one record: its present values.  DESIGN CHOICE (log entry 161): offsets, validity bits and the slots of
null scalars do not count. -/
def cellBytes (p : Program) (cells : List Cell) : Nat :=
  (p.cols.zip cells).foldl (fun a q => a + if q.2.present then packedBytes q.1.fmt q.2.vals.length else 0) 0

/-- A record's steps in order, each a charge and then a check; the charge so far and what ended it: `some 0` none,
`some c` a cause, `none` the budget (R109, 04 R63). -/
def runSteps (budget : Nat) : Nat → List (Nat × Nat) → Nat × Option Nat
  | c, [] => (c, some 0)
  | c, (cost, cause) :: rest =>
    if budget < c + cost then (budget, none)
    else if cause ≠ 0 then (c + cost, some cause)
    else runSteps budget (c + cost) rest

/-- One record takes its place: emitted, quarantined for a cause together with the `more` records behind it, or over its
budget. -/
def DecAcc.record (q : DecAsk) (p : Program) (a : DecAcc) (block more : Nat) (cells : List Cell) (steps : List (Nat × Nat))
    (decomp : Nat) : DecAcc :=
  let bytes := cellBytes p cells
  let add := cells.map (fun c => c.vals.length)
  let big := if q.maxRec < bytes || q.room < a.sizeWith q p add then cSize else 0
  let (c, r) := runSteps q.budget 0 (steps ++ [(decomp, 0), (0, big), (ceilDiv bytes 4, 0)])
  match r with
  | none => if q.late.contains a.pos then a.quarantine q 1 cBudget block q.budget else { a with overAt := some a.pos, stop := true }
  | some 0 =>
    if q.left < a.charge + c then { a with overBudget := true, stop := true }
    else { a with
      rows := a.rows ++ [some cells], charge := a.charge + c, kept := a.kept + 1
      vals := (a.vals.zip add).map (fun z => z.1 + z.2) }
  | some cause => a.quarantine q (1 + more) cause block c

/-! ### IRC -/

/-- One chunk entry of a row block (R102). -/
structure Chunk where
  codec : Nat
  nulls : Bool
  off : Nat
  clen : Nat
  ulen : Nat
  crc : Nat
deriving DecidableEq, Repr

def readChunk (b : List Byte) : Chunk :=
  { codec := leAt b 0 1, nulls := bitAt (leAt b 1 1) 0, off := leAt b 4 4, clen := leAt b 8 4, ulen := leAt b 12 4,
    crc := leAt b 16 4 }

def chunkClean (b : List Byte) : Bool := decide (leAt b 1 1 < 2) && leAt b 2 2 == 0 && allZero (slice b 20 12)

/-- Chunks do not overlap (R106 step 3). -/
def disjoint : List Chunk → Bool
  | [] => true
  | c :: cs => cs.all (fun d => decide (c.off + c.clen ≤ d.off) || decide (d.off + d.clen ≤ c.off) ||
      c.clen == 0 || d.clen == 0) && disjoint cs

/-- Bytes of a scalar chunk (R103). -/
def scalarChunk (nulls : Bool) (fmt n : Nat) : Nat := (if nulls then pad8 (ceilDiv n 8) else 0) + packedBytes fmt n

/-- The uncompressed bytes of a chunk, none on a codec error or another length (R106 step 7). -/
def chunkBytes (c : Chunk) (raw : List Byte) : Option (List Byte) :=
  if c.codec = 0 then some raw
  else if c.codec = 1 then (match inflate c.ulen raw with | .ok x => if x.length = c.ulen then some x else none | .error _ => none)
  else if c.codec = 2 then (match zstdDecode c.ulen raw with | .ok x => if x.length = c.ulen then some x else none | .error _ => none)
  else none

/-- The value of record `r` in a chunk of `n` records, with the cause of a failed check, zero for none
(R103, R106 step 9).  Offsets that the chunk is too short to hold are MALFORMED.  DESIGN CHOICE (log entry 165): the elements of
a discarded list, whose format nothing tells, are taken as 8 bytes. -/
def chunkCell (s : SStep) (kind n : Nat) (nulls : Bool) (bs : List Byte) (r : Nat) : Cell × Nat :=
  let vb := if nulls then pad8 (ceilDiv n 8) else 0
  let present := if nulls then bitAt (leAt bs (r / 8) 1) (r % 8) else true
  let nullBad := if !present && !s.nullable then cMalformed else 0
  if kind = 1 then
    let k := (unpackCodes s.fmt n (bs.drop vb)).getD r 0
    ({ present := present, vals := [if present then k else 0] }, nullBad)
  else
    let lo := leAt bs (vb + 4 * r) 4
    let hi := leAt bs (vb + 4 * r + 4) 4
    let base := vb + pad8 (4 * (n + 1))
    let have_ := if fmtBits s.fmt < 8 || s.fmt = fTer then (bs.length - base) * groupElems s.fmt / groupBytes s.fmt
                 else (bs.length - base) / (fmtBits s.fmt / 8)
    if bs.length < vb + 4 * r + 8 || hi < lo || have_ < hi || 2 ^ 31 ≤ hi || (r = 0 && lo != 0) then (nullCell kind, cMalformed)
    else if s.param != 0 && decide (s.param < hi - lo) then (nullCell kind, cSize)
    else
      let vals := (unpackCodes s.fmt hi (bs.drop base)).drop lo
      ({ present := present, vals := if present then vals else [] }, nullBad)

/-- The records of an IRC block whose chunks have passed every block check. -/
def ircRecords (q : DecAsk) (p : Program) (block n take : Nat) (chunks : List (Chunk × List Byte)) (a : DecAcc) : DecAcc :=
  (List.range take).foldl (fun a r =>
    if a.stop then a
    else
      let cs := ((List.range p.steps.length).zip (p.steps.zip chunks)).map (fun z =>
        (z.2.1, z.2.2.1.codec, chunkCell z.2.1 (ircColKind q.schemaFp z.1 z.2.1) n z.2.2.1.nulls z.2.2.2 r))
      let cells := (List.range p.cols.length).map (fun k =>
        match List.find? (fun c => !c.1.discard && c.1.column == k) cs with
        | some c => c.2.2.1
        | none => zeroCell 1)
      let packed := cs.foldl (fun t c => t + if c.1.discard || c.2.1 = 0 || !c.2.2.1.present then 0
        else packedBytes c.1.fmt c.2.2.1.vals.length) 0
      a.record q p block 0 cells (cs.map (fun c => (4, c.2.2.2))) (ceilDiv packed 16)) a

/-- One IRC block at the head of the segment's remaining bytes, with the bytes it takes (R106, R107).  DESIGN CHOICE (log entry
162): a record_count outside 1 to 65,536, and block_bytes below the header and its directory, end the segment with HEADER. -/
def ircBlock (q : DecAsk) (p : Program) (block : Nat) (bs : List Byte) (a : DecAcc) : DecAcc × Nat :=
  let cc := leAt bs 12 2
  let dir := 64 + 32 * cc
  let n := leAt bs 8 4
  let size := leAt bs 32 4
  let left := q.count - a.pos
  let raw := (List.range cc).map (fun k => slice bs (64 + 32 * k) 32)
  let chunks := raw.map readChunk
  let take := min n left
  let fail := fun (cause : Nat) => (a.quarantine q take cause block 0, size)
  if bs.length < dir ∨ leAt bs 0 4 ≠ 0x42435249 ∨ cc ≠ p.steps.length ∨ leAt bs 14 2 ≠ 0 ∨ !(allZero (slice bs 36 28)) ∨
      !(raw.all chunkClean) ∨ (crc32c (slice bs 8 (dir - 8))).toNat ≠ leAt bs 4 4 then (a.endWith q cHeader block, bs.length)
  else if leAt bs 24 8 ≠ q.schemaFp then (a.endWith q cSchema block, bs.length)
  else if bs.length < size ∨ size < dir ∨ n = 0 ∨ 65536 < n ∨ (left < n ∧ size ≠ bs.length) then
    (a.endWith q cHeader block, bs.length)
  else if chunks.any (fun c => decide (size < c.off + c.clen)) || !(disjoint chunks) then fail cHeader
  else if chunks.any (fun c => decide (4194304 < c.ulen)) then fail cSize
  else if chunks.any (fun c => if c.codec = 0 then c.ulen != c.clen else decide (c.clen * q.ratio < c.ulen)) then fail cExpansion
  else if decide (n * q.maxRec < chunks.foldl (fun t c => t + c.ulen) 0) ||
      ((List.range cc).zip (p.steps.zip chunks)).any (fun z =>
        ircColKind q.schemaFp z.1 z.2.1 == 1 && z.2.1.fmt != 0 && z.2.2.ulen != scalarChunk z.2.2.nulls z.2.1.fmt n) then
    fail cSize
  else match chunks.mapM (fun c => (chunkBytes c (slice bs c.off c.clen)).map (fun x => (c, x))) with
    | none => fail cCodec
    | some cs =>
      if cs.any (fun c => (crc32c c.2).toNat != c.1.crc) then fail cCheck
      else (ircRecords q p block n take cs a, size)

/-! ### Avro -/

/-- A zig-zag varint of at most `k` bytes: its value, and the rest. -/
def zigzag : Nat → Nat → Nat → List Byte → Option (Int × List Byte)
  | 0, _, _, _ => none
  | _, _, _, [] => none
  | k + 1, shift, acc, b :: bs =>
    let v := acc + (b.toNat % 128) * 2 ^ shift
    if b.toNat < 128 then
      if 2 ^ 64 ≤ v then none
      else some (if v % 2 = 0 then ((v / 2 : Nat) : Int) else -(((v + 1) / 2 : Nat) : Int), bs)
    else zigzag k (shift + 7) v bs

/-- The state of one record's decoding; `ended` says that its bytes ran out. -/
structure AvSt where
  data : List Byte
  charge : Nat
  spent : Bool
  err : Nat
  ended : Bool
  cells : NMap Cell
  bytes : Nat

def AvSt.fail (st : AvSt) (cause : Nat) : AvSt := if st.err ≠ 0 then st else { st with err := cause }

/-- The record runs past the block's data (R106 step 8). -/
def AvSt.short (st : AvSt) : AvSt := if st.err ≠ 0 then st else { st with err := cMalformed, ended := true }

/-- A varint of at most `k` bytes that does not end: past the data, or malformed. -/
def AvSt.noVarint (st : AvSt) (k : Nat) : AvSt :=
  if st.data.length < k ∧ st.data.all (fun b => decide (128 ≤ b.toNat)) then st.short else st.fail cMalformed

/-- Charge a step; past the budget nothing more is charged, and the parse only looks for the record's end. -/
def AvSt.pay (budget : Nat) (st : AvSt) (c : Nat) : AvSt :=
  if st.spent || st.err ≠ 0 then st
  else if budget < st.charge + c then { st with spent := true, charge := budget }
  else { st with charge := st.charge + c }

/-- Values written to a column: appended inside arrays and maps. -/
def AvSt.emit (maxRec : Nat) (s : SStep) (st : AvSt) (vals : List Nat) : AvSt :=
  if s.discard then st
  else
    let old := NMap.getD st.cells s.column { present := true, vals := [] }
    let n := st.bytes + packedBytes s.fmt vals.length
    let st1 := { st with cells := NMap.set st.cells s.column { present := true, vals := old.vals ++ vals }, bytes := n }
    if maxRec < n then st1.fail cSize else st1

/-- The big-endian two's-complement number of a decimal; none outside INT64 (R104). -/
def decimalOf (bs : List Byte) : Option Nat :=
  let v := sintOf (8 * bs.length) (leNat bs.reverse)
  if bs.isEmpty then some 0
  else if -(2 ^ 63 : Nat) ≤ v ∧ v < (2 ^ 63 : Nat) then some (intBits 64 v) else none

/-- A hexadecimal digit.  DESIGN CHOICE (log entry 166): digits of either case are canonical. -/
def hexDigit (b : Byte) : Option Nat :=
  let n := b.toNat
  if 48 ≤ n ∧ n ≤ 57 then some (n - 48) else if 97 ≤ n ∧ n ≤ 102 then some (n - 87)
  else if 65 ≤ n ∧ n ≤ 70 then some (n - 55) else none

def hexPairs : List Nat → List Nat
  | a :: b :: r => (16 * a + b) :: hexPairs r
  | _ => []

/-- The 16 bytes of a uuid's canonical 36-character text (R104). -/
def uuidOf (bs : List Byte) : Option (List Nat) :=
  let dash := [8, 13, 18, 23]
  if bs.length ≠ 36 ∨ !(dash.all (fun k => leAt bs k 1 == 45)) then none
  else (((List.range 36).filter (fun k => !(dash.contains k))).mapM (fun k => hexDigit (bs.getD k 0#8))).map hexPairs

/-- Take `n` bytes of the record's data. -/
def AvSt.take (st : AvSt) (n : Nat) : Option (List Byte × AvSt) :=
  if st.data.length < n then none else some (st.data.take n, { st with data := st.data.drop n })

/-- A byte string: a long length, then its bytes, or the state after its failure. -/
def AvSt.string (st : AvSt) : Except AvSt (List Byte × AvSt) :=
  match zigzag 10 0 0 st.data with
  | none => .error (st.noVarint 10)
  | some (n, rest) =>
    if n < 0 then .error (st.fail cMalformed)
    else match { st with data := rest }.take n.toNat with
      | some q => .ok q
      | none => .error st.short

/-- One value of a step that is not null (R104). -/
def avLeaf (maxRec : Nat) (s : SStep) (st : AvSt) : AvSt :=
  let bad := st.fail cMalformed
  let strOut := fun (bs : List Byte) (st : AvSt) =>
    if s.kind != 9 && s.param != 0 && decide (s.param < bs.length) then st.fail cSize
    else if s.logical = 1 && s.kind != 8 then
      match decimalOf bs with | some v => st.emit maxRec s [v] | none => st.fail cMalformed
    else if s.logical = 9 && s.kind = 8 then
      match uuidOf bs with | some vs => st.emit maxRec s vs | none => st.fail cMalformed
    else st.emit maxRec s (bs.map (·.toNat))
  match s.kind with
  | 1 => st
  | 2 => (match st.take 1 with
    | some ([b], st) => if 1 < b.toNat then st.fail cMalformed else st.emit maxRec s [b.toNat]
    | _ => st.short)
  | 3 => (match zigzag 5 0 0 st.data with
    | some (v, r) => if v < -(2 ^ 31 : Nat) ∨ (2 ^ 31 : Nat) ≤ v then bad
                     else AvSt.emit maxRec s { st with data := r } [intBits 32 v]
    | none => st.noVarint 5)
  | 4 => (match zigzag 10 0 0 st.data with
    | some (v, r) => AvSt.emit maxRec s { st with data := r } [intBits 64 v]
    | none => st.noVarint 10)
  | 5 => (match st.take 4 with
    | some (b, st) => st.emit maxRec s [if f32IsNan (BitVec.ofNat 32 (leNat b)) then 0x7FC00000 else leNat b]
    | none => st.short)
  | 6 => (match st.take 8 with
    | some (b, st) => st.emit maxRec s [(f32OfNum (floatDecode ⟨11, 52, 1023, true, 2 ^ 53 - 1, 971⟩ false (leNat b))).toNat]
    | none => st.short)
  | 7 | 8 => (match st.string with | .ok (b, st) => strOut b st | .error e => e)
  | 9 => (match st.take s.param with | some (b, st) => strOut b st | none => st.short)
  | _ => (match zigzag 5 0 0 st.data with
    | some (v, r) => if v < 0 ∨ (s.param : Int) ≤ v then bad else AvSt.emit maxRec s { st with data := r } [v.toNat]
    | none => st.noVarint 5)

/-- Nulls for every column that nodes write at the top level. -/
def nullCols (f : Nat) (ns : List Node) (st : AvSt) : AvSt :=
  (nodeCols f 0 true ns).foldl (fun st q =>
    if NMap.has st.cells q.1 then st else { st with cells := NMap.set st.cells q.1 (nullCell q.2.kind) }) st

/-- Inside an array or map, a null element keeps its place: a zero in each scalar column that it does not fill, so that the
offsets count every element (R104). -/
def padNulls (maxRec f : Nat) (ns : List Node) (st : AvSt) : AvSt :=
  ((nodeCols f 0 true ns).filter (fun q => q.2.kind == 1)).foldl (fun st q =>
    let old := NMap.getD st.cells q.1 { present := true, vals := [] }
    let n := st.bytes + packedBytes q.2.fmt 1
    let st1 := { st with cells := NMap.set st.cells q.1 { present := true, vals := old.vals ++ [0] }, bytes := n }
    if maxRec < n then st1.fail cSize else st1) st

/-- Nulls at a depth: cells without a value at the top level, zeros inside an array or map. -/
def nullsAt (maxRec depth : Nat) (ns : List Node) (st : AvSt) : AvSt :=
  if depth = 0 then nullCols 8193 ns st else padNulls maxRec 8193 ns st

/-- Elements of one block of an array or map: an element that takes no bytes is charged once for each of the rest. -/
def avElems (budget : Nat) (one : AvSt → AvSt) : Nat → Nat → AvSt → AvSt
  | 0, _, st => st
  | _, 0, st => st
  | f + 1, n + 1, st =>
    if st.err ≠ 0 then st
    else
      let st1 := one st
      if st1.data.length = st.data.length then st1.pay budget (n * (st1.charge - st.charge))
      else avElems budget one f n st1

/-- Blocks of an array or map, up to the empty block, with `seen` elements so far and at most `most` (R106 step 9). -/
def avBlocks (budget maxRec width most : Nat) (one : AvSt → AvSt) : Nat → Nat → AvSt → AvSt
  | 0, _, st => st.fail cMalformed
  | f + 1, seen, st =>
    if st.err ≠ 0 then st
    else match zigzag 10 0 0 st.data with
      | none => st.noVarint 10
      | some (n, r) =>
        if n = 0 then { st with data := r }
        else
          let sized := if n < 0 then zigzag 10 0 0 r else some (0, r)
          match sized with
          | none => AvSt.noVarint { st with data := r } 10
          | some (_, r) =>
            let k := n.natAbs
            let st := { st with data := r }
            if maxRec < k * width || (most != 0 && decide (most < seen + k)) then st.fail cSize
            else avBlocks budget maxRec width most one f (seen + k) (avElems budget one (r.length + 1) k st)

/-- The width of one element's outputs (R106 step 9). -/
def nodesWidth (ns : List Node) : Nat :=
  ns.foldl (fun a n => a + match n with | .leaf s => stepWidth s | .group s _ => stepWidth s) 0

/-- The values of nodes in order, at a nesting depth (R104, R109). -/
def avNodes (budget maxRec : Nat) : Nat → Nat → List Node → AvSt → AvSt
  | 0, _, _, st => st.fail cMalformed
  | _, _, [], st => st
  | f + 1, depth, n :: ns, st =>
    let run := fun (st : AvSt) =>
      match n with
      | .leaf s => avLeaf maxRec s (st.pay budget 8)
      | .group s kids =>
        if s.kind = 14 then
          match zigzag 10 0 0 st.data with
          | none => st.noVarint 10
          | some (b, r) =>
            if b < 0 ∨ (kids.length : Int) ≤ b then st.fail cMalformed
            else
              let st := AvSt.emit maxRec s { st with data := r } [b.toNat]
              let pick := (kids.drop b.toNat).take 1
              let st := avNodes budget maxRec f depth pick st
              nullsAt maxRec depth (kids.take b.toNat ++ kids.drop (b.toNat + 1)) st
        else
          let st := st.pay budget 8
          let cols := nodeCols 8193 1 false kids
          let st := cols.foldl (fun st q => if NMap.has st.cells q.1 then st
            else { st with cells := NMap.set st.cells q.1 { present := true, vals := [] } }) st
          let st := if s.kind = 12 && !s.discard && !(NMap.has st.cells s.column) then
            { st with cells := NMap.set st.cells s.column { present := true, vals := [] } } else st
          avBlocks budget maxRec (nodesWidth kids) s.param (fun st =>
            if s.kind = 12 then
              match st.string with
              | .error e => e
              | .ok (k, st) => avNodes budget maxRec f (depth + 1) kids (st.emit maxRec s (k.map (·.toNat)))
            else avNodes budget maxRec f (depth + 1) kids st) (st.data.length + 1) 0 st
    let st1 :=
      if st.err ≠ 0 then st
      else
        let s := match n with | .leaf s => s | .group s _ => s
        if s.nullable then
          match zigzag 10 0 0 st.data with
          | some (0, r) =>
            nullsAt maxRec depth [n] (AvSt.pay budget { st with data := r } 8)
          | some (1, r) => run { st with data := r }
          | some _ => st.fail cMalformed
          | none => st.noVarint 10
        else run st
    if st1.err ≠ 0 then st1 else avNodes budget maxRec f depth ns st1

/-- How the records of an Avro block end: with data left, at a record that fails its own check, or past the data. -/
inductive AvEnd where
  | data (rest : List Byte)
  | failed
  | short

/-- Avro records of one block, up to `take` positions; a malformed record ends the block's positions (R106 step 9). In a last
block one that runs past the data fails step 8. -/
def avRecords (q : DecAsk) (p : Program) (block : Nat) (packed last : Bool) :
    Nat → List Byte → DecAcc → DecAcc × AvEnd
  | 0, data, a => (a, .data data)
  | k + 1, data, a =>
    if a.stop then (a, .failed)
    else
      let st := avNodes q.budget q.maxRec 8193 0 p.nodes
        { data := data, charge := 0, spent := false, err := 0, ended := false, cells := [], bytes := 0 }
      let bad := fun (a : DecAcc) (n : Nat) => (a.quarantine q n st.err block (if st.spent then 0 else st.charge), AvEnd.failed)
      if last && st.ended then ({ a with charge := a.charge + st.charge }, .short)
      else if st.spent then
        if !(q.late.contains a.pos) then ({ a with overAt := some a.pos, stop := true }, .failed)
        else
          let a1 := a.quarantine q 1 cBudget block q.budget
          if st.err ≠ 0 then bad a1 k else avRecords q p block packed last k st.data a1
      else if st.err ≠ 0 then bad a (k + 1)
      else
        let cells := ((List.range p.cols.length).zip p.cols).map (fun z => NMap.getD st.cells z.1 (zeroCell z.2.kind))
        let used := data.length - st.data.length
        let a1 := a.record q p block k cells [(st.charge, 0)] (if packed then ceilDiv used 16 else 0)
        match a1.quars.getLast? with
        | some x => if x.pos = a.pos ∧ x.cause ≠ cBudget then (a1, .failed) else avRecords q p block packed last k st.data a1
        | none => avRecords q p block packed last k st.data a1

/-- A block that fails step 8: its positions are quarantined as one unit, and its records keep the charge that they built up
(R107, R109). -/
def DecAcc.blockFails (a a1 : DecAcc) (take first block : Nat) : DecAcc :=
  if a1.overBudget then { a with overBudget := true, stop := true }
  else { a with
    rows := a.rows ++ List.replicate take none, quars := a.quars ++ [⟨a.pos, take, cMalformed, block, first⟩]
    charge := a1.charge }

/-- One Avro block at the head of the segment's remaining bytes, with the bytes it takes (R106, R107).  DESIGN CHOICE (log entry
163): a block whose sync bytes run past the segment has a size beyond the remaining bytes, and ends the segment with
HEADER. -/
def avroBlock (q : DecAsk) (p : Program) (block : Nat) (bs : List Byte) (a : DecAcc) : DecAcc × Nat :=
  let left := q.count - a.pos
  let stop := fun (c : Nat) => (a.endWith q c block, bs.length)
  match zigzag 10 0 0 bs with
  | none => stop cHeader
  | some (n, r1) =>
    match zigzag 10 0 0 r1 with
    | none => stop cHeader
    | some (z, r2) =>
      let head := bs.length - r2.length
      if n < 1 ∨ z < 0 ∨ (r2.length : Int) < z + 16 then stop cHeader
      else
        let size := z.toNat
        let n := n.toNat
        let total := head + size + 16
        if left < n ∧ total ≠ bs.length then stop cHeader
        else if (r2.drop size).take 16 ≠ q.sync then stop cSync
        else
          let raw := r2.take size
          let take := min n left
          let fail := fun (c : Nat) => (a.quarantine q take c block 0, total)
          let declared := if q.codec = 2 then zstdDeclared raw else none
          let d := declared.getD 0
          if 4194304 < d then fail cSize
          else if size * q.ratio < d then fail cExpansion
          else if n * q.maxRec < d then fail cSize
          else
            let limit := match declared with | some d => d | none => min 4194304 (size * q.ratio)
            let out : Except DecErr (List Byte) :=
              if q.codec = 0 then (if 4194304 < size then .error .excess else .ok raw)
              else if q.codec = 1 then inflate limit raw else zstdDecode limit raw
            match out with
            | .error .codec => fail cCodec
            | .error .excess => fail (if declared.isSome then cCodec else cExpansion)
            | .ok data =>
              let last := decide (left < n)
              let (a1, rest) := avRecords q p block (q.codec != 0) last take data a
              let first := (avRecords q p block (q.codec != 0) last 1 data a).1.charge - a.charge
              let broken := (a.blockFails a1 take first block, total)
              match rest with
              | .failed => (a1, total)
              | .short => broken
              | .data l => if !last ∧ l ≠ [] then broken else (a1, total)

/-! ### Segments -/

/-- Blocks of a segment until its positions are filled or its bytes end; missing positions are TRUNCATED (R107). -/
def decodeBlocksOf (irc : Bool) (q : DecAsk) (p : Program) : Nat → Nat → List Byte → DecAcc → DecAcc
  | 0, _, _, a => a
  | f + 1, off, bs, a =>
    if a.stop || q.count ≤ a.pos then a
    else if bs.isEmpty then { (a.quarantine q (q.count - a.pos) cTruncated (q.start + off) 0) with stop := true }
    else
      let (a1, n) := if irc then ircBlock q p (q.start + off) bs a else avroBlock q p (q.start + off) bs a
      decodeBlocksOf irc q p f (off + n) (bs.drop n) a1

/-- A whole segment. -/
def decodeSegment (irc : Bool) (q : DecAsk) (p : Program) (bs : List Byte) : DecAcc :=
  decodeBlocksOf irc q p (bs.length + 1) 0 bs
    { rows := [], quars := [], charge := 0, overAt := none, vals := p.cols.map (fun _ => 0), kept := 0, stop := false
      overBudget := false }

/-- The segment entry fails (R100). -/
def segmentBad (e : List Byte) (count span : Nat) (irc : Bool) : Bool :=
  !(allZero (slice e 48 16)) || (irc && !(allZero (slice e 32 16))) || leAt e 12 4 != count || leAt e 8 4 == 0 ||
  decide (span < leAt e 0 8 + leAt e 8 4)

/-- The output set of a decode: skipped positions are removed under COMPACT and stay as zero bytes under PASS
(R107, 05 R91); nothing is written when no row is left. -/
def decodeOut (p : Program) (pass : Bool) (rows : List (Option (List Cell))) : List Byte :=
  let keep := rows.filterMap (fun r => if pass then some r else r.map some)
  if keep.isEmpty then []
  else ColSet.bytes { rows := keep.length, cols := ((List.range p.cols.length).zip p.cols).map (fun c =>
    { kind := c.2.kind, fmt := c.2.fmt, valid := c.2.valid
      cells := keep.map (fun r => match r with
        | some cells => cells.getD c.1 (zeroCell c.2.kind)
        | none => zeroCell c.2.kind) : Column }) }

end Sys2Proof.Machine
end

