-- ==== Sys2Proof/Machine/Cache.lean ====
section
/-!
DEFINITION. DECODE_AVRO and DECODE_IRC, the quarantine log and the sample cache (06 R97 to R117).
-/

namespace Sys2Proof.Machine

open Sys2Proof

/-! ### What install checks (06 R97, R98) -/

def decodeCheck (irc : Bool) (o : List Byte) : Option Nat :=
  firstBad [(20, decide (65536 < opCount o)), (4, !(refPerItem (opRef o 0))), (24, decide ((if irc then 0 else 2) < leAt o 24 1)),
    (25, decide (3 < leAt o 25 1)), (26, leAt o 26 2 == 0xFFFF), (28, leAt o 28 4 == 0xFFFFFFFF),
    (32, !irc && leAt o 32 8 != 0)]

def decodeRule (irc : Bool) : OpRule :=
  { skip := [0, 1], kinds := [[1], [1], [1], kDst], fmtIn := [0], fmtOut := [0], lengths := [], named := [(24, 51)],
    check := decodeCheck irc }

/-! ### The cache -/

def entryKey (e : List Byte) : List Byte := e.take 14 ++ slice e 16 20 ++ slice e 40 8

def entryCrc (e : List Byte) : Nat := (crc32c (e.take 56 ++ e.drop 64)).toNat

/-- A cache entry: its header, its runs and the item's output (R112). -/
def cacheBytes (key : List Byte) (runs : List (Nat × Nat)) (charge : Nat) (out : List Byte) : List Byte :=
  let head := key.take 14 ++ natLE runs.length 1 ++ natLE 0 1 ++ slice key 14 20 ++ natLE out.length 4 ++
    slice key 34 8 ++ natLE charge 8
  let body := runs.flatMap (fun r => natLE r.1 4 ++ natLE r.2 4) ++ out
  head ++ natLE (crc32c (head ++ body)).toNat 4 ++ zeros 4 ++ body

/-- An uncorrectable error has struck one of an entry's blocks: its crc fails (R116). -/
def entryStruck (s : State) (x : Ctx) (e : CacheEntry) : Bool :=
  ((List.range e.pages.length).zip e.pages).any (fun q =>
    (blocksOf (cacheBase s x + 65536 * q.2) (min 65536 (e.size - 65536 * q.1))).any (fun b => unreadable s (b * 64)))

/-- The bytes that an entry's pages hold. -/
def readEntry (s : State) (x : Ctx) (e : CacheEntry) : List Byte :=
  (e.pages.flatMap (fun p => deckRead s (cacheBase s x + 65536 * p) 65536)).take e.size

/-- Look an entry up; one whose crc fails is freed and counted (R113). -/
def cacheLookup (s : State) (c : Nat) (key : List Byte) : State × Option (List Byte) :=
  match NMap.find? s.ctxs c with
  | none => (s, none)
  | some x =>
    match x.cache.find? (fun e => e.key == key) with
    | none => (s, none)
    | some e =>
      let bs := readEntry s x e
      if entryKey bs = key ∧ entryCrc bs = leAt bs 56 4 ∧ !(entryStruck s x e) then (s, some bs)
      else
        let s1 := setCtx s c { x with cache := x.cache.filter (fun f => f.key != key) }
        (event (bump s1 ctCacheCrc 1) evDecode 2, none)

def usedPages (es : List CacheEntry) : List Nat := es.flatMap (·.pages)

def freePages (total : Nat) (es : List CacheEntry) : List Nat :=
  let used := usedPages es
  (List.range total).filter (fun p => !(used.contains p))

/-- Free the oldest entries until `need` pages are free (R114). -/
def evictFuel (total need : Nat) : Nat → List CacheEntry → List CacheEntry
  | 0, es => es
  | f + 1, es =>
    if need ≤ (freePages total es).length then es
    else match es with
      | [] => []
      | _ :: rest => evictFuel total need f rest

/-- Insert an entry at its item's commit under the context's policy; a key that is present is dropped (R114, R116).  DESIGN
CHOICE (log entry 168): an entry that does not fit frees no older one, and one above 64 MiB sets cache_full too. -/
def cacheInsert (s : State) (c : Nat) (bs : List Byte) : State :=
  match NMap.find? s.ctxs c with
  | none => s
  | some x =>
    if x.cachePages = 0 ∨ x.cache.any (fun e => e.key == entryKey bs) then s
    else
      let need := ceilDiv bs.length 65536
      let kept := if x.fifo then evictFuel x.cachePages need x.cache.length x.cache else x.cache
      let free := freePages x.cachePages kept
      if need ≤ free.length ∧ bs.length ≤ 2 ^ 26 then
        let pages := free.take need
        let e : CacheEntry := {
          key := entryKey bs, dataset := leAt bs 0 8, generation := leAt bs 8 4, pages := pages, size := bs.length }
        let s1 := setCtx s c { x with cache := kept ++ [e] }
        ((List.range pages.length).zip pages).foldl
          (fun s q => deckWrite s (cacheBase s x + 65536 * q.2) ((bs.drop (65536 * q.1)).take 65536)) s1
      else event s evDecode 3

/-- CACHE_INVALIDATE: the entries of a dataset up to a generation are freed; a dataset of zero frees all
(R115, 15 R329). -/
def execCacheInvalidate (ctx ring : Nat) (s : State) : Host.Outcome State Fault Refusal :=
  finish (command s ctx ring 0x10 [(32, 43)] noArg (fun x raw _ =>
    let d := leAt raw 32 8
    let g := leAt raw 40 4
    let keep := x.cache.filter (fun e => d != 0 && (e.dataset != d || decide (g < e.generation)))
    completeHead (setCtx s ctx { x with cache := keep }) ctx ring raw 0 0))

/-! ### The quarantine log -/

/-- One log entry (R110). -/
def quarEntry (s : State) (it : Item) (code src first : Nat) (q : Quar) : List Byte :=
  natLE (stamp s) 8 ++ natLE src 8 ++ natLE q.block 8 ++ natLE (first + q.pos) 8 ++ natLE q.n 4 ++ natLE q.cause 1 ++
  natLE code 1 ++ natLE it.ctx 2 ++ natLE (it.flow.getD 0) 4 ++ natLE it.seq 4 ++ natLE q.pos 4 ++ natLE q.charge 4 ++ zeros 8

/-! ### The operators -/

/-- The bytes of an extent as the item can see them. -/
def extentBytes (s : State) (landed : Mem) (a n : Nat) : List Byte :=
  if isDeck s a then deckRead s (gLocal a) n else memTake zeroByte landed a n

/-- The quarantines of a decode count, and enter the log when the item commits (R110, 04 R65). -/
def noteQuars (s : State) (id : Nat) (it : Item) (o seg : List Byte) (quars : List Quar) (n : Nat) : State :=
  modItem s id (fun b => { b with
    quarantined := b.quarantined + n
    logs := b.logs ++ quars.map (quarEntry s it (opCode o) (leAt seg 16 8) (leAt seg 24 8)) })

/-- Put a decode's result into effect: output, runs, quarantines, traces and the bytes for the cache; with more than 64 runs
the item commits as a skip (R107, R113, R114). -/
def decodeDone (s : State) (id : Nat) (x : Ctx) (it : Item) (o : List Byte) (out : List Byte) (cost : Nat)
    (quars : List Quar) (runs : List (Nat × Nat)) (seg : List Byte) (fill : Option (List Byte)) (hit : Bool) : State :=
  let pass := opMode o == 1
  let s1 := applyRes s id x it o { out := out, cost := cost, runs := if pass then runs else [] }
  match getItem s1 id with
  | none => s1
  | some b =>
    if b.op ≠ it.op + 1 then s1
    else
      let n := runs.foldl (fun a r => a + r.2) 0
      let src := (pierOf s id).getD srcScheduler
      let s2 := if hit then bump s1 ctQuarCached n else
        (List.range (opCount o)).foldl (fun s p =>
          if inRuns runs p then trace s it.ctx src 4 p 0x20 else trace s it.ctx src 3 p 0) s1
      let s3 := modItem (noteQuars s2 id it o seg quars n) id (fun b => { b with
        outRuns := if opOut o then runs else if (outOp (itemImage s it)).isSome then b.outRuns
          else unionRuns (itemPositions s it) it.outRuns runs
        cacheFill := b.cacheFill ++ fill.toList })
      if 64 < runs.length then skipItem s3 id .own else s3

/-- The cache is looked up where the operator asks for it (R113). -/
def lookIf (look : Bool) (s : State) (c : Nat) (key : List Byte) : State × Option (List Byte) :=
  if look then cacheLookup s c key else (s, none)

/-- The bytes that a decode may write (R106). -/
def decodeRoom (s : State) (x : Ctx) (it : Item) (o : List Byte) : Nat :=
  if refKind (opRef o 3) = 1 then ((tensorView x (opRef o 3) it.index).map (·.span)).getD 0
  else chainBufSize (itemImage s it) (refIndex (opRef o 3))

/-- What a decode asks of its segment: the operator's limits, those of the context and the entry's (R97, R101, R106). -/
def decodeAsk (s : State) (x : Ctx) (it : Item) (o seg : List Byte) : DecAsk :=
  { count := opCount o, budget := it.recordBudget, ratio := if leAt o 26 2 = 0 then x.ratio else leAt o 26 2
    maxRec := if leAt o 28 4 = 0 then x.maxRecord else min (leAt o 28 4) x.maxRecord, codec := leAt o 24 1
    schemaFp := leAt o 32 8, sync := slice seg 32 16, room := decodeRoom s x it o, pass := opMode o == 1
    late := it.lateRecords, start := leAt seg 0 8, left := it.budget - it.charge }

/-- The key under which a decode's output is cached (R111). -/
def decodeKey (q : DecAsk) (o : List Byte) (code : Nat) (seg prog : List Byte) : List Byte :=
  let digest := hashNat (prog.take (16 + 16 * leAt prog 0 4) ++ natLE q.maxRec 4 ++ natLE q.ratio 2) 0
  slice o 40 8 ++ slice o 48 4 ++ natLE code 1 ++ natLE (opMode o) 1 ++ slice seg 16 8 ++ slice seg 24 8 ++
  natLE q.count 4 ++ natLE digest 8

/-- The positions of a segment that gave no row (R107). -/
def decodedRuns (n : Nat) (r : DecAcc) : List (Nat × Nat) :=
  runsOf n (fun i => match r.rows[i]? with | some (some _) => false | _ => true)

/-- Run a decode operator: the segment entry first, then the sample cache, then the source bytes (R97 to R114).  An item whose
records would pass its budget stops there, and keeps the quarantines before (04 R64).  DESIGN CHOICE (log entry 167): a segment
entry that fails fills no cache entry, while a program that fails fills one. -/
def runDecode (irc : Bool) (code : Nat) (s : State) (id : Nat) : State :=
  match getItem s id with
  | none => s
  | some it =>
    match itemCtx s it with
    | none => s
    | some x =>
      if !(opEnabled s it code) then s
      else
        let o := itemOp s it
        let n := opCount o
        let a := readOperand s x it o 0
        let b := readOperand s x it o 1
        let c := if wantsDigest s it then readOperand s x it o 2 else (Operand.none, [])
        let miss := a.2 ++ b.2 ++ c.2
        if !miss.isEmpty then askExtents s id miss
        else if !(readsLanded s id) then s
        else if n = 0 then applyRes s id x it o noOp
        else
          let seg := a.1.bytes
          let view := tensorView x (opRef o 2) it.index
          let base := (view.map (·.lo)).getD 0
          let span := (view.map (·.span)).getD 0
          let whole : List Quar := [⟨0, n, cSegment, leAt seg 0 8, 0⟩]
          let pass := opMode o == 1
          let prog := b.1.bytes
          let it1 := if wantsDigest s it then noteInput (noteInput (noteInput it 0 a.1) 1 b.1) 2 c.1 else it
          let s := modItem s id (fun _ => it1)
          let p := readProgram irc (leAt o 32 8) prog
          let allOut := fun (p : Option Program) => match p with
            | some p => decodeOut p pass (List.replicate n none)
            | none => []
          if segmentBad seg n span irc then
            decodeDone s id x it1 o (allOut p) 0 whole [(0, n)] seg none false
          else
            let q := decodeAsk s x it o seg
            let key := decodeKey q o code seg prog
            let look := bitAt (leAt o 25 1) 0 && !(wantsDigest s it1)
            let fill := bitAt (leAt o 25 1) 1
            let got := lookIf look s it.ctx key
            match got.2 with
            | some e =>
              let k := leAt e 14 1
              let runs := (List.range k).map (fun j => (leAt e (64 + 8 * j) 4, leAt e (68 + 8 * j) 4))
              let out := e.drop (64 + 8 * k)
              decodeDone (bump got.1 ctCacheHit 1) id x it1 o out (leAt e 48 8) [] runs seg none true
            | none =>
              match p with
              | none =>
                let s := if look then bump got.1 ctCacheMiss 1 else got.1
                decodeDone s id x it1 o [] 0 [⟨0, n, cSchema, leAt seg 0 8, 0⟩] [(0, n)] seg
                  (if fill then some (cacheBytes key [(0, n)] 0 []) else none) false
              | some p =>
                let at_ := base + leAt seg 0 8
                let len := leAt seg 8 4
                let need := if isDeck s at_ || c.1.kind = 1 || it.asked.contains (at_, len) then [] else [(at_, len)]
                if !need.isEmpty then askExtents s id need
                else
                  let r := decodeSegment irc q p (extentBytes s it.landed at_ len)
                  match r.overAt with
                  | some pos => modItem s id (fun it => { it with recordOver := some pos })
                  | none =>
                    let s := if look then bump got.1 ctCacheMiss 1 else got.1
                    if r.overBudget then
                      modItem (noteQuars s id it1 o seg r.quars (r.quars.foldl (fun a z => a + z.n) 0)) id
                        (fun it => { it with overBudget := true })
                    else
                    let runs := decodedRuns n r
                    let out := decodeOut p pass r.rows
                    decodeDone s id x it1 o out r.charge r.quars runs seg
                      (if fill then some (cacheBytes key runs r.charge out) else none) false

/-- DECODE_AVRO (06 R104 to R109). -/
def execDecodeAvro (item : Nat) (s : State) : Host.Outcome State Fault Refusal := finish (runDecode false 0x01 s item)

/-- DECODE_IRC (06 R102 to R109). -/
def execDecodeIrc (item : Nat) (s : State) : Host.Outcome State Fault Refusal := finish (runDecode true 0x02 s item)

end Sys2Proof.Machine
end

