-- ==== Sys2Proof/Machine/Join.lean ====
section
/-!
DEFINITION. Join tables, JOIN_BUILD and JOIN_PROBE (07 R142 to R146).  A table's bytes beyond its state are private
to the device: this model keeps the build's shape in the header and the entries one after another (log entry 17).
-/

namespace Sys2Proof.Machine

open Sys2Proof

/-- Bytes that a table occupies (R143). -/
def joinBytes (units bucketLog2 cap : Nat) : Nat :=
  256 * (1 + 2 ^ bucketLog2 + ceilDiv cap (248 / (16 * units)))

def codeBytes (fmt : Nat) : Nat := ceilDiv (fmtBits fmt) 8

/-- One entry: 16 bytes of bookkeeping, the key and the payload values (R143). -/
def entryOf (sh : JoinShape) (r : JoinRow) : List Byte :=
  let mask := ((List.range r.payload.length).zip r.payload).foldl (fun a q => a + if q.2.isSome then 2 ^ q.1 else 0) 0
  slice (natLE r.ordinal 8 ++ natLE r.key.length 1 ++ natLE mask 1 ++ zeros 6 ++
    slice r.key 0 (if sh.bytesKey then 32 else 8) ++
    (sh.fmts.zip r.payload).flatMap (fun q => natLE (q.2.getD 0) (codeBytes q.1))) 0 (16 * sh.units)

/-- The values of an entry's payload from an offset on. -/
def payloadAt (e : List Byte) (mask : Nat) : Nat → Nat → List Nat → List (Option Nat)
  | _, _, [] => []
  | k, off, f :: fs =>
    (if bitAt mask k then some (leAt e off (codeBytes f)) else none) :: payloadAt e mask (k + 1) (off + codeBytes f) fs

def rowOf (sh : JoinShape) (e : List Byte) : JoinRow :=
  { ordinal := leAt e 0 8
    key := (e.drop 16).take (leAt e 8 1)
    payload := payloadAt e (leAt e 9 1) 0 (16 + if sh.bytesKey then 32 else 8) sh.fmts }

/-- The header of a table: its state, what its descriptor says, and once an item with rows has committed (`known`) the shape
of its rows. -/
def joinHeader (state : Nat) (sh : JoinShape) (rows : Nat) (known : Bool) : List Byte :=
  natLE state 4 ++ natLE sh.units 1 ++ natLE (if sh.bytesKey then 1 else 0) 1 ++ natLE sh.bucketLog2 1 ++
  natLE (if sh.first then 1 else 0) 1 ++ natLE sh.seed 8 ++ natLE rows 8 ++ natLE sh.fmts.length 1 ++
  natLE sh.valid 1 ++ natLE (if known then 1 else 0) 1 ++ zeros 5 ++ slice (sh.fmts.map (BitVec.ofNat 8)) 0 8 ++ zeros 216

def tableBytes (state : Nat) (sh : JoinShape) (rows : List JoinRow) : List Byte :=
  joinHeader state sh rows.length true ++ rows.flatMap (entryOf sh)

def joinShape (bs : List Byte) : JoinShape :=
  { units := leAt bs 4 1, bytesKey := leAt bs 5 1 == 1, bucketLog2 := leAt bs 6 1, first := leAt bs 7 1 == 1,
    seed := leAt bs 8 8, fmts := ((bs.drop 32).take (min 8 (leAt bs 24 1))).map (·.toNat), valid := leAt bs 25 1 }

def joinRows (bs : List Byte) : List JoinRow :=
  let sh := joinShape bs
  (List.range (min (leAt bs 16 8) (bs.length / 16))).map (fun k => rowOf sh (slice bs (256 + 16 * sh.units * k) (16 * sh.units)))

/-- The rows of a table have a shape: an item with rows has committed. -/
def joinKnown (bs : List Byte) : Bool := leAt bs 26 1 == 1

/-- What a build operator says of its table before any row is known: no payload format, no key kind. -/
def plannedShape (o : List Byte) : JoinShape :=
  { units := leAt o 28 1, bytesKey := false, bucketLog2 := leAt o 26 1, first := leAt o 25 1 == 1, seed := leAt o 40 8
    fmts := List.replicate (leAt o 27 1) 0, valid := 0 }

/-- A row put in its place by ordinal; a row of the same ordinal stays (R144). -/
def putRow (r : JoinRow) : List JoinRow → List JoinRow
  | [] => [r]
  | x :: xs => if r.ordinal < x.ordinal then r :: x :: xs else if r.ordinal = x.ordinal then x :: xs else x :: putRow r xs

/-- Insert rows; under FIRST only the lowest ordinal of a key stays, and the others are counted (R144). -/
def insertRows (first : Bool) (old new : List JoinRow) : List JoinRow × Nat :=
  new.foldl (fun (acc : List JoinRow × Nat) r =>
    if acc.1.any (fun x => x.ordinal == r.ordinal) then acc
    else if first then
      match acc.1.find? (fun x => x.key == r.key) with
      | none => (putRow r acc.1, acc.2)
      | some x => if x.ordinal < r.ordinal then (acc.1, acc.2 + 1)
                  else (putRow r (acc.1.filter (fun y => y.key != r.key)), acc.2 + 1)
    else (putRow r acc.1, acc.2)) (old, 0)

/-! ### What install checks -/

def joinBuildCheck (o : List Byte) : Option Nat :=
  let n := leAt o 27 1
  firstBad [(25, decide (1 < leAt o 25 1)), (26, leAt o 26 1 < 8 || 30 < leAt o 26 1), (27, decide (8 < n)),
    (28, leAt o 28 1 < 2 || 15 < leAt o 28 1), (48 + n, !(allZero (slice o (48 + n) (8 - n))))]

def joinBuildRule : OpRule :=
  { skip := [0], kinds := [kSrc, kNone, kNone, kDst], fmtIn := [0], fmtOut := [0], lengths := [(32, 4)],
    named := [(24, 28), (32, 35), (40, 55)], check := joinBuildCheck }

def joinProbeCheck (o : List Byte) : Option Nat :=
  let n := leAt o 26 1
  firstBad [(25, decide (3 < leAt o 25 1)), (26, decide (16 < n)), (32 + n, !(allZero (slice o (32 + n) (16 - n))))]

def joinProbeRule : OpRule :=
  { skip := [0], kinds := [kSrc, kDst, kNone, kDst], fmtIn := [0], fmtOut := [0], lengths := [],
    named := [(24, 26), (28, 29), (32, 47)], check := joinProbeCheck }

/-! ### JOIN_BUILD -/

/-- The payload columns of a build, when each is a scalar. -/
def payloadCols (o : List Byte) (c : ColSet) : Option (List Column) :=
  (List.range (leAt o 27 1)).mapM (fun k => (c.cols[leAt o (48 + k) 1]?).bind (fun x => if x.kind = 1 then some x else none))

/-- The rows that a build item inserts, with what it charges, its shape and the long keys it met; none when an operand
check fails.  Over a predecessor that was skipped whole it inserts nothing and tells no shape: its units are 0 (R143, R144;
05 R91). -/
def buildRows (i : OpIn) : Option (List JoinRow × JoinShape × Nat × Nat) :=
  let o := i.op
  match setIn i.src0 i.count with
  | .bad => none
  | .gone => some ([], { plannedShape o with units := 0 }, ceilDiv i.count 4, 0)
  | .got c check =>
    match c.cols[leAt o 24 1]?, payloadCols o c with
    | some key, some ps =>
      let keyLen := if key.kind = 2 then 32 else 8
      let need := 16 + keyLen + ps.foldl (fun a x => a + codeBytes x.fmt) 0
      if !(keyColumn key) || 16 * leAt o 28 1 < need then none
      else
        let skip := i.rowSkip i.src0
        let valid := ((List.range ps.length).zip ps).foldl (fun a q => a + if q.2.valid then 2 ^ q.1 else 0) 0
        let sh := { plannedShape o with bytesKey := key.kind == 2, fmts := ps.map (·.fmt), valid := valid }
        let keyed := (List.range i.count).filterMap (fun r =>
          if skip r then none
          else ((key.cells[r]?).bind (cellKey key)).map (fun k => (r, k)))
        let rows := (keyed.filter (fun q => decide (q.2.length ≤ 32))).map (fun q =>
          { ordinal := i.index * i.count + q.1, key := q.2
            payload := ps.map (fun x => match x.cells[q.1]? with
              | some v => if v.present then some (v.vals.headD 0) else none
              | none => none) : JoinRow })
        let cols := ((leAt o 24 1) :: (List.range (leAt o 27 1)).map (fun k => leAt o (48 + k) 1)).eraseDups
        let units := cols.foldl (fun a k => match c.cols[k]? with | some x => a + colUnits i.src0 x | none => a) 0
        some (rows, sh, check + units + ceilDiv i.count 4 + (if i.dst.kind = 1 then 2 * rows.length else 0),
              keyed.length - rows.length)
    | _, _ => none

/-- The charge, counters and events of a build step. -/
def buildRes (long dup cost : Nat) (out : List Byte) : OpRes :=
  { out := out, cost := cost, counters := [(50, long), (44, dup)], events := if long = 0 then [] else [(evRel, 1)] }

/-- What a JOIN_BUILD leaves in its destination buffer (08 R148). -/
def joinBuildRes (it : Item) (i : OpIn) : OpRes :=
  if leAt i.op 32 4 = 0 then noOp else
  match buildRows i with
  | none => relBad
  | some (rows, sh, cost, long) =>
    if i.dst.kind = 2 then
      let old := (NMap.getD it.bufs (refIndex (opRef i.op 3)) ⟨[], []⟩).bytes
      if sh.units = 0 then
        buildRes long 0 cost (if leAt old 0 4 = 2 then old else joinHeader 2 (plannedShape i.op) 0 false)
      else
      let (all, dup) := insertRows sh.first (if leAt old 0 4 = 2 then joinRows old else []) rows
      buildRes long dup cost (tableBytes 2 sh all)
    else buildRes long 0 cost []

/-- Once its operator ran, a JOIN_BUILD into a tensor keeps its rows for the item's commit. -/
def keepRows (s t : State) (item : Nat) : State :=
  match getItem s item, getItem t item with
  | some a, some b =>
    if b.op = a.op + 1 ∧ opCode (itemOp s a) = 0x11 ∧ refKind (opRef (itemOp s a) 3) = 1 ∧
        opCount (itemOp s a) ≠ 0 ∧ leAt (itemOp s a) 32 4 ≠ 0 then
      match itemCtx s a with
      | some x =>
        let p := readOperand s x a (itemOp s a) 0
        let i : OpIn := { op := itemOp s a, src0 := p.1, src1 := Operand.none, src2 := Operand.none,
                          dst := { Operand.none with kind := 1 }, runs := p.1.runs, c0 := itemPositions s a,
                          index := a.index, n := 1, seed := [], view := none }
        match buildRows i with
        | some (rows, sh, _, _) =>
          { t with tables := { t.tables with
              joinPending := NMap.set t.tables.joinPending (item * 32 + a.op) (sh, rows) } }
        | none => t
      | none => t
    else t
  | _, _ => t

/-- JOIN_BUILD: rows wait for the item's commit when the table lies in the Deck; a table in a chain buffer serves its
own item at once (R142 to R144, R146). -/
def execJoinBuild (item : Nat) (s : State) : Host.Outcome State Fault Refusal :=
  finish (keepRows s (runOp s item 0x11 (fun _ _ it i => joinBuildRes it i)) item)

/-- The Deck offset of the table that operator `k` of an item builds. -/
def builtTable (s : State) (it : Item) (k : Nat) : Option Nat :=
  (itemCtx s it).bind fun x => (tensorView x (opRef (chainOp (itemImage s it) k) 3) it.index).map (fun v => gLocal v.base)

/-- At a clean commit the rows of an item enter their tables, once for each ordinal (R144). -/
def commitJoins (s : State) (id : Nat) : State :=
  match getItem s id with
  | none => s
  | some it =>
    (List.range 32).foldl (fun s k =>
      match NMap.find? s.tables.joinPending (id * 32 + k) with
      | none => s
      | some (sh, rows) =>
        let s := { s with tables := { s.tables with joinPending := NMap.erase s.tables.joinPending (id * 32 + k) } }
        match (if sh.units = 0 then none else builtTable s it k) with
        | none => s
        | some a =>
          let head := deckRead s a 256
          let old := if leAt head 16 8 = 0 then [] else
            joinRows (head ++ deckRead s (a + 256) (16 * leAt head 4 1 * leAt head 16 8))
          let (all, dup) := insertRows sh.first old rows
          let s1 := deckWrite s a (tableBytes (leAt head 0 4)
            { sh with valid := sh.valid ||| (if joinKnown head then leAt head 25 1 else 0) } all)
          modItem s1 id (fun it => { it with counters := addCounters it.counters [(44, dup)] })) s

/-- Write the state of every table that a descriptor builds; BUILDING starts a fresh header (R143). -/
def markTables (s : State) (c k n state : Nat) : State :=
  match NMap.find? s.ctxs c with
  | none => s
  | some x =>
    match NMap.find? x.chains k with
    | none => s
    | some ch =>
      (List.range (chainOps ch.image)).foldl (fun s j =>
        let o := chainOp ch.image j
        if opCode o = 0x11 ∧ refKind (opRef o 3) = 1 ∧ opCount o ≠ 0 ∧ leAt o 32 4 ≠ 0 then
          (List.range (if refPerItem (opRef o 3) then n else 1)).foldl (fun s i =>
            match tensorView x (opRef o 3) i with
            | some v => deckWrite s (gLocal v.base)
                (if state = 1 then joinHeader 1 (plannedShape o) 0 false else natLE state 4)
            | none => s) s
        else s) s

/-! ### JOIN_PROBE -/

/-- Buckets visited for a key: its bucket and the overflow buckets that its entries fill (R126, R143). -/
def bucketsRead (sh : JoinShape) (rows : List JoinRow) (key : List Byte) : Nat :=
  let b := hashNat key sh.seed % 2 ^ sh.bucketLog2
  let n := (rows.filter (fun r => hashNat r.key sh.seed % 2 ^ sh.bucketLog2 == b)).length
  max 1 (ceilDiv n (248 / (16 * sh.units)))

/-- The output rows of one probe row: the build rows it matches, or a row without a match (R146). -/
def probeRow (join cap : Nat) (matches_ : List JoinRow) : List (Option JoinRow) × Nat :=
  if join = 0 then ((matches_.take cap).map some, matches_.length - cap)
  else if join = 1 then (if matches_.isEmpty then [none] else (matches_.take cap).map some, matches_.length - cap)
  else if join = 2 then (if matches_.isEmpty then [] else [none], 0)
  else (if matches_.isEmpty then [none] else [], 0)

/-- JOIN_PROBE: the probe columns copied, the payload, and the probe position (R145, R146). -/
def probeOp (i : OpIn) : OpRes :=
  let o := i.op
  let join := leAt o 25 1
  let cap := leAt o 28 2
  let bs := i.src1.bytes
  let known := joinKnown bs
  let sh := if known then joinShape bs
    else { joinShape bs with fmts := (List.range (min 8 (leAt bs 24 1))).map (fun k => 1 + Config.unstated 0x131 [k] % 19) }
  let withPay := decide (join < 2)
  let payValid := fun (k : Nat) => join == 1 || bitAt sh.valid k
  let per := if withPay then cap else 1
  if cap = 0 then noOp
  else if i.src1.gone || leAt bs 0 4 ≠ 2 then relBad
  else
    let rows := if known then joinRows bs else []
    match setIn i.src0 i.count with
    | .bad => relBad
    | .gone =>
      let probe := (List.range (leAt o 26 1)).map (fun k =>
        { kind := (untold k).1, fmt := (untold k).2, valid := false, cells := [] : Column })
      let pay := if withPay then ((List.range sh.fmts.length).zip sh.fmts).map (fun q =>
        { kind := 1, fmt := q.2, valid := payValid q.1, cells := [] : Column }) else []
      { out := ColSet.bytes { rows := 0, cols := probe ++ pay ++ [{ kind := 1, fmt := fInt32, valid := false, cells := [] }] }
        cost := ceilDiv i.count 4 }
    | .got c check =>
      let probe := (List.range (leAt o 26 1)).mapM (fun k => c.cols[leAt o (32 + k) 1]?)
      match c.cols[leAt o 24 1]?, probe with
      | some key, some ps =>
        let n := i.count * per
        let worst := ps.map (fun x => partSizes x.kind x.fmt n x.valid (if x.kind = 1 then n else x.nVals * per)) ++
          (if withPay then ((List.range sh.fmts.length).zip sh.fmts).map (fun q => partSizes 1 q.2 n (payValid q.1) n) else []) ++
          [partSizes 1 fInt32 n false n]
        if !(keyColumn key) || (known && (key.kind == 2) != sh.bytesKey) || !(fits i worst) then relBad
        else
          let skip := i.rowSkip i.src0
          let live := (List.range i.count).filter (fun r => !(skip r))
          let keyOf := fun (r : Nat) => (key.cells[r]?).bind (cellKey key)
          let short := fun (r : Nat) => match keyOf r with | some k => decide (k.length ≤ 32) | none => false
          let found := live.map (fun r =>
            let ms := match keyOf r with
              | some k => if k.length ≤ 32 then rows.filter (fun x => x.key == k) else []
              | none => []
            (r, probeRow join cap ms))
          let outs := found.flatMap (fun q => q.2.1.map (fun m => (q.1, m)))
          let capped := found.foldl (fun a q => a + q.2.2) 0
          let long := (live.filter (fun r => (keyOf r).isSome && !(short r))).length
          let probeCols := ps.map (fun x => { x with cells := outs.map (fun q => x.cells.getD q.1 (nullCell x.kind)) })
          let payCols := if withPay then ((List.range sh.fmts.length).zip sh.fmts).map (fun f =>
            { kind := 1, fmt := f.2, valid := payValid f.1
              cells := outs.map (fun q => match q.2.bind (fun m => (m.payload.getD f.1 none)) with
                | some v => { present := true, vals := [v] }
                | none => nullCell 1) : Column }) else []
          let posCol : Column := { kind := 1, fmt := fInt32, valid := false,
                                   cells := outs.map (fun q => { present := true, vals := [q.1] }) }
          let cols := probeCols ++ payCols ++ [posCol]
          let buckets := if i.src1.kind = 1 then
            (live.filter short).foldl (fun a r => a + bucketsRead sh rows ((keyOf r).getD [])) 0 else 0
          let used := ((leAt o 24 1) :: (List.range (leAt o 26 1)).map (fun k => leAt o (32 + k) 1)).eraseDups
          let units := used.foldl (fun a k => match c.cols[k]? with | some x => a + colUnits i.src0 x | none => a) 0
          { out := ColSet.bytes { rows := outs.length, cols := cols }
            cost := check + units + buckets + ceilDiv i.count 4 + ceilDiv (dataBytes cols) 256 + writeUnits i cols
            counters := [(36, capped), (50, long)]
            events := (if long = 0 then [] else [(evRel, 1)]) ++ (if capped = 0 then [] else [(evRel, 2)]) }
      | _, _ => relBad

def execJoinProbe (item : Nat) (s : State) : Host.Outcome State Fault Refusal :=
  finish (runOp s item 0x12 (fun _ _ _ i => probeOp i))

end Sys2Proof.Machine
end

