-- ==== Sys2Proof/Machine/Finish.lean ====
section
/-!
DEFINITION. The end of an item and of its descriptor: clean commits, release in sequence order, the status, the CLOSE
records of the last SCATTER_MERGE, the result trailer with its digest, and the completion entry (04 R55, R60, R65;
05 R90, R96; 10 R210; 13 R291 to R295; 15 R332 to R334).
-/

namespace Sys2Proof.Machine

open Sys2Proof

/-! ### Commit -/

/-- The skip runs that an item's output carries (05 R90). -/
def outputRuns (s : State) (it : Item) : List (Nat × Nat) :=
  if (outOp (itemImage s it)).isSome then it.outRuns else unionRuns (itemPositions s it) it.outRuns it.runs

/-- A clean run commits: its rows enter their join tables, its output fills the cache, and its dependents go on.  An item
whose output would carry more than 64 runs commits as a skip (R389 of 18, 05 R90, 07 R144, 06 R114). -/
def commitRun (s : State) (id : Nat) : State :=
  match getItem s id with
  | none => s
  | some it =>
    if 64 < (outputRuns s it).length then skipItem s id .own
    else
      let s1 := commitJoins s id
      commitItem (it.cacheFill.foldl (fun s bs => cacheInsert s it.ctx bs) s1) id

/-- A run has ended and every write of it is acknowledged: its chain is done, or a page fault halted it (04 R53, R54;
05 R95; 12 R262). -/
def runEnded (s : State) (id : Nat) (it : Item) : Bool :=
  it.st == .running && it.waiting == 0 && (chainDone s it || it.halted.isSome) && !it.overBudget && it.recordOver.isNone &&
  it.fault.isEmpty && !((pierOf s id).elim false (fun p => (getPier s p).flagged)) && (slotsOf s id).isEmpty

/-- ITEM_COMMIT: a clean run's results are in place (04 R54, R55; 18 R389). -/
def execItemCommit (item : Nat) (s : State) : Host.Outcome State Fault Refusal :=
  match getItem s item with
  | none => ok s
  | some it => if runEnded s item it && running s then finish (commitRun s item) else ok s

/-- APPLY_SLOT_COPY: a clean item's rows go to their groups, their keys are marked, and the item commits when the last is
in place (10 R215, R217). -/
def execApplySlotCopy (item : Nat) (s : State) : Host.Outcome State Fault Refusal :=
  match getItem s item with
  | none => ok s
  | some it =>
    match slotsOf s item with
    | [] => ok s
    | z0 :: zs =>
      let flagged := (pierOf s item).elim false (fun p => (getPier s p).flagged)
      if it.st != .running || !(chainDone s it || it.halted.isSome) || flagged || !(running s) || it.waiting != 0 && !it.handed then ok s
      else
        let done := ((getQueue s z0.ctx z0.queue).bind (fun m => NMap.find? m.finals z0.step)).elim [] (·.skipped)
        let skips := (((z0 :: zs).filter (fun z => z.kind == 2)).map (·.key)).filter (fun k => !(done.contains k))
        if !skips.isEmpty then
          finish (modItem (writeSkipBlock s z0 skips) item (fun it => { it with waitSince := some (now s) }))
        else if (z0 :: zs).any (fun z => z.kind == 2) && !(skipsAcked s z0) then ok s
        else
          let s1 := freePier (modItem s item (fun it => { it with handed := true })) item
          let s2 := ((z0 :: zs).filter (fun z => z.kind == 0)).foldl (fun s z => copySlot s item it z) s1
          let s3 := markSlots (landSlots s2 item) item
          let s4 := advanceApplied s3 z0.ctx z0.queue
          if (slotsOf s4 item).all (fun z => z.kind == 1 || z.kind == 2 || z.kind == 5) &&
             (getItem s4 item).elim false (fun it => it.waiting == 0) then
            finish (commitRun (setSlots (countSlots s4 item) item []) item)
          else finish s4

/-! ### Status and trailer -/

/-- The status of a descriptor whose items are all released (04 R65, 05 R96). -/
def finalStatus (d : Desc) : Nat :=
  match d.worst with
  | w :: ws => ws.foldl (fun a c => if statusRank c < statusRank a then c else a) w
  | [] => if d.quarantined = 0 then 0 else if d.yielded then 1 else 0x20

/-- A counter of the trailer, stopped at its width, with whether it stopped (13 R294). -/
def trailerField (c : Counters) (off w : Nat) : List Byte × Bool :=
  let v := NMap.getD c off 0
  (natLE (min v (2 ^ (8 * w) - 1)) w, decide (2 ^ (8 * w) - 1 ≤ v))

/-- The operand gives one record per item (13 R292). -/
def recordPerItem (img : List Byte) (key : Nat) : Bool :=
  let r := opRef (chainOp img (key / 4)) (key % 4)
  refPerItem r || refKind r == 3

/-- The input records in operator, operand and item order (13 R292). -/
def inputRecords (img : List Byte) (inputs : NMap (List Byte)) : List Byte :=
  (List.range (4 * chainOps img)).flatMap (fun key =>
    let rs := inputs.filter (fun p => p.1 / 2 ^ 18 == key)
    (if recordPerItem img key then rs else rs.take 1).flatMap (·.2))

def ascii (t : String) : List Byte := t.toList.map (fun c => BitVec.ofNat 8 c.toNat)

/-- The result digest (13 R291): `d.digest` holds the digests of the configuration images at the check. -/
def resultDigest (img : List Byte) (d : Desc) : List Byte :=
  let p := sha512 (ascii "ILPD" ++ d.digest ++ blake3 img)
  let t := blake3 (ascii "ILTV" ++ d.roots)
  let i := sha512 (ascii "ILIN" ++ inputRecords img d.inputs)
  sha512 (ascii "ILRD" ++ p ++ t ++ i)

/-- Bytes that the result digest of a descriptor hashes (13 R297). -/
def digestHashed (img : List Byte) (d : Desc) : Nat :=
  100 + img.length + (4 + d.roots.length) + (4 + (inputRecords img d.inputs).length) + 164

/-- The 128 bytes of the result trailer (13 R293, R294). -/
def trailerBytes (img : List Byte) (d : Desc) (status : Nat) : List Byte :=
  let want := bitAt (leAt d.raw 1 1) 0 && decide (status ≤ 1)
  let f32 := ((List.range 11).map (fun k => trailerField d.counters (4 + 4 * k) 4))
  let f16 := ((List.range 8).map (fun k => trailerField d.counters (48 + 2 * k) 2))
  let sat := (f32 ++ f16).any (·.2)
  natLE ((if want then 1 else 0) + (if sat then 2 else 0)) 2 ++ natLE 0 2 ++ (f32 ++ f16).flatMap (·.1) ++
  (if want then resultDigest img d else zeros 64)

def chainImage (s : State) (c k : Nat) : List Byte :=
  match (NMap.find? s.ctxs c).bind (fun x => NMap.find? x.chains k) with
  | some ch => ch.image
  | none => []

/-- Write the trailer of a descriptor, whose status is final: everything that could change it has been answered (13 R293,
R295). -/
def writeTrailer (s : State) (c r i : Nat) (d : Desc) : State :=
  let img := chainImage s c d.chain
  let bs := trailerBytes img d (d.status.getD 0)
  let a := leAt d.raw 24 8
  let s := if bitAt (leAt bs 0 1) 1 then event s evCmp 2 else s
  let s := if bitAt (leAt bs 0 1) 0 then bump s ctDigest (digestHashed img d) else s
  let s := modDesc s c r i (fun d => { d with trailerDue := false, trailerDone := isDeck s a })
  if isDeck s a then deckWrite s (gLocal a) bs else issueWrites s (.trailer c r i) c a bs

/-! ### CLOSE records (10 R210) -/

/-- The SCATTER_MERGE operators of a chain that send CLOSE records. -/
def closeOps (img : List Byte) : List (List Byte) :=
  ((List.range (chainOps img)).map (chainOp img)).filter (fun o => opCode o == 0x22 && leAt o 26 1 == 1 && opCount o != 0)

/-- The tensor of an operator's shard map. -/
def shardView (x : Ctx) (o : List Byte) : Option TView :=
  if leAt o 34 2 = 1 then none else tensorView x (opRef o 2) 0

/-- Send one CLOSE for every table to every device of the shard map. -/
def sendCloses (s : State) (c r i : Nat) (x : Ctx) (d : Desc) (o : List Byte) : State :=
  let me := deviceId s
  let owners := match shardView x o with
    | none => [me]
    | some v =>
      let bs := viewBytes s d.mem v
      ((List.range (leAt o 34 2)).map (fun k => leAt bs (2 * k) 2 % 4096)).eraseDups
  let step := leAt o 40 4
  (List.range (leAt o 47 2)).foldl (fun s t => owners.foldl (fun s dev =>
    let q := leAt o 32 2 + t
    let n := (NMap.getD x.sentData (sentKey step q dev) []).length
    if dev = me then mergeArrive s c q
      { src := me, step := step, fmt := 0, close := true, keyed := false, key := n, seq := 0, payload := [] }
    else
      let h : SpanHdr := {
        opcode := 4, op := 32, channel := 7, hops := 0, resend := false, src := 0, dst := dev, context := c, queue := q
        seq := 0, length := 0, step := step, address := n }
      issue (modDesc s c r i (fun d => { d with waiting := d.waiting + 1 }))
        { accWrite s (.skipSignal c r i) c (gAddr dev 0) [] with tmpl := some (h, false) }) s) s

/-- Start the CLOSE records of a descriptor: at once when its shard maps lie in the Deck, else after they are read. -/
def startCloses (s : State) (c r i : Nat) : State :=
  match NMap.find? s.ctxs c, getDesc s c r i with
  | some x, some d =>
    let os := closeOps (chainImage s c d.chain)
    let miss := os.flatMap (fun o => match shardView x o with
      | some v => viewMissing s [] v
      | none => [])
    if miss.isEmpty then os.foldl (fun s o => sendCloses s c r i x d o) s
    else miss.foldl (fun s g => issueReads (modDesc s c r i (fun d => { d with
      closeDue := true, waiting := d.waiting + (pieces g.1 g.2).length })) (.shards c r i) c g.1 g.2) s
  | _, _ => s

/-- CLOSE records whose shard maps have been read. -/
def lateCloses (s : State) (c r i : Nat) (d : Desc) : State :=
  match NMap.find? s.ctxs c with
  | none => s
  | some x => (closeOps (chainImage s c d.chain)).foldl (fun s o => sendCloses s c r i x d o)
      (modDesc s c r i (fun d => { d with closeDue := false }))

/-! ### Release -/

/-- The last item of a descriptor has been released (04 R60, R65; 10 R210; 13 R295). -/
def descReleased (s : State) (c r i : Nat) : State :=
  match getDesc s c r i with
  | none => s
  | some d =>
    let st := finalStatus d
    let s1 := modDesc s c r i (fun d => { d with
      status := some (if d.status.isSome then d.status.getD 0 else st), running := false
      detail := if st = 0x22 then d.detail else if st = 0x10 || st = 0x11 then 0xFFFFFFFF else 0
      trailerDue := bitAt (leAt d.raw 1 1) 2 })
    startCloses s1 c r i

/-- RELEASE: the flow's next item in sequence order leaves the item table (04 R60, R62; 15 R335). -/
def execRelease (flow : Nat) (s : State) : Host.Outcome State Fault Refusal :=
  match NMap.find? s.sched.flows flow with
  | none => ok s
  | some f =>
    match List.find? (fun p => p.2.flow == some flow && p.2.seq == f.release) s.sched.items with
    | none => ok s
    | some (id, it) =>
      if it.st != .committed || s.heal.outOfService || s.power.off then ok s
      else
        let f1 := { f with
          release := (f.release + 1) % 2 ^ 32, ahead := f.ahead - 1
          skips := if it.skip.isSome then (f.skips + 1) % 2 ^ 32 else f.skips }
        let s1 := { s with sched := { s.sched with
          flows := NMap.set s.sched.flows flow f1, items := NMap.erase s.sched.items id } }
        let s2 := modRing s1 it.ctx it.ring (fun y => { y with
          itemsReleased := (y.itemsReleased + 1) % 2 ^ 64, statusDirty := true })
        let s3 := modDesc s2 it.ctx it.ring it.idx (fun d => { d with itemsDone := d.itemsDone + 1 })
        match getDesc s3 it.ctx it.ring it.idx with
        | none => finish s3
        | some d => if d.itemsDone = d.n then finish (descReleased s3 it.ctx it.ring it.idx) else finish s3

/-! ### Completion -/

/-- COMPLETION_WRITE: the entry is written after the one before it was acknowledged; first come the trailer and the ROWS_LOST
entries that the descriptor owes (13 R295, 15 R334, 18 R399). -/
def execCompletionWrite (ctx ring : Nat) (s : State) : Host.Outcome State Fault Refusal :=
  match getRing s ctx ring with
  | none => ok s
  | some y =>
    match NMap.find? y.descs y.written with
    | none => ok s
    | some d =>
      if !(entryDue d) || s.heal.outOfService || s.power.off then ok s
      else if d.closeDue then finish (lateCloses s ctx ring y.written d)
      else if d.trailerDue then finish (writeTrailer s ctx ring y.written d)
      else
        match d.lostGroups.drop d.lostSent with
        | (v, g, rows) :: _ =>
          if s.heal.log.log2 != 0 && !(healRoom s) then ok s
          else
            let ver := NMap.find? s.tables.versions v
            let s1 := healLog s { kind := 9, context := ctx, ring := ring, index := y.written,
                                  table := (ver.map (·.tableId)).getD 0, version := (ver.map (·.version)).getD 0,
                                  group := g, row := g * 4096, rows := rows }
            finish (modDesc s1 ctx ring y.written (fun d => { d with lostSent := d.lostSent + 1 }))
        | [] =>
          let s0 := if d.created then markTables s ctx d.chain d.n 2 else s
          let s1 := modDesc s0 ctx ring y.written (fun d => { d with entrySent := true })
          let s2 := trace s1 ctx srcTollgate 9 y.written (d.status.getD 0)
          finish (issueWrites s2 (.completion ctx ring y.written) ctx
            (y.cqBase + (y.written % 2 ^ y.cqLog) * 32) (completionBytes s y y.written d))

end Sys2Proof.Machine
end

