-- ==== Sys2Proof/Machine/Compress.lean ====
section
/-!
DEFINITION. COMPRESS, DECOMPRESS and DIGEST (13 R276 to R288).
-/

namespace Sys2Proof.Machine

open Sys2Proof

/-! ### Rules at install -/

def compressRule : OpRule :=
  { skip := [0], kinds := [kSrc, kNone, kNone, kDst], fmtIn := [0], fmtOut := [0], lengths := [], named := [(24, 25), (40, 55)]
    check := fun o => firstBad [(20, decide (67108864 < opCount o)), (24, decide (2 < leAt o 24 1)),
      (25, decide (9 < leAt o 25 1) || (leAt o 25 1 = 0 && leAt o 24 1 != 0))] }

def decompressRule : OpRule :=
  { skip := [0], kinds := [kSrc, kNone, kNone, kDst], fmtIn := [0], fmtOut := [0], lengths := [(28, 4), (32, 2)]
    named := [(24, 24), (26, 26), (28, 33), (40, 55)]
    check := fun o => firstBad [(20, decide (67108864 < opCount o)), (24, decide (2 < leAt o 24 1)),
      (26, decide (4 ≤ leAt o 26 1)), (28, decide (67108864 < leAt o 28 4))] }

def digestRule : OpRule :=
  { skip := [0], kinds := [kSrc, kNone, kNone, kDst], fmtIn := [0], fmtOut := [0], lengths := [], named := [(24, 24)]
    check := fun o => firstBad [(24, decide (2 < leAt o 24 1))] }

/-! ### What they read -/

def operandUnits (p : Operand) (n : Nat) : Nat := if !p.gone && (p.kind = 1 || p.kind = 3) then unitsOf n else 0

/-- The bytes an operator counts, without those that skip runs cover (05 R91, R463). -/
def keptBytes (i : OpIn) : List Byte :=
  let bs := i.src0.bytes.take i.count
  if i.runs.isEmpty then bs else keepUnits i.keep bs

/-- The operand is a whole-item skip marker: a predecessor's, or one that an operator before carried on with its output
(05 R90, R91). -/
def OpIn.marked (i : OpIn) (p : Operand) : Bool := p.gone || (i.c0 != 0 && p.runs == [(0, i.c0)])

/-- A whole-item skip marker: nothing is written and the marker goes on (R282). -/
def markOn (i : OpIn) (cost : Nat) : OpRes := { cost := cost, runs := i.runs }

/-! ### COMPRESS -/

/-- What COMPRESS writes (R281). -/
def compressBytes (o : List Byte) (bs : List Byte) : List Byte :=
  let level := leAt o 25 1
  if leAt o 24 1 = 0 then
    frameOf (if level = 0 then 0 else if Config.journalZstd then 2 else 1) level (leAt o 40 8) (leAt o 48 8) bs
  else
    let z := compressStream (leAt o 24 1) level bs
    natLE z.length 4 ++ natLE bs.length 4 ++ natLE (crc32c bs).toNat 4 ++ zeros 4 ++ z

/-- The output bound of COMPRESS (R281). -/
def compressBound (c : Nat) : Nat := c + 16 * ceilDiv c 4096 + 256

def compressOp (i : OpIn) : OpRes :=
  let cost := ceilDiv i.count (levelRate (leAt i.op 25 1))
  if i.marked i.src0 then markOn i cost
  else if i.src0.bytes.length < i.count then { bad := true }
  else
    let bs := keptBytes i
    let out := compressBytes i.op bs
    { out := out, cost := cost + operandUnits i.src0 i.count + i.outUnits out.length
      bumps := [(ctBytesIn, bs.length), (ctBytesOut, out.length)] }

def execCompress (item : Nat) (s : State) : Host.Outcome State Fault Refusal :=
  finish (runOp s item 0x38 (fun _ _ _ i => compressOp i))

/-! ### DECOMPRESS -/

/-- A declared size keeps the two limits of R282. -/
def declaredOk (n limit packed ratio : Nat) : Bool := decide (n ≤ limit) && decide (n ≤ packed * ratio)

/-- The output of a stream with a declared size, or of one that declares none (R282). -/
def streamOut (fmt : Nat) (z : List Byte) (declared : Option Nat) (limit ratio : Nat) : Option (List Byte) :=
  let inner := if fmt = 2 then (zHeader z).bind (·.content) else none
  let sizes := declared.toList ++ inner.toList
  if !(sizes.all (fun n => declaredOk n limit z.length ratio)) then none
  else
    match decodeStream fmt (sizes.foldl min (min limit (z.length * ratio))) z with
    | .ok x => if sizes.all (fun n => n == x.length) then some x else none
    | .error _ => none

/-- The five checks of R282 and what passes them. -/
def decompressed (o : List Byte) (ratio : Nat) (bs : List Byte) : Option (List Byte) :=
  let fmt := leAt o 24 1
  let limit := leAt o 28 4
  let flags := leAt o 26 1
  if fmt = 0 then
    if !(frameHeaderOk bs) || (bitAt flags 1 && (leAt bs 24 8 != leAt o 40 8 || leAt bs 32 8 != leAt o 48 8)) ||
      !(declaredOk (leAt bs 8 4) limit (leAt bs 12 4) ratio) then none
    else frameBody bs
  else if bitAt flags 0 then streamOut fmt bs none limit ratio
  else
    let n := leAt bs 0 4
    if bs.length < n + 16 || leAt bs 12 4 != 0 then none
    else match streamOut fmt ((bs.drop 16).take n) (some (leAt bs 4 4)) limit ratio with
      | some x => if (crc32c x).toNat = leAt bs 8 4 then some x else none
      | none => none

def decompressOp (x : Ctx) (i : OpIn) : OpRes :=
  if leAt i.op 28 4 = 0 then noOp
  else if i.marked i.src0 then markOn i (ceilDiv i.count 512)
  else if i.src0.bytes.length < i.count then { bad := true }
  else
    let r := leAt i.op 32 2
    let bs := keptBytes i
    match decompressed i.op (if r = 0 then x.ratio else r) bs with
    | none => { bad := true, badBump := ctCmpBad, badEvent := (evCmp, 0) }
    | some out =>
      { out := natLE out.length 8 ++ out
        cost := ceilDiv (max i.count out.length) 512 + operandUnits i.src0 i.count + i.outUnits (8 + out.length)
        bumps := [(ctBytesIn, bs.length), (ctBytesOut, out.length)] }

def execDecompress (item : Nat) (s : State) : Host.Outcome State Fault Refusal :=
  finish (runOp s item 0x39 (fun _ x _ i => decompressOp x i))

/-! ### DIGEST -/

def digestBytes (alg : Nat) (bs : List Byte) : List Byte :=
  if alg = 0 then blake3 bs else if alg = 1 then sha512 bs else natLE (crc32c bs).toNat 4

def digestLen (alg : Nat) : Nat := if alg = 0 then 32 else if alg = 1 then 64 else 4

def digestOp (i : OpIn) : OpRes :=
  let alg := leAt i.op 24 1
  if !i.src0.gone && decide (i.src0.bytes.length < i.count) then { bad := true }
  else
    let bs := if i.src0.gone then [] else keptBytes i
    let out := digestBytes alg bs
    { out := out
      cost := ceilDiv i.count (if alg = 0 then 128 else if alg = 1 then 32 else 256) + operandUnits i.src0 i.count +
        i.outUnits out.length
      bumps := [(ctDigest, bs.length)] }

def execDigest (item : Nat) (s : State) : Host.Outcome State Fault Refusal :=
  finish (runOp s item 0x3A (fun _ _ _ i => digestOp i))

end Sys2Proof.Machine
end

