-- ==== Sys2Proof/Machine/Numeric.lean ====
section
/-!
DEFINITION. CONVERT and QUANT (08 R166 to R171).
-/

namespace Sys2Proof.Machine

open Sys2Proof

def allFmts : List Nat := (List.range 19).map (· + 1)
def plainFloats : List Nat := [0x0E, 0x0F, 0x10]

/-! ### What install checks (R166, R167) -/

/-- SR fields are zero unless the rounding is SR. -/
def srBad (o : List Byte) (off : Nat) : Bool := leAt o 25 1 != 2 && leAt o off 8 != 0

def convertCheck (o : List Byte) : Option Nat :=
  let r := leAt o 24 1
  let inf := [0x0A, 0x0E, 0x0F, 0x10].contains (opFmt o)
  firstBad [(24, decide (2 < r)), (25, decide (1 < leAt o 25 1) || (leAt o 25 1 == 1 && !inf)),
    (32, r != 2 && leAt o 32 8 != 0), (40, r != 2 && leAt o 40 8 != 0)]

def convertRule : OpRule :=
  { skip := [0, 1, 2], kinds := [kSrc, kNone, kNone, kDst], fmtIn := allFmts, fmtOut := allFmts, lengths := [],
    named := [(24, 25), (32, 47)], check := convertCheck }

def quantCheck (o : List Byte) : Option Nat :=
  let op := leAt o 24 1
  let n := leAt o 28 4
  let plain := fun (f : Nat) => plainFloats.contains f
  firstBad [(24, decide (1 < op)), (2, if op = 0 then !(plain (opIn o)) else !(fmtScaled (opIn o))),
    (3, if op = 0 then !(fmtScaled (opFmt o)) else !(plain (opFmt o))),
    (25, decide ((if op = 0 then 2 else 0) < leAt o 25 1)), (26, decide (2 < leAt o 26 1)), (27, decide (15 < leAt o 27 1)),
    (28, decide (65536 < n)), (20, n != 0 && opCount o % n != 0), (32, srBad o 32), (40, srBad o 40)]

def quantRule : OpRule :=
  { skip := [0, 1, 2], kinds := [kSrc, kNone, kNone, kDst], fmtIn := allFmts, fmtOut := allFmts, lengths := [(28, 4)],
    named := [(24, 47)], check := quantCheck }

/-! ### CONVERT -/

/-- A rounding mode of a descriptor for element `e` of an item (R156, R157). -/
def roundMode (r srId idx e ver : Nat) : RMode :=
  if r = 1 then .rz else if r = 2 then .sr (srWord srId idx e ver 0#64) else .rne

/-- Compute cost of a conversion (R170). -/
def convertCost (a b n : Nat) : Nat :=
  let w := max (if a = fTer then 8 else fmtBits a) (if b = fTer then 8 else fmtBits b)
  ceilDiv n (if w = 64 then 32 else if w = 32 then 64 else if w = 16 then 128 else 256)

/-- An operand of `n` packed bytes is long enough, or a whole-item marker. -/
def longEnough (p : Operand) (n : Nat) : Bool := p.gone || decide (n ≤ p.bytes.length)

def convertOp (i : OpIn) : OpRes :=
  let o := i.op
  let a := opIn o
  let b := opFmt o
  let n := i.count
  let inB := packedBytes a n
  if !(longEnough i.src0 inB) then plainBad
  else
    let codes := if i.src0.gone then List.replicate n 0 else unpackCodes a n i.src0.bytes
    let cs := ((List.range n).zip codes).map (fun q =>
      if i.skipped q.1 then (⟨0, false, false⟩ : Coded)
      else if a = b then ⟨q.2, false, false⟩
      else convertCode a b (roundMode (leAt o 24 1) (leAt o 32 8) i.index q.1 (leAt o 40 8)) (leAt o 25 1 == 1) q.2)
    let kept := if i.mode = 0 then keepUnits i.keep cs else cs
    let out := packCodes b (kept.map (·.code))
    { out := out
      cost := convertCost a b n + paramUnits0 i.src0 inB + i.outUnits out.length
      runs := i.runsOn
      counters := [(20, cs.countP (·.sat)), (24, cs.countP (·.nan))] }
where
  paramUnits0 (p : Operand) (n : Nat) : Nat := if p.kind = 1 || p.kind = 3 then unitsOf n else 0

/-! ### QUANT -/

/-- Bytes of one vector on the scaled side (R168). -/
def vectorStride (fmt k n : Nat) : Nat := fixedPart fmt n + 4 * k * blockCount n

/-- The vectors of an item that an operator keeps: COMPACT removes each that holds a skipped element (R169). -/
def keptVectors (i : OpIn) (len : Nat) : List Nat :=
  (List.range (i.count / len)).filter (fun v => i.mode != 0 || (List.range len).all (fun e => i.keep (v * len + e)))

def quantOp (i : OpIn) : OpRes :=
  let o := i.op
  let len := leAt o 28 4
  if len = 0 then noOp else
  let k := leAt o 26 1
  let enc := leAt o 24 1 == 0
  let sfmt := if enc then opFmt o else opIn o
  let pfmt := if enc then opIn o else opFmt o
  let stride := vectorStride sfmt k len
  let vs := keptVectors i len
  let inB := if enc then packedBytes pfmt i.count else (i.count / len) * stride
  let blocks := (i.count / len) * blockCount len
  if !(longEnough i.src0 inB) then plainBad
  else if enc then
    let codes := if i.src0.gone then List.replicate i.count 0 else unpackCodes pfmt i.count i.src0.bytes
    let xs := ((List.range i.count).zip codes).map (fun q => if i.skipped q.1 then 0#32 else widenCode pfmt q.2)
    let es := vs.map (fun v => encodeVector sfmt
      (fun p => roundMode (leAt o 25 1) (leAt o 32 8) i.index (v * len + p) (leAt o 40 8)) k (leAt o 27 1)
      (k * blockCount len) ((xs.drop (v * len)).take len))
    let out := es.flatMap (·.bytes)
    { out := out, cost := 2 * blocks + units i.src0 inB + i.outUnits out.length, runs := i.runsOn
      counters := [(20, (es.map (·.sat)).sum), (24, (es.map (·.nan)).sum), (54, (es.map (·.denied)).sum)] }
  else
    let ds := vs.map (fun v => if i.src0.gone then (List.replicate len 0#32, 0)
      else decodeVector sfmt len stride (slice i.src0.bytes (v * stride) stride))
    let cs := (vs.zip ds).flatMap (fun q => ((List.range len).zip q.2.1).map (fun e =>
      if i.skipped (q.1 * len + e.1) then (⟨0, false, false⟩ : Coded) else narrowF32 pfmt e.2))
    let bad := (ds.map (·.2)).sum
    let out := packCodes pfmt (cs.map (·.code))
    { out := out, cost := ceilDiv blocks 2 + units i.src0 inB + i.outUnits out.length, runs := i.runsOn
      counters := [(20, cs.countP (·.sat)), (24, cs.countP (·.nan)), (56, bad)]
      bumps := [(ctBadBlock, bad)], events := if bad = 0 then [] else [(evNum, 2)] }
where
  units (p : Operand) (n : Nat) : Nat := if p.kind = 1 || p.kind = 3 then unitsOf n else 0

def execConvert (item : Nat) (s : State) : Host.Outcome State Fault Refusal :=
  finish (runOp s item 0x28 (fun _ _ _ i => convertOp i))

def execQuant (item : Nat) (s : State) : Host.Outcome State Fault Refusal :=
  finish (runOp s item 0x29 (fun _ _ _ i => quantOp i))

end Sys2Proof.Machine
end

