-- ==== Sys2Proof/Machine/Copies.lean ====
section
/-!
DEFINITION. COPY_LAYOUT and STORE_FUSED (12 R253 to R261).
-/

namespace Sys2Proof.Machine

open Sys2Proof

/-! ### COPY_LAYOUT -/

/-- perm[0..rank - 1] of an operator or a stream descriptor that holds it at byte `off`. -/
def permAt (b : List Byte) (off rank : Nat) : List Nat := (List.range rank).map (fun d => leAt b (off + d) 1)

/-- The longest prefix of the six bytes that can be a permutation has no other rank: perm names 0 to rank - 1 once each,
and the bytes at or above the rank are zero (R253). -/
def permOk (b : List Byte) (off rank : Nat) : Bool :=
  (List.range rank).all (fun d => (permAt b off rank).contains d) && (List.range 6).all (fun d => d < rank || leAt b (off + d) 1 == 0)

def copyRule : OpRule :=
  { skip := [0, 2], kinds := [kSrc, kNone, kNone, kDst], fmtIn := allFmts, fmtOut := allFmts, lengths := [], named := [(24, 29)]
    check := fun o => firstBad [(3, opFmt o != opIn o),
      (24, !((List.range 6).any (fun r => permOk o 24 (r + 1))) || (fmtSubByte (opIn o) && leAt o 24 1 != 0))] }

/-- The identity permutation. -/
def isIdentity (perm : List Nat) : Bool := perm == List.range perm.length

/-- The view of a source operand: a tensor's, or a predecessor's out tensor's. -/
def sourceView (s : State) (x : Ctx) (it : Item) (r : Nat) : Option TView :=
  if refKind r = 1 then tensorView x r it.index
  else if refKind r = 3 then (predOf s it (refIndex r)).bind (fun p => predView x p.1 it.index)
  else none

/-- The products of the dimensions below each dimension. -/
def radix : Nat → List Nat → List Nat
  | _, [] => []
  | w, d :: ds => w :: radix (w * d) ds

/-- For each destination element in index order, the source element it takes (R254). -/
def copyOrder (srcDims dstDims perm : List Nat) : List Nat :=
  let w := radix 1 srcDims
  outerOffsets dstDims (perm.map (fun p => w.getD p 0))

/-- 256-byte units that a tensor's bytes touch (R257). -/
def touchedUnits (v : TView) : Nat :=
  ((v.segments.flatMap (fun g => if g.2 = 0 then [] else
    (List.range ((g.1 + g.2 - 1) / 256 - g.1 / 256 + 1)).map (· + g.1 / 256))).eraseDups).length

/-- The source and destination dimensions, each taken from the other for a chain buffer (R254). -/
def copyDims (n : Nat) (src dst : Option TView) (o : List Byte) : List Nat × List Nat × List Nat :=
  match src, dst with
  | some a, some b => (a.dims, b.dims, permAt o 24 a.dims.length)
  | some a, none =>
    let p := permAt o 24 a.dims.length
    (a.dims, p.map (fun k => a.dims.getD k 1), p)
  | none, some b =>
    let p := permAt o 24 b.dims.length
    ((List.range b.dims.length).map (fun e => ((p.zip b.dims).find? (fun q => q.1 == e)).elim 1 (·.2)), b.dims, p)
  | none, none => ([n], [n], [0])

/-- src0 and dst are one tensor and perm is the identity (R256). -/
def copyNoop (src dst : Option TView) (perm : List Nat) : Bool :=
  match src, dst with
  | some a, some b => a == b && isIdentity perm
  | _, _ => false

/-- The codes that dst receives, in index order; none where a skipped element is not written (R255). -/
def copiedCodes (i : OpIn) (order : List Nat) : List (Option Nat) :=
  let n := i.count
  let codes := if i.src0.gone then List.replicate n 0 else unpackCodes (opIn i.op) n i.src0.bytes
  order.map (fun k => if i.skipped k then (if i.mode = 2 then some 0 else none) else some (codes.getD k 0))

/-- The copy's result; `old` holds what dst held, for the elements that are not written. -/
def copyOp (src : Option TView) (old : List Nat) (i : OpIn) : OpRes :=
  let f := opIn i.op
  let n := i.count
  let (sd, dd, perm) := copyDims n src i.view i.op
  if copyNoop src i.view perm then noOp
  else if !i.src0.gone && decide (i.src0.bytes.length < packedBytes f n) then { bad := true }
  else
    let cs := copiedCodes i (copyOrder sd dd perm)
    let cost := ceilDiv (packedBytes f n) (if perm.getD 0 0 = 0 then 256 else 128) +
      (if i.src0.gone then 0 else src.elim 0 touchedUnits) + i.view.elim 0 touchedUnits
    if cs.all (·.isSome) then { out := packCodes f (cs.map (·.getD 0)), cost := cost }
    else if i.view.isSome && !(fmtSubByte f) then
      let eb := elemBytes f
      { writes := ((List.range cs.length).zip cs).flatMap (fun q => match q.2 with
          | some c => i.putAt (q.1 * eb) (natLE c eb)
          | none => [])
        cost := cost }
    else { out := packCodes f (((List.range cs.length).zip cs).map (fun q => q.2.getD (old.getD q.1 0))), cost := cost }

/-- Elements of a sub-byte dst outside the device share bytes with elements that are not written, so they are read
first. -/
def copyNeeds (s : State) (it : Item) (i : OpIn) : List (Nat × Nat) :=
  match i.view with
  | some v => if fmtSubByte v.fmt && i.mode == 0 && !i.runs.isEmpty then viewMissing s it.asked v else []
  | none => []

/-- What dst holds before the copy. -/
def oldCodes (s : State) (it : Item) (i : OpIn) : List Nat :=
  match i.view with
  | some v => if fmtSubByte v.fmt && i.mode == 0 && !i.runs.isEmpty then unpackCodes v.fmt v.count (viewBytes s it.landed v) else []
  | none => if refKind (opRef i.op 3) = 2 then
      unpackCodes (opIn i.op) i.count (NMap.getD it.bufs (refIndex (opRef i.op 3)) ⟨[], []⟩).bytes else []

/-- COPY_LAYOUT: dst[j] = src0[i] with i[perm[d]] = j[d] (R253 to R257). -/
def execCopyLayout (item : Nat) (s : State) : Host.Outcome State Fault Refusal :=
  match takeOp s item 0x30 with
  | .idle => ok s
  | .moved t => finish t
  | .go t x it i =>
    let miss := copyNeeds t it i
    if !miss.isEmpty then finish (askExtents t item miss)
    else finish (applyRes t item x it i.op (copyOp (sourceView t x it (opRef i.op 0)) (oldCodes t it i) i))

/-! ### STORE_FUSED -/

def storeRule : OpRule :=
  { skip := [0, 2], kinds := [[1, 2, 4], kNone, kNone, kDst], fmtIn := [fFp32]
    fmtOut := [fFp32, fBf16, fFp16, fFp8a, fFp8b, fInt8], lengths := [(24, 2)], named := [(24, 27), (32, 47)]
    check := fun o => firstBad [(24, decide (4096 < leAt o 24 2)), (26, decide (2 < leAt o 26 1)), (27, decide (1 < leAt o 27 1)),
      (32, leAt o 26 1 != 2 && leAt o 32 8 != 0), (40, leAt o 26 1 != 2 && leAt o 40 8 != 0)] }

/-- The rows that STORE_FUSED writes: the source row of each, none where zero bytes stand in its place (R259, 05 R91). -/
def storeRows (i : OpIn) : List (Option Nat) :=
  (List.range i.count).filterMap (fun r => if i.keep r then some (some r) else if i.mode = 2 then some none else none)

/-- The writes of consecutive values of `eb` bytes from element `k` of dst on: each goes to its element, and an untyped or
packed dst holds them densely (R259; log entry 178). -/
def storeAt (i : OpIn) (eb k : Nat) (codes : List Nat) (bs : List Byte) : List (Nat × List Byte) :=
  match i.view with
  | none => []
  | some v =>
    if v.fmt = 0 || fmtSubByte v.fmt || elemBytes v.fmt = eb then i.putAt (k * eb) bs
    else codes.zipIdx.map (fun q => ((v.place (k + q.2)).1, natLE q.1 eb))

/-- Pieces of dst as (first element, codes): rows under ROW, columns under COLUMN (R259). -/
def storePieces (order count len : Nat) (rows : List (List Coded)) : List (Nat × List Coded) :=
  if order = 0 then [(0, rows.flatten)]
  else (List.range len).map (fun j => (j * count, rows.map (fun r => r.getD j ⟨0, false, false⟩)))

def storeOp (i : OpIn) : OpRes :=
  let o := i.op
  let len := leAt o 24 2
  let n := i.count
  let f := opFmt o
  let eb := elemBytes f
  if len = 0 then noOp
  else if i.src0.bytes.length < 4 * n * len then { bad := true }
  else
    let rows := storeRows i
    let at_ := fun (r j : Nat) => if leAt o 27 1 = 0 then r * len + j else j * n + r
    let coded := ((List.range rows.length).zip rows).map (fun q => (List.range len).map (fun j => match q.2 with
      | none => (⟨0, false, false⟩ : Coded)
      | some r => encodeNum f (roundMode (leAt o 26 1) (leAt o 32 8) i.index (at_ q.1 j) (leAt o 40 8)) false
          (f32Num (BitVec.ofNat 32 (leAt i.src0.bytes (4 * (r * len + j)) 4)))))
    let ps := storePieces (leAt o 27 1) n len coded
    let all := coded.flatten
    let size := n * len * eb
    { out := if i.view.isSome then [] else
        ps.foldl (fun bs p => bs.take (p.1 * eb) ++ packCodes f (p.2.map (·.code)) ++ bs.drop (p.1 * eb + p.2.length * eb)) (zeros size)
      writes := ps.flatMap (fun p => storeAt i eb p.1 (p.2.map (·.code)) (packCodes f (p.2.map (·.code))))
      cost := ceilDiv (n * len) 128 + operandUnits i.src0 (4 * n * len) + i.outUnits (all.length * eb)
      counters := [(20, all.countP (·.sat)), (24, all.countP (·.nan))] }

/-- STORE_FUSED: FP32 rows converted and written in the consumer's layout (R258 to R261). -/
def execStoreFused (item : Nat) (s : State) : Host.Outcome State Fault Refusal :=
  finish (runOp s item 0x31 (fun _ _ _ i => storeOp i))

end Sys2Proof.Machine
end

