-- ==== Sys2Proof/Machine/Transfer.lean ====
section
/-!
DEFINITION. PUT, GET and ATOMIC (16 R356 to R358), and the cutting of a transfer into requests and blocks that operators
and halted transfers share (12 R262).
-/

namespace Sys2Proof.Machine

open Sys2Proof

/-! ### Cutting a transfer -/

/-- The parts of segments that bytes [off, off + n) of their stream meet: address, offset in the stream, length. -/
def cutSegments (pos : Nat) : List (Nat × Nat) → Nat → Nat → List (Nat × Nat × Nat)
  | [], _, _ => []
  | g :: gs, off, n =>
    let lo := max off pos
    let hi := min (off + n) (pos + g.2)
    (if lo < hi then [(g.1 + (lo - pos), lo, hi - lo)] else []) ++ cutSegments (pos + g.2) gs off n

/-- The bytes of a view from an offset on, as places outside or inside the device. -/
def TView.cut (v : TView) (off n : Nat) : List (Nat × Nat × Nat) := cutSegments 0 v.segments off n

/-- Blocks of 65,536 bytes of [off, off + n), in byte order (R262, R356). -/
def blocksIn (off n : Nat) : List (Nat × Nat) :=
  if n = 0 then [] else
    (List.range ((off + n - 1) / 65536 - off / 65536 + 1)).map (fun k =>
      let b := off / 65536 + k
      let lo := max off (b * 65536)
      (lo, min (off + n) ((b + 1) * 65536) - lo))

/-- The raw bytes of a view, of which the parts outside the device have landed. -/
def rawBytes (s : State) (landed : Mem) (v : TView) : List Byte :=
  v.segments.flatMap (fun g => if isDeck s g.1 then deckRead s (gLocal g.1) g.2 else memTake zeroByte landed g.1 g.2)

/-- The Span header of a request that an operator makes on a channel. -/
def opHeader (opcode ch a : Nat) : SpanHdr :=
  { opcode := opcode, op := 0, channel := ch, hops := 0, resend := false, src := 0, dst := 0, context := 0, queue := 0
    seq := 0, length := 0, step := 0, address := a }

def viaSpan (s : State) (a : Nat) (opcode ch : Nat) (spread : Bool) : Option (SpanHdr × Bool) :=
  if isOwn s a then none else some (opHeader opcode ch a, spread)

/-- Bytes of [lo, hi) that no skip run covers; under ZERO every byte is sent (R356). -/
def sentRuns (lo hi : Nat) (zero : Bool) (runs : List (Nat × Nat)) : List (Nat × Nat) :=
  if zero || runs.isEmpty then (if lo < hi then [(lo, hi - lo)] else [])
  else (runsOf (hi - lo) (fun k => !(inRuns runs (lo + k)))).map (fun r => (lo + r.1, r.2))

/-- Every write of bytes [lo, hi) of a transfer: address and bytes, in requests of at most 65,536 bytes. -/
def transferWrites (dst : TView) (zero : Bool) (runs : List (Nat × Nat)) (data : List Byte) (lo hi : Nat) :
    List (Nat × List Byte) :=
  (sentRuns lo hi zero runs).flatMap (fun r => (blocksIn r.1 r.2).flatMap (fun b => (dst.cut b.1 b.2).map (fun c =>
    (c.1, (data.drop c.2.1).take c.2.2))))

/-- A transfer's data with the skipped bytes as zeros. -/
def maskBytes (runs : List (Nat × Nat)) (bs : List Byte) : List Byte :=
  if runs.isEmpty then bs else ((List.range bs.length).zip bs).map (fun q => if inRuns runs q.1 then 0#8 else q.2)

/-- An item writes for PUT: the Deck at once, other places by requests on the operator's channel. -/
def putWrite (s : State) (id ctx ch : Nat) (spread : Bool) (w : Nat × List Byte) : State :=
  if w.2.isEmpty then s
  else if isDeck s w.1 then itemDeckWrite s id (gLocal w.1) w.2
  else
    let s1 := modItem s id (fun it => { it with waiting := it.waiting + 1 })
    issue s1 { accWrite s (.itemPut id) ctx w.1 w.2 with tmpl := viaSpan s w.1 1 ch spread }

/-- Reads that an item issues on a channel, each extent once per run. -/
def getReads (s : State) (id ctx ch : Nat) (spread : Bool) (miss : List (Nat × Nat)) : State :=
  miss.foldl (fun s g =>
    let s1 := modItem s id (fun it => { it with
      asked := it.asked ++ [g], waiting := it.waiting + (pieces g.1 g.2).length })
    (pieces g.1 g.2).foldl (fun s p =>
      issue s { accRead s (.item id) ctx p.1 p.2 with tmpl := viaSpan s p.1 2 ch spread }) s1) s

/-! ### PUT -/

def channelCheck (off : Nat) (o : List Byte) : List (Nat × Bool) := [(off, decide (16 ≤ leAt o off 1))]

def putRule : OpRule :=
  { skip := [0, 2], kinds := [kSrc, kNone, kNone, [1]], fmtIn := [0], fmtOut := [0], lengths := [], named := [(24, 24)]
    check := fun o => firstBad (channelCheck 24 o) }

def getRule : OpRule :=
  { skip := [0, 2], kinds := [[1], kNone, kNone, kDst], fmtIn := [0], fmtOut := [0], lengths := [], named := [(24, 24)]
    check := fun o => firstBad (channelCheck 24 o) }

def opChannel (o : List Byte) : Nat := leAt o 24 1 % 8
def opSpread (o : List Byte) : Bool := bitAt (leAt o 24 1) 3

/-- Byte runs that an item's skip runs cover (05 R463). -/
def byteRuns (i : OpIn) : List (Nat × Nat) :=
  if i.src0.gone then [(0, i.count)] else if i.runs.isEmpty then [] else runsOf i.count i.skipped

/-- Everything of a transfer that its halt would keep (12 R262). -/
structure Move where
  src : Option TView
  data : List Byte
  dst : TView
  count : Nat
  runs : List (Nat × Nat)
  zero : Bool
deriving DecidableEq, Repr

/-- What a PUT or GET moves. -/
def moveOf (s : State) (x : Ctx) (it : Item) (i : OpIn) : Option Move :=
  i.view.map (fun d =>
    let src := sourceView s x it (opRef i.op 0)
    let raw := if i.src0.gone then [] else match src with
      | some v => rawBytes s it.landed v
      | none => i.src0.bytes
    let runs := byteRuns i
    { src := src, data := if i.mode = 2 then maskBytes runs (slice raw 0 i.count) else slice raw 0 i.count, dst := d
      count := i.count, runs := runs, zero := i.mode == 2 })

/-- The charge of a PUT or GET (R358). -/
def moveCost (i : OpIn) : Nat := ceilDiv i.count 256 + operandUnits i.src0 i.count + i.outUnits i.count

/-- PUT: count bytes of src0 go to dst in requests of 65,536 bytes (R356, R358). -/
def execPut (item : Nat) (s : State) : Host.Outcome State Fault Refusal :=
  match takeOp s item 0x40 with
  | .idle => ok s
  | .moved t => finish t
  | .go t x it i =>
    let cost := moveCost i
    match moveOf t x it i with
    | none => finish (skipItem t item .own)
    | some m =>
      if !i.src0.gone && decide (i.src0.bytes.length < i.count) then finish (skipItem t item .own)
      else if it.budget < it.charge + cost then finish (modItem t item (fun it => { it with overBudget := true }))
      else
        let t1 := (transferWrites m.dst m.zero m.runs m.data 0 m.count).foldl
          (fun s w => putWrite s item it.ctx (opChannel i.op) (opSpread i.op) w) t
        finish (advance (modItem t1 item (fun it => { it with runs := [], outRuns := if opOut i.op then [] else it.outRuns }))
          item cost)

/-! ### GET -/

/-- The result of a GET whose bytes are here: writes to a tensor, or the bytes of a chain buffer (R356). -/
def getRes (s : State) (x : Ctx) (it : Item) (i : OpIn) : OpRes :=
  match moveOf s x it i with
  | some m => { writes := transferWrites m.dst m.zero m.runs m.data 0 m.count, cost := moveCost i }
  | none => { out := maskBytes (byteRuns i) (i.src0.bytes.take i.count), cost := moveCost i }

/-- GET: count bytes of src0, on any device, come to dst (R356, R358). -/
def execGet (item : Nat) (s : State) : Host.Outcome State Fault Refusal :=
  match getItem s item with
  | none => ok s
  | some it =>
    match itemCtx s it with
    | none => ok s
    | some x =>
      let o := itemOp s it
      let miss := match sourceView s x it (opRef o 0) with
        | some v => viewMissing s it.asked v
        | none => []
      if opEnabled s it 0x41 && opCount o != 0 && !miss.isEmpty then
        finish (getReads s item it.ctx (opChannel o) (opSpread o) miss)
      else match takeOp s item 0x41 with
        | .idle => ok s
        | .moved t => finish t
        | .go t x it i =>
          if i.src0.bytes.length < i.count then finish (skipItem t item .own)
          else finish (applyRes t item x it i.op (getRes t x it i))

/-! ### ATOMIC -/

def atomicRule : OpRule :=
  { skip := [0], kinds := [kSrc, kNone, kNone, [0, 1]], fmtIn := [0], fmtOut := [0, fUint64], lengths := [], named := [(24, 25)]
    check := fun o => firstBad [(3, (refKind (opRef o 3) = 0) != (opFmt o = 0)), (24, leAt o 24 1 = 0 || decide (3 < leAt o 24 1)),
      (25, decide (8 ≤ leAt o 25 1))] }

/-- One operation entry is an operand error (R357). -/
def atomicBad (s : State) (x : Ctx) (e : List Byte) : Bool :=
  let a := leAt e 0 8
  !(allZero (slice e 24 8)) || a % 8 != 0 || (isOwn s a && !(isDeck s a)) || (isDeck s a && !(rangeAllows x true a 8))

/-- The positions that are not skipped, with their entries. -/
def atomicEntries (i : OpIn) : List (Nat × List Byte) :=
  if i.src0.gone then [] else
    ((List.range i.count).filter i.keep).map (fun p => (p, slice i.src0.bytes (32 * p) 32))

/-- One entry is handed over: at once on this device, as a request elsewhere (R357, R348). -/
def handEntry (id ctx : Nat) (o : List Byte) (s : State) (p : Nat × List Byte) : State :=
  let a := leAt p.2 0 8
  let op := leAt o 24 1
  if isDeck s a then
    let old := cellValue s a
    modItem (cellOp s a op (leAt p.2 8 8) (leAt p.2 16 8)) id (fun it => { it with answers := NMap.set it.answers p.1 old })
  else
    let s1 := modItem s id (fun it => { it with waiting := it.waiting + 1 })
    issueAtomic s1 (.itemAtomic id p.1) ctx (leAt o 25 1 % 8) a op (leAt p.2 8 8) (leAt p.2 16 8)

def atomicCost (i : OpIn) : Nat :=
  2 * i.count + operandUnits i.src0 (32 * i.count) + i.outUnits (8 * (if i.src0.gone then 0 else
    ((List.range i.count).filter i.keep).length))

/-- ATOMIC: checked entries are handed over once in position order, the answers go to dst, and the chain goes on
(R357, R358; 18 R389). -/
def execAtomic (item : Nat) (s : State) : Host.Outcome State Fault Refusal :=
  match takeOp s item 0x42 with
  | .idle => ok s
  | .moved t => finish t
  | .go t x it i =>
    if it.handed then
      if it.waiting != 0 then ok s
      else
        let kept := if i.src0.gone then [] else (List.range i.count).filter i.keep
        finish (applyRes t item x it i.op
          { out := kept.flatMap (fun p => natLE (NMap.getD it.answers p 0) 8), cost := atomicCost i })
    else
      let es := atomicEntries i
      if !i.src0.gone && decide (i.src0.bytes.length < 32 * i.count) then finish (skipItem t item .own)
      else if es.any (fun e => atomicBad t x e.2) then finish (skipItem (bump t ctSpanDenied 1) item .own)
      else if it.budget < it.charge + atomicCost i then finish (modItem t item (fun it => { it with overBudget := true }))
      else if it.waiting != 0 || (pierOf t item).elim false (fun p => (getPier t p).flagged) then ok s
      else
        let t1 := modItem t item (fun it => { it with handed := true, answers := [] })
        finish (es.foldl (fun s e => handEntry item it.ctx i.op s e) t1)

end Sys2Proof.Machine
end

