-- ==== Sys2Proof/Machine/Streams.lean ====
section
/-!
DEFINITION. Streams, halts of streams and of operator transfers, and their resume, cancel and timeouts
(12 R262 to R274; 16 R353).
-/

namespace Sys2Proof.Machine

open Sys2Proof

/-! ### Copies: the checks that COPY_LAYOUT and streams share -/

/-- perm maps src's dimensions to dst's, for these ranks and dims (R254). -/
def permFits (src dst : TView) (perm : List Nat) : Bool :=
  dst.dims.length == src.dims.length && dst.dims == perm.map (fun p => src.dims.getD p 0)

/-- src and dst are the same place in the same layout and perm is the identity (R256). -/
def samePlace (src dst : TView) (perm : List Nat) : Bool := src == dst && isIdentity perm

/-- A plain linear copy (R256). -/
def linearCopy (src dst : TView) (perm : List Nat) : Bool := isIdentity perm && src.isDense && dst.isDense

/-! ### STREAM_ARM -/

/-- The first field of a stream descriptor with a reserved value (R266, R274). -/
def streamStray (b : List Byte) : Option Nat :=
  firstBad ([(3, leAt b 3 1 != 0), (7, leAt b 7 1 != 0), (14, decide (7 < leAt b 14 1) || leAt b 14 1 == 0),
    (15, decide (16 ≤ leAt b 15 1)), (16, leAt b 16 4 == 2 ^ 32 - 1), (20, decide (64 < leAt b 20 1))] ++
    [(21, leAt b 21 3 != 0), (24, decide (2 ^ 20 < leAt b 24 4) || ((leAt b 32 8 == 0) != (leAt b 24 4 == 0))),
    (28, leAt b 28 4 != 0), (48, !(allZero (slice b 48 16)))])

/-- A stream descriptor's checks against its tensors, as (status, offset) (R254, R256, R266, R274). -/
def streamBad (s : State) (x : Ctx) (b : List Byte) : Option (Nat × Nat) :=
  match streamStray b with
  | some k => some (0x10, k)
  | none =>
    match NMap.find? x.tensors (leAt b 0 3), NMap.find? x.tensors (leAt b 4 3), streamView x b 0, streamView x b 4 with
    | some st, some dt, some src, some dst =>
      let perm := permAt b 8 st.rank
      let f := src.fmt
      if st.dying then some (0x11, 0)
      else if dt.dying then some (0x11, 4)
      else if st.rank != dt.rank || st.fmt != dt.fmt then some (0x10, 4)
      else if !(permOk b 8 st.rank) || (fmtSubByte f && perm.getD 0 0 != 0) || !(permFits src dst perm) then some (0x10, 8)
      else if st.rank < leAt b 14 1 then some (0x10, 14)
      else if leAt b 16 4 % groupElems f != 0 then some (0x10, 16)
      else if !st.read then some (0x11, 0)
      else if !dt.write then some (0x11, 4)
      else if x.maxPrio < leAt b 15 1 then some (0x11, 15)
      else if 2 ^ 24 < packedBytes f (min (leAt b 16 4) (streamInner dst b)) then some (0x11, 16)
      else if leAt b 32 8 != 0 && (leAt b 32 8 % 8 != 0 || !(isDeck s (leAt b 32 8))) then some (0x11, 32)
      else if leAt b 40 8 != 0 && (leAt b 40 8 % 8 != 0 || !(rangeAllows x true (leAt b 40 8) 8)) then some (0x11, 40)
      else if intersects (st.interval false 1) (dt.interval false 1) && !(samePlace src dst perm) &&
          !(linearCopy src dst perm && decide (streamBlocks dst b ≤ 1)) then some (0x12, 0)
      else none
    | none, _, _, _ => some (0x11, 0)
    | _, _, _, _ => some (0x11, 4)

/-- STREAM_ARM: a stream starts in an idle slot (R265, R266, R271). -/
def execStreamArm (ctx ring : Nat) (s : State) : Host.Outcome State Fault Refusal :=
  finish (command s ctx ring 0x0A [(32, 32)] (argOf 64) (fun x raw arg =>
    let k := leAt raw 32 1
    if 64 ≤ k then completeHead s ctx ring raw 0x10 32
    else if NMap.has x.streams k then completeHead (event s evStream 3) ctx ring raw 0x13 0
    else match streamBad s x arg with
      | some (st, off) => completeHead s ctx ring raw st (0x80000000 + off)
      | none =>
        if (streamView x arg 4).elim true (fun v => streamBlocks v arg == 0) then completeHead s ctx ring raw 0 0
        else
          let idx := ((getRing s ctx ring).map (·.consumed)).getD 0
          let t : Stream := {
            desc := arg, ring := ring, idx := idx, armDone := false, delivered := 0, next := 0, blocks := [], cell := 0
            cellBusy := false, halt := none, finished := []
            credit := if leAt arg 32 8 = 0 then 0 else cellValue s (leAt arg 32 8), denied := false, ended := none }
          startCommand (setCtx s ctx { x with streams := NMap.set x.streams k t }) ctx ring raw))

/-! ### The bytes of a block -/

/-- The source element of destination element `k`; `w` holds the products of the source dimensions below each (R254). -/
def sourceElem (w : List Nat) : Nat → List Nat → List Nat → Nat
  | k, d :: ds, p :: ps => k % d * w.getD p 0 + sourceElem w (k / d) ds ps
  | _, _, _ => 0

/-- Destination elements that share whole bytes, for elements [lo, lo + n): the first of each group and how many. -/
def blockGroups (v : TView) (lo n : Nat) : List (Nat × Nat) :=
  let d := v.dims.getD 0 1
  let g := if fmtSubByte v.fmt then groupElems v.fmt else 1
  ((List.range n).map (· + lo)).filterMap (fun k =>
    let i := k % d
    if i % g = 0 || k = lo then some (k - i % g, min g (d - i / g * g)) else none)

/-- Neighbouring extents as one. -/
def joinExtents (gs : List (Nat × Nat)) : List (Nat × Nat) :=
  (gs.foldl (fun acc g => match acc with
    | (a, n) :: rest =>
      if a + n = g.1 then (a, n + g.2) :: rest
      else if a ≤ g.1 ∧ g.1 + g.2 ≤ a + n then acc else g :: acc
    | [] => [g]) ([] : List (Nat × Nat))).reverse

def joinWrites (ws : List (Nat × List Byte)) : List (Nat × List Byte) :=
  (ws.foldl (fun acc w => match acc with
    | (a, bs) :: rest => if a + bs.length = w.1 then (a, bs ++ w.2) :: rest else w :: acc
    | [] => [w]) ([] : List (Nat × List Byte))).reverse

/-- What a block moves: for each group of destination elements, its address and its source elements. -/
def blockPlan (src dst : TView) (d : List Byte) (b : Nat) : List (Nat × List Nat) :=
  let (lo, n) := blockRange dst d b
  let w := radix 1 src.dims
  let perm := permAt d 8 src.dims.length
  (blockGroups dst lo n).map (fun g =>
    ((dst.place g.1).1, (List.range g.2).map (fun j => sourceElem w (g.1 + j) dst.dims perm)))

/-- The code of a source element, from the Deck or from what has landed. -/
def sourceCode (s : State) (landed : Mem) (v : TView) (k : Nat) : Nat :=
  let p := v.place k
  let bs := if isDeck s p.1 then deckRead s (gLocal p.1) p.2.1 else memTake zeroByte landed p.1 p.2.1
  (unpackCodes v.fmt (p.2.2 + 1) bs).getD p.2.2 0

/-- The writes of a block. -/
def blockWrites (s : State) (src dst : TView) (d : List Byte) (b : Block) : List (Nat × List Byte) :=
  joinWrites ((blockPlan src dst d b.index).map (fun p =>
    (p.1, packCodes dst.fmt (p.2.map (sourceCode s b.landed src)))))

/-- The extents of a source outside the device that a block reads. -/
def blockReads (s : State) (src dst : TView) (d : List Byte) (b : Nat) : List (Nat × Nat) :=
  if isDeck s src.base then [] else
    joinExtents ((blockPlan src dst d b).flatMap (fun p => p.2.map (fun k => ((src.place k).1, (src.place k).2.1))))

/-! ### Dispatch and delivery -/

/-- The stream's tensors are one place in one layout: a no-op, that writes nothing (R256, R266). -/
def streamNoop (src dst : TView) (d : List Byte) : Bool := samePlace src dst (permAt d 8 src.dims.length)

/-- The charge of a stream item (R268). -/
def blockCharge (src dst : TView) (d : List Byte) (b : Nat) : Nat :=
  if streamNoop src dst d then 4
  else
    let n := packedBytes dst.fmt (blockRange dst d b).2
    let touched := fun (gs : List (Nat × Nat)) => (joinExtents gs).foldl (fun a g =>
      a + ((g.1 + g.2 - 1) / 256 - g.1 / 256 + 1)) 0
    let plan := blockPlan src dst d b
    ceilDiv n (if leAt d 8 1 = 0 then 256 else 128) +
    touched (plan.flatMap (fun p => p.2.map (fun k => ((src.place k).1, (src.place k).2.1)))) +
    touched (plan.map (fun p => (p.1, packedBytes dst.fmt p.2.length)))

/-- A block's bytes go to dst: the Deck at once, other places by acknowledged writes.  A block that a halt left written
counts as written again (R270, R275). -/
def moveBlock (s : State) (c k : Nat) (src dst : TView) (t : Stream) (b : Block) : State :=
  let ws := if streamNoop src dst t.desc then [] else blockWrites s src dst t.desc b
  let out := ws.filter (fun w => !(isDeck s w.1))
  let n := out.foldl (fun a w => a + (pieces w.1 w.2.length).length) 0
  let s1 := if t.finished.contains b.index then bump s ctRewritten 1 else s
  let s2 := modStream s1 c k (fun t => { t with finished := t.finished.filter (· != b.index) })
  let s3 := modBlock s2 c k b.index (fun y => { y with written := true, waiting := n, landed := [] })
  ws.foldl (fun s w =>
    if isDeck s w.1 then
      let s4 := deckWriteFor s (.stream c k b.index) (gLocal w.1) w.2
      modBlock s4 c k b.index (fun y => { y with waiting := y.waiting + heldParts s s4 })
    else issueWrites s (.stream c k b.index) c w.1 w.2) s3

/-- A block goes to a Pier: it reads what lies outside the device, or writes at once (R268, R273).  One whose charge passes
the item budget is stopped before its first step and writes nothing (04 R64; log entry 177). -/
def startBlock (s : State) (c k : Nat) (src dst : TView) (t : Stream) (i pier : Nat) : State :=
  let rs := if streamNoop src dst t.desc then [] else blockReads s src dst t.desc i
  let n := rs.foldl (fun a g => a + (pieces g.1 g.2).length) 0
  let old := List.find? (fun (b : Block) => b.index == i) t.blocks
  let b : Block := {
    index := i, pier := pier, landed := [], written := false, waiting := n, fault := [], done := false
    failedPiers := (old.map (·.failedPiers)).getD [] }
  let t1 := { t with
    blocks := t.blocks.filter (fun y => y.index != i) ++ [b], next := max t.next (i + 1) }
  let s1 := modStream s c k (fun _ => t1)
  if ((NMap.find? s.ctxs c).elim 0 (·.itemBudget)) < blockCharge src dst t.desc i then
    countQuarantine (modBlock s1 c k i (fun y => { y with written := true, waiting := 0 })) c t.ring t.idx 1
  else if rs.isEmpty then moveBlock s1 c k src dst t1 b
  else rs.foldl (fun s g => issueReads s (.stream c k i) c g.1 g.2) s1

/-- STREAM_BLOCK_DISPATCH: a Pier takes up the stream's next block, or writes the block whose bytes have landed
(R268, R272, R273). -/
def execStreamBlockDispatch (ctx slot pier : Nat) (s : State) : Host.Outcome State Fault Refusal :=
  if 256 ≤ pier then .fault (.noSuchUnit pier)
  else
    match NMap.find? s.ctxs ctx with
    | none => ok s
    | some x =>
      match NMap.find? x.streams slot with
      | none => ok s
      | some t =>
        match streamView x t.desc 0, streamView x t.desc 4 with
        | some src, some dst =>
          match List.find? (fun (b : Block) => b.pier == pier && !b.done) t.blocks with
          | some b =>
            if running s && !t.denied && !b.written && b.waiting == 0 && b.fault.isEmpty then
              finish (moveBlock s ctx slot src dst t b)
            else ok s
          | none =>
            match streamNext s ctx x t with
            | none => ok s
            | some i =>
              let failed := ((List.find? (fun (b : Block) => b.index == i) t.blocks).map (·.failedPiers)).getD []
              let prio := leAt t.desc 15 1
              if running s && pierFree s pier && pierSuits s failed pier && !(streamOutranks s prio) &&
                 !((readyHead s).elim false (fun h => decide (prio < h.2.prio))) then
                finish (trace (startBlock s ctx slot src dst t i pier) ctx srcScheduler 5 i 0)
              else ok s
        | _, _ => ok s

/-- Blocks whose writes are all acknowledged are done, and give up their Piers (R268). -/
def settleBlocks (t : Stream) : Stream :=
  if t.denied then t else { t with blocks := t.blocks.map (fun b =>
    if b.written && b.waiting == 0 && b.fault.isEmpty then { b with done := true } else b) }

/-- Count the blocks that follow the delivered ones and are done (R262, R269). -/
def deliverBlocks : Nat → Stream → Stream
  | 0, t => t
  | f + 1, t =>
    if t.blocks.any (fun b => b.index == t.delivered && b.done) then
      deliverBlocks f { t with blocks := t.blocks.filter (fun b => b.index != t.delivered), delivered := t.delivered + 1 }
    else t

/-- Bring the delivery cell up to the delivered count with unsigned-maximum semantics (R269). -/
def writeCell (s : State) (c k : Nat) (t : Stream) : State :=
  let a := leAt t.desc 40 8
  if a = 0 || t.cellBusy || t.delivered ≤ t.cell then s
  else
    let s1 := modStream s c k (fun t => { t with cell := t.delivered, cellBusy := !(isDeck s a) })
    if isDeck s a then cellOp s1 a 3 t.delivered 0
    else if isOwn s a then issueReads s1 (.deliveryCell c k) c a 8
    else issueAtomic s1 (.deliveryCell c k) c 7 a 3 t.delivered 0

/-- Deliver what is written, and move the delivery cell (R269). -/
def deliver (s : State) (c k : Nat) : State :=
  match (NMap.find? s.ctxs c).bind (fun x => NMap.find? x.streams k) with
  | none => s
  | some t =>
    let t1 := settleBlocks t
    let t2 := deliverBlocks t1.blocks.length t1
    let fresh := t1.blocks.filter (fun b => b.done && t.blocks.any (fun a => a.index == b.index && !a.done))
    let s0 := fresh.foldl (fun s b => trace s c b.pier 6 b.index 0) s
    let s1 := if t.delivered < t2.delivered then bump s0 ctBlocks (t2.delivered - t.delivered) else s0
    writeCell (modStream s1 c k (fun _ => t2)) c k t2

/-- A running resume ends with a status. -/
def endResume (s : State) (c h status detail : Nat) : State :=
  match (NMap.find? s.ctxs c).bind (fun x => NMap.find? x.halts h) with
  | none => s
  | some y =>
    match y.running with
    | none => s
    | some (r, i) => modHalt (completeDesc s c r i status detail) c h (fun y => { y with running := none })

def closeHalt (s : State) (c h : Nat) : State := modCtx s c (fun x => { x with halts := NMap.erase x.halts h })

/-- The slot's final outcome is decided: it stays active until the entry of that descriptor is written (R265). -/
def endSlot (s : State) (c k : Nat) (last : Nat × Nat) : State :=
  orphan (modStream s c k (fun t => { t with blocks := [], halt := none, cellBusy := false, denied := false, ended := some last }))
    (fun o => match o with
    | .stream a b _ => a == c && b == k
    | .deliveryCell a b => a == c && b == k
    | _ => false)

/-- The descriptor that ends a stream: its running resume, or its arm. -/
def lastDesc (s : State) (c : Nat) (t : Stream) : Nat × Nat :=
  (t.halt.bind (fun h => ((NMap.find? s.ctxs c).bind (fun x => NMap.find? x.halts h)).bind (·.running))).getD (t.ring, t.idx)

/-- The last block has been delivered and its cell written: the arm or the running resume completes OK, which is the slot's
final outcome (R265, R269). -/
def finishStream (s : State) (c k : Nat) (t : Stream) : State :=
  let s1 := match t.halt with
    | none => completeDesc s c t.ring t.idx 0 0
    | some h => closeHalt (endResume (event s evStream 1) c h 0 0) c h
  endSlot s1 c k (lastDesc s c t)

/-- Nothing of the stream is on its way. -/
def streamQuiet (t : Stream) : Bool :=
  t.blocks.all (fun b => b.done || b.pier == 256 || (b.waiting == 0 && (b.written || !b.fault.isEmpty || t.denied))) &&
  !t.cellBusy

/-- The blocks that were not delivered are given up; those that were written count when they are written again
(R270, R275). -/
def dropBlocks (t : Stream) : Stream :=
  { t with
    finished := (t.finished ++ (t.blocks.filter (·.done)).map (·.index)).eraseDups
    blocks := [], next := t.delivered, denied := false }

/-- An attempt of a stream ends with a failing status: without a halt its arm completes, which ends the slot; under a
resume the resume completes and the halt stays open (R264, 16 R353, R355). -/
def failStream (s : State) (c k : Nat) (t : Stream) (status : Nat) : State :=
  match t.halt with
  | none => endSlot (completeDesc s c t.ring t.idx status 0) c k (t.ring, t.idx)
  | some h =>
    let s1 := orphan (endResume s c h status 0) (fun o => match o with
      | .stream a b _ => a == c && b == k
      | .deliveryCell a b => a == c && b == k
      | _ => false)
    modHalt (modStream s1 c k (fun t => { dropBlocks t with cellBusy := false, cell := 0 })) c h
      (fun y => { y with block := t.delivered })

/-- STREAM_BLOCK_DELIVERED: blocks whose writes are all acknowledged are delivered in order and the delivery cell
advances; after the last, the stream ends (R269, R265; 16 R355). -/
def execStreamBlockDelivered (ctx slot : Nat) (s : State) : Host.Outcome State Fault Refusal :=
  if s.power.off || s.heal.outOfService then ok s
  else
    let s1 := deliver s ctx slot
    match (NMap.find? s1.ctxs ctx).bind (fun x => (NMap.find? x.streams slot).map (fun t => (x, t))) with
    | none => ok s
    | some (x, t) =>
      if t.ended.isSome then ok s else
      let cancelled := t.halt.elim false (fun h => (NMap.find? x.halts h).elim false (·.cancelled))
      if t.denied && streamQuiet t then finish (failStream s1 ctx slot t 0x3F)
      else if (streamView x t.desc 4).elim false (fun v => t.delivered == streamBlocks v t.desc) && !t.cellBusy &&
          (leAt t.desc 40 8 == 0 || t.cell == t.delivered) && !cancelled then finish (finishStream s1 ctx slot t)
      else finish s1

/-! ### Halts -/

/-- Halt-area bytes that an open halt holds (R262). -/
def haltBytes (h : Halt) : Nat := h.bytes.elim 0 (fun bs => roundUp bs.length 65536)

/-- The halt area has room for `n` more bytes, and fewer than 256 halts are open (R262). -/
def haltFits (x : Ctx) (n : Nat) : Bool :=
  decide (x.halts.foldl (fun a h => a + haltBytes h.2) 0 + roundUp n 65536 ≤ 65536 * x.haltPages) &&
  decide (x.halts.length < 256)

/-- The next halt_id that is not zero and names no open halt (R263). -/
def freeHalt (hs : NMap Halt) : Nat → Nat → Nat
  | 0, n => n
  | f + 1, n =>
    let m := if n % 2 ^ 32 = 0 then 1 else n % 2 ^ 32
    if NMap.has hs m then freeHalt hs f (m + 1) else m

/-- The 64 bytes of a halt record (R263). -/
def haltRecord (s : State) (c id addr : Nat) (write : Bool) (h : Halt) (outer : List Nat) (inner : Nat) : List Byte :=
  natLE (stamp s) 8 ++ natLE addr 8 ++ natLE id 4 ++ natLE c 2 ++
  natLE ((if h.stream then 2 else 1) + (if write then 4 else 0) + (if h.resumable then 8 else 0)) 1 ++
  natLE h.which 1 ++ natLE h.seq 4 ++ natLE h.flow 4 ++ slice (outer.flatMap (fun v => natLE v 4)) 0 20 ++
  natLE inner 4 ++ natLE h.block 8

/-- A halt is noted: its record, its events and its count (R262, R263, R275). -/
def noteHalt (s : State) (c id : Nat) (h : Halt) (record : List Byte) : State :=
  let s1 := modCtx s c (fun x => { x with halts := NMap.set x.halts id h })
  let s2 := logWrite (event (bump s1 ctHalts 1) evStream 0) c 1 record
  if h.resumable then s2 else event s2 evStream 4

/-- The offset of an address in the bytes of a view's segments. -/
def offsetIn : List (Nat × Nat) → Nat → Nat
  | [], _ => 0
  | g :: gs, a => if g.1 ≤ a ∧ a < g.1 + g.2 then a - g.1 else g.2 + offsetIn gs a

/-- The transfer block that a faulted access belongs to (R262). -/
def faultBlock (src : Option TView) (dst : TView) (f : Nat × Bool) : Nat :=
  (if f.2 then offsetIn dst.segments f.1 else src.elim 0 (fun v => offsetIn v.segments f.1)) / 65536

/-- The lowest block that faulted, with its first access: block, address, write (R262, R263). -/
def firstFault (src : Option TView) (dst : TView) (fs : List (Nat × Bool)) : Nat × Nat × Bool :=
  let bs := fs.map (fun f => (faultBlock src dst f, f.1, f.2))
  bs.foldl (fun a f => if f.1 < a.1 then f else a) (bs.headD (0, 0, false))

/-- What a halted PUT or GET reads its operands from: its operator, and its operands as they stand. -/
def haltedOp (s : State) (x : Ctx) (it : Item) : Nat × OpIn :=
  let k := if chainDone s it then it.op - 1 else it.op
  let o := chainOp (itemImage s it) k
  let a := (readOperand s x it o 0).1
  (k, {
    op := o, src0 := a, src1 := Operand.none, src2 := Operand.none, dst := Operand.none, runs := a.runs
    c0 := itemPositions s it, index := it.index, n := 1, seed := [], view := tensorView x (opRef o 3) it.index })

/-- The transfer of an item halts at block `b`: what is left of a chain buffer goes to the halt area, the record is
written and the item commits (R262). -/
def haltItem (s : State) (id : Nat) (x : Ctx) (it : Item) (k : Nat) (i : OpIn) (m : Move) (f : Nat × Nat × Bool) : State :=
  let (b, addr, write) := f
  let kept := if m.src.isNone && !i.src0.gone then some (m.data.drop (b * 65536)) else none
  let fits := haltFits x (kept.elim 0 (·.length))
  let hid := freeHalt x.halts 300 x.nextHalt
  let h : Halt := {
    stream := false, which := k, block := b, resumable := fits, chain := it.chain, bytes := if fits then kept else none
    src := m.src.getD m.dst, dst := m.dst, count := m.count, runs := m.runs, zero := m.zero, get := opCode i.op == 0x41
    channel := opChannel i.op, spread := opSpread i.op, flow := it.flow.getD 0, seq := it.seq, running := none, phase := 0
    cancelled := false, denied := false, landed := [], waiting := 0, fault := [] }
  let s1 := modCtx s it.ctx (fun x => { x with nextHalt := (hid + 1) % 2 ^ 32 })
  let s2 := noteHalt s1 it.ctx hid h (haltRecord s it.ctx hid addr write h [] (b * 65536))
  let s3 := modItem s2 id (fun it => { it with halted := some hid, handed := true, fault := [] })
  if (slotsOf s3 id).isEmpty then commitRun s3 id else s3

/-- A page fault in a PUT or GET, once its outstanding accesses have been answered: after a read fault the blocks before
it are still written (R262). -/
def itemFault (s : State) (id : Nat) : State :=
  match getItem s id with
  | none => s
  | some it =>
    match itemCtx s it with
    | none => s
    | some x =>
      if it.st != .running || it.fault.isEmpty || it.waiting != 0 || it.halted.isSome ||
         (pierOf s id).elim true (fun p => (getPier s p).flagged) then s
      else
        let (k, i) := haltedOp s x it
        match moveOf s x it i with
        | none => s
        | some m =>
          let f := firstFault m.src m.dst it.fault
          if !(chainDone s it) && f.1 != 0 && it.delivered = 0 then
            (transferWrites m.dst m.zero m.runs m.data 0 (f.1 * 65536)).foldl
              (fun s w => putWrite s id it.ctx (opChannel i.op) (opSpread i.op) w)
              (modItem s id (fun it => { it with delivered := f.1 }))
          else haltItem s id x it k i m f

/-- A page fault in a stream, once its running blocks have finished, those that are written again among them: the halt is at
the lowest block that faulted.  In a paused context, where none is dispatched, a faulted block after one that is to be written
again waits with it (R270, R273). -/
def streamFault (s0 : State) (c k : Nat) : State :=
  let s := deliver s0 c k
  match (NMap.find? s.ctxs c).bind (fun x => (NMap.find? x.streams k).map (fun t => (x, t))) with
  | none => s
  | some (x, t) =>
    let bad := t.blocks.filter (fun b => !b.fault.isEmpty)
    match bad with
    | [] => s0
    | b0 :: _ =>
      let b := bad.foldl (fun a y => if y.index < a.index then y else a) b0
      let redo := t.blocks.any (fun y => y.pier == 256 && !y.done && decide (y.index < b.index))
      if !(t.blocks.all (fun b => b.done || b.pier == 256 || (b.waiting == 0 && !b.fault.isEmpty))) || t.denied then s0
      else if redo && x.st != .active then
        modStream s c k (fun t => { t with blocks := t.blocks.map (fun y =>
          if y.fault.isEmpty then y else { y with pier := 256, fault := [], landed := [], written := false }) })
      else if redo then s0
      else
        let f := b.fault.headD (0, false)
        let old := t.halt.bind (fun h => (NMap.find? x.halts h).map (fun y => (h, y)))
        let hid := (old.map (·.1)).getD (freeHalt x.halts 300 x.nextHalt)
        let v := (streamView x t.desc 4).getD ⟨0, 0, [], [], 0⟩
        let q := streamSplit v t.desc
        let h : Halt := {
          stream := true, which := k, block := b.index
          resumable := (old.map (fun p => p.2.resumable)).getD (decide (x.halts.length < 256)), chain := 0, bytes := none
          src := v, dst := v, count := 0, runs := [], zero := false, get := false, channel := 0, spread := false, flow := 0
          seq := 0, running := (old.map (fun p => p.2.running)).getD none, phase := 0
          cancelled := (old.map (fun p => p.2.cancelled)).getD false, denied := false, landed := [], waiting := 0, fault := [] }
        let s1 := modCtx s c (fun x => { x with nextHalt := if old.isSome then x.nextHalt else (hid + 1) % 2 ^ 32 })
        let s2 := noteHalt s1 c hid h (haltRecord s c hid f.1 f.2 h (outerIndices (b.index / q) (v.dims.drop (leAt t.desc 14 1)))
          (b.index % q * leAt t.desc 16 4))
        let s3 := modStream s2 c k (fun t => { dropBlocks t with
          next := b.index, halt := some hid, armDone := true })
        if t.armDone then endResume s3 c hid 0x22 hid else completeDesc s3 c t.ring t.idx 0x22 hid

/-! ### Resuming a transfer -/

/-- The bytes of a halted transfer from its saved position on. -/
def haltData (s : State) (h : Halt) : List Byte :=
  match h.bytes with
  | some bs => bs
  | none => (maskBytes (if h.zero then h.runs else []) (slice (rawBytes s h.landed h.src) 0 h.count)).drop (h.block * 65536)

/-- Write blocks of a halted transfer from its saved position up to byte `hi` (R264). -/
def resumeWrites (s : State) (c id : Nat) (h : Halt) (hi : Nat) : State :=
  let ws := transferWrites h.dst h.zero h.runs (zeros (h.block * 65536) ++ haltData s h) (h.block * 65536) hi
  let out := ws.filter (fun w => !(isDeck s w.1))
  let s1 := modHalt s c id (fun y => { y with phase := 2, waiting := out.length })
  ws.foldl (fun s w =>
    if isDeck s w.1 then
      let s2 := deckWriteFor s (.resume c id) (gLocal w.1) w.2
      modHalt s2 c id (fun y => { y with waiting := y.waiting + heldParts s s2 })
    else issue s { accWrite s (.resume c id) c w.1 w.2 with tmpl := viaSpan s w.1 1 h.channel h.spread }) s1

/-- A resume starts: it reads what lies outside the device, or writes at once (R264). -/
def startResume (s : State) (c id : Nat) (h : Halt) : State :=
  let lo := h.block * 65536
  let rs := if h.bytes.isSome || isDeck s h.src.base then [] else
    (h.src.cut lo (h.count - lo)).flatMap (fun g => pieces g.1 g.2.2)
  if rs.isEmpty then resumeWrites s c id h h.count
  else rs.foldl (fun s p =>
      issue s { accRead s (.resume c id) c p.1 p.2 with tmpl := viaSpan s p.1 2 h.channel h.spread })
    (modHalt s c id (fun y => { y with phase := 1, waiting := rs.length }))

/-- A page fault in a resumed transfer: a new record with the same halt_id (R264). -/
def resumeFault (s : State) (c id : Nat) : State :=
  match (NMap.find? s.ctxs c).bind (fun x => NMap.find? x.halts id) with
  | none => s
  | some h =>
    if h.stream || h.fault.isEmpty || h.waiting != 0 then s
    else
      let f := firstFault (some h.src) h.dst h.fault
      if h.phase = 1 && h.block < f.1 then resumeWrites s c id h (f.1 * 65536)
      else
        let h1 := { h with
          block := f.1, bytes := h.bytes.map (·.drop ((f.1 - h.block) * 65536)), phase := 0, fault := [], landed := [] }
        endResume (noteHalt s c id h1 (haltRecord s c id f.2.1 f.2.2 h1 [] (f.1 * 65536))) c id 0x22 id

/-- PAGE_FAULT: a not-present answer halts a transfer, a stream or a resumed transfer at a block boundary
(R262 to R264, R270). -/
def execPageFault (target : FaultAt) (s : State) : Host.Outcome State Fault Refusal :=
  if s.power.off || s.heal.outOfService then ok s
  else match target with
    | .item id => finish (itemFault s id)
    | .stream c k => finish (streamFault s c k)
    | .resume c h => finish (resumeFault s c h)

/-- The next step of a transfer's running resume: it writes once its reads have landed, and completes OK when its last
block is delivered (R264). -/
def stepResume (s : State) (c id : Nat) (h : Halt) : State :=
  if h.waiting != 0 || !h.fault.isEmpty || h.cancelled then s
  else if h.denied then
    modHalt (endResume s c id 0x3F 0) c id (fun y => { y with phase := 0, denied := false, landed := [] })
  else if h.phase = 1 then resumeWrites s c id h h.count
  else closeHalt (endResume (event s evStream 1) c id 0 0) c id

/-- STREAM_RESUME: continues a halted transfer or stream from its saved position (R264). -/
def execStreamResume (ctx ring : Nat) (s : State) : Host.Outcome State Fault Refusal :=
  let haltOf := fun (d : Desc) => (NMap.find? s.ctxs ctx).bind (fun x => NMap.find? x.halts (leAt d.raw 32 4))
  match runningDesc s ctx ring 0x0B (fun d => (haltOf d).elim false (fun h =>
      !h.stream && h.waiting == 0 && h.fault.isEmpty && !h.cancelled)) with
  | some (_, d) => finish (match haltOf d with
      | some h => stepResume s ctx (leAt d.raw 32 4) h
      | none => s)
  | none =>
    finish (command s ctx ring 0x0B [(32, 35)] noArg (fun x raw _ =>
      let id := leAt raw 32 4
      match NMap.find? x.halts id with
      | none => completeHead s ctx ring raw 0x10 32
      | some h =>
        if !h.resumable || h.running.isSome || h.cancelled then completeHead s ctx ring raw 0x10 32
        else
          let idx := ((getRing s ctx ring).map (·.consumed)).getD 0
          let s1 := modHalt (startCommand s ctx ring raw) ctx id (fun y => { y with running := some (ring, idx) })
          if h.stream then s1 else startResume s1 ctx id h))

/-! ### STREAM_CANCEL -/

/-- Everything of a halt that was on its way has finished. -/
def haltQuiet (x : Ctx) (h : Halt) : Bool :=
  if h.stream then (NMap.find? x.streams h.which).elim true streamQuiet else h.waiting == 0

/-- The halt closes: a running resume completes ABORTED, and the cancel is the final outcome of a stream's slot
(R264, R265, R273). -/
def closeCancelled (s : State) (c id : Nat) (h : Halt) (last : Nat × Nat) : State :=
  let s1 := closeHalt (endResume (event s evStream 2) c id 0x3F 0) c id
  if h.stream then endSlot s1 c h.which last else s1

/-- STREAM_CANCEL: closes a halt and frees its halt-area space; while a resume runs it first lets what runs finish
(R264, R273). -/
def execStreamCancel (ctx ring : Nat) (s : State) : Host.Outcome State Fault Refusal :=
  let haltOf := fun (d : Desc) => (NMap.find? s.ctxs ctx).bind (fun x =>
    (NMap.find? x.halts (leAt d.raw 32 4)).map (fun h => (x, h)))
  match runningDesc s ctx ring 0x0C (fun d => (haltOf d).elim true (fun p => haltQuiet p.1 p.2)) with
  | some (i, d) =>
    let s1 := completeDesc s ctx ring i 0 0
    finish (match haltOf d with
      | some p => closeCancelled s1 ctx (leAt d.raw 32 4) p.2 (ring, i)
      | none => s1)
  | none =>
    finish (command s ctx ring 0x0C [(32, 35)] noArg (fun x raw _ =>
      let id := leAt raw 32 4
      match NMap.find? x.halts id with
      | none => completeHead s ctx ring raw 0x10 32
      | some h =>
        if h.cancelled then completeHead s ctx ring raw 0x10 32
        else if haltQuiet x h then
          closeCancelled (completeHead s ctx ring raw 0 0) ctx id h (ring, ((getRing s ctx ring).map (·.consumed)).getD 0)
        else modHalt (startCommand s ctx ring raw) ctx id (fun y => { y with cancelled := true })))

/-! ### Timeouts of the device's own requests -/

/-- The device's own request on behalf of a context is unanswered: its descriptor, arm or resume completes TIMEOUT
(R264; 16 R353). -/
def requestTimedOut (s : State) (i : Nat) (a : Acc) : State :=
  let s := match a.owner with
    | .skipSignal .. | .shards .. | .stream .. | .deliveryCell .. | .resume .. | .free _ => closeRequest s i
    | _ => s
  match a.owner with
  | .skipSignal c r d => modDesc (orphan s (· == a.owner)) c r d (fun d => worsen { d with waiting := 0 } 0x21)
  | .shards c r d =>
    modDesc (orphan s (· == a.owner)) c r d (fun d => worsen { d with waiting := 0, closeDue := false } 0x21)
  | .stream c k _ | .deliveryCell c k =>
    match (NMap.find? s.ctxs c).bind (fun x => NMap.find? x.streams k) with
    | some t => failStream s c k t 0x21
    | none => dropAcc s i
  | .resume c h =>
    modHalt (endResume (orphan s (· == .resume c h)) c h 0x21 0) c h (fun y => { y with
      phase := 0, waiting := 0, fault := [], denied := false, landed := [] })
  | _ => s

/-- DEVICE_REQUEST_TIMEOUT: the outside timeout has passed since the request was first issued (16 R353). -/
def execDeviceRequestTimeout (acc : Nat) (s : State) : Host.Outcome State Fault Refusal :=
  match NMap.find? s.kid.accs acc with
  | none => ok s
  | some a => if accLate s a then finish (requestTimedOut s acc a) else ok s

end Sys2Proof.Machine
end

