-- ==== Sys2Proof/Machine/Admin.lean ====
section
/-!
DEFINITION. Admin operations: CREATE, DESTROY, PAUSE and RESUME (02 R35; 04 R71; 15 R317 to R321).
-/

namespace Sys2Proof.Machine

open Sys2Proof

/-! ### Addresses and ends -/

/-- A local address names `n` bytes of host memory inside a window, or where allowed of the mirrored region (15 R317). -/
def areaOk (s : State) (a n : Nat) (deck : Bool) : Bool :=
  (decide (hostBase ≤ a) && decide (a + n ≤ hostBase + 2 ^ 44) && inHostWindow s (a - hostBase) n) ||
  (deck && decide (a < deckTop) && inMirrored s a n)

/-- The operation ends with a status, and done is set (15 R317). -/
def adminEnd (s : State) (status : Nat) : State :=
  event { s with regs := { s.regs with
    adminBusy := 0, adminStatus := status, adminBytes := none, adminAsked := 0, adminMem := [], adminImage := []
    adminDue := false } } evAdmin 0

def adminAddr (s : State) : Nat := pairGet s prAdminAddr

/-- The operation of CTX_ADMIN_GO runs, and the device is awake (15 R317, 20 R446). -/
def adminRuns (s : State) (op : Nat) : Bool :=
  s.regs.adminBusy == op && !s.power.off && !s.power.nap && s.power.entering.isNone && s.power.waking.isNone

/-! ### CREATE -/

/-- A context block is within R318 and R319, and its log bases are aligned (15 R320). -/
def blockOk (b : List Byte) : Bool :=
  let land := leAt b 16 4
  let logOk := fun k => leAt b k 1 == 0 || (decide (4 ≤ leAt b k 1) && decide (leAt b k 1 ≤ 20))
  leAt b 0 4 == 0x58434C49 && decide (leAt b 4 1 < 16) && decide (leAt b 5 1 < 8) && allZero (slice b 6 2) &&
  decide (1 ≤ leAt b 8 4) && decide (leAt b 8 4 ≤ 262144) && leAt b 12 4 % 4096 == 0 && decide (leAt b 12 4 ≤ 2 ^ 20) &&
  land % 65536 == 0 && decide (land ≤ 2 ^ 20) && decide (1 ≤ leAt b 20 4) && decide (leAt b 20 4 ≤ 2 ^ 24) &&
  allZero (slice b 42 2) && allZero (slice b 60 4) && logOk 88 && logOk 89 && logOk 90 && allZero (slice b 91 1) &&
  leAt b 64 8 % 64 == 0 && leAt b 72 8 % 64 == 0 && leAt b 80 8 % 64 == 0 && allZero (slice b 112 144) &&
  (leAt b 104 8 == 0 || bitsAt (leAt b 96 8) 62 2 == 1 || bitsAt (leAt b 96 8) 62 2 == 2) &&
  (List.range 16).all (fun r =>
    let e := slice b (256 + 32 * r) 32
    let sl := leAt e 24 1
    let cl := leAt e 25 1
    decide (leAt e 26 1 < 2) && allZero (slice e 27 5) &&
    (if sl = 0 then cl == 0
     else decide (6 ≤ sl) && decide (sl ≤ 16) && decide (6 ≤ cl) && decide (cl ≤ 16) &&
       leAt e 0 8 % 64 == 0 && leAt e 8 8 % 64 == 0 && leAt e 16 8 % 64 == 0))

/-- The addresses of a context block lie in their places (15 R317, 17 R373, R379). -/
def blockPlaces (s : State) (c : Nat) (b : List Byte) : Bool :=
  let log := fun base k w => leAt b k 1 == 0 || areaOk s (leAt b base 8) (64 + w * 2 ^ leAt b k 1) true
  let j := leAt b 96 8
  let jl := leAt b 104 8
  log 64 88 64 && log 72 89 64 && log 80 90 32 &&
  (jl == 0 ||
    (if bitsAt j 62 2 = 1 then bitsAt j 44 18 == 0 && inHostWindow s (j % 2 ^ 44) jl
     else match nvmeTarget s (bitsAt j 57 5) with
       | some (_, _, ns, _, lbas, cx) => cx == c && j % 4096 == 0 &&
           decide (j % 2 ^ 57 + jl ≤ lbas * (if Config.lbaLarge ns then 4096 else 512))
       | none => false)) &&
  (List.range 16).all (fun r =>
    let e := slice b (256 + 32 * r) 32
    leAt e 24 1 == 0 || (areaOk s (leAt e 0 8) (64 * 2 ^ leAt e 24 1) false &&
      areaOk s (leAt e 8 8) (32 * 2 ^ leAt e 25 1) false && areaOk s (leAt e 16 8) 64 false))

/-- The Deck bytes of a context's own areas in the device region: halt area and swap area (17 R368). -/
def deviceBytes (haltPages reservation : Nat) : Nat := 65536 * haltPages + 256 * reservation

/-- The lowest start at which `n` bytes meet none of the taken intervals; zero when `n` is zero (17 R368). -/
def firstGap (taken : List (Nat × Nat)) (n : Nat) : Nat :=
  let starts := 0 :: taken.map (fun t => t.1 + t.2)
  let fits := starts.filter (fun a => taken.all (fun t => decide (a + n ≤ t.1) || decide (t.1 + t.2 ≤ a)))
  if n = 0 then 0 else fits.foldl min (starts.foldl max 0)

/-- The reservation and the Deck pages fit beside the other contexts' (04 R71, 15 R320). -/
def blockFits (s : State) (b : List Byte) : Bool :=
  let (_, d, c) := deckMap s
  let pinned := s.ctxs.foldl (fun a p => if p.2.pinned then a + p.2.reservation else a) 0
  let pool := s.ctxs.foldl (fun a p => a + 65536 * (p.2.cachePages + p.2.stagePages)) 0
  let dev := s.ctxs.foldl (fun a p => a + deviceBytes p.2.haltPages p.2.reservation) 0
  decide (pinned + leAt b 12 4 ≤ 2 ^ 20) && decide (pool + 65536 * (leAt b 48 4 + leAt b 52 4) ≤ c) &&
  decide (dev + deviceBytes (leAt b 56 4) (leAt b 12 4) ≤ d)

/-- A ring at CREATE (15 R319, R322). -/
def Ring.create (s : State) (e : List Byte) : Ring :=
  let g := fun k => gAddr (deviceId s) (leAt e k 8)
  { subBase := g 0, cqBase := g 8, statusAddr := g 16, subLog := leAt e 24 1, cqLog := leAt e 25 1
    cacheable := leAt e 26 1 == 1, tail := 0, cqHead := 0, head := none, arg := none
    argFail := none, consumed := 0, written := 0, blocked := none, depSince := none
    descs := [], wake := none, gen := 0, statusDirty := false, statusBusy := false, itemsReleased := 0
    quarantined := 0, mem := [], asked := [], waiting := 0, memFail := false }

/-- A field that selects a default when zero, and is raised to its register's minimum (15 R318). -/
def fieldOr (s : State) (v reg : Nat) : Nat := rwClamp reg (if v = 0 then rwGet s reg else v)

def orElse (v d : Nat) : Nat := if v = 0 then d else v

/-- The context that a block describes: its tables are zero and its areas hold no entries (15 R318, R320). -/
def newCtx (s : State) (b : List Byte) : Ctx :=
  let g := fun k l => ({ Log.none with base := gAddr (deviceId s) (leAt b k 8), log2 := leAt b l 1 } : Log)
  let fl := leAt b 5 1
  let pool := s.ctxs.map (fun p => (p.2.poolBase, 65536 * (p.2.cachePages + p.2.stagePages)))
  let dev := s.ctxs.map (fun p => (p.2.areaBase, deviceBytes p.2.haltPages p.2.reservation))
  { st := .active, maxPrio := leAt b 4 1, backPressure := bitAt fl 0, pinned := bitAt fl 1, fifo := bitAt fl 2
    quota := leAt b 8 4, reservation := leAt b 12 4, landing := orElse (leAt b 16 4) 262144
    tensorTable := leAt b 20 4, recordBudget := fieldOr s (leAt b 24 4) rwRecordBudget
    itemBudget := fieldOr s (leAt b 28 4) rwItemBudget, timeout := fieldOr s (leAt b 32 4) rwTimeout
    slice := fieldOr s (leAt b 36 4) rwSlice, ratio := orElse (leAt b 40 2) 1024
    maxRecord := orElse (leAt b 44 4) (2 ^ 20), cachePages := leAt b 48 4, stagePages := leAt b 52 4
    haltPages := leAt b 56 4, qlog := g 64 88, hlog := g 72 89, trace := g 80 90, traceMask := leAt b 92 4
    rings := (List.range 16).filterMap (fun r =>
      let e := slice b (256 + 32 * r) 32
      if leAt e 24 1 = 0 then none else some (r, Ring.create s e))
    chains := [], ranges := [], tensors := [], streams := [], halts := [], nextHalt := 1, cache := []
    stage := [], queues := []
    journal := { base := leAt b 96 8, len := leAt b 104 8, head := 0, next := 0, nextBlock := 0, frames := [] }
    sets := [], resident := decide (residentBytes s + leAt b 12 4 ≤ 2 ^ 20), sliceStart := now s, draining := false
    swap := [], sentData := [], areaBase := firstGap dev (deviceBytes (leAt b 56 4) (leAt b 12 4))
    poolBase := firstGap pool (65536 * (leAt b 48 4 + leAt b 52 4)), closing := false, saves := [] }

/-- The checks of CREATE on the block it read (15 R320). -/
def createFrom (s : State) (b : List Byte) : State :=
  let c := s.regs.adminCtx
  if !(blockOk b) then adminEnd s 0x10
  else if !(blockPlaces s c b) || !(blockFits s b) then adminEnd s 0x11
  else adminEnd (setCtx s c (newCtx s b)) 0

/-- CREATE: the context block is read and checked, and the context becomes ACTIVE (15 R317, R320; 20 R425). -/
def execCreate (s : State) : Host.Outcome State Fault Refusal :=
  if !(adminRuns s 1) then ok s
  else if s.boot.phase < 4 then ok (adminEnd s 0x14)
  else if NMap.has s.ctxs s.regs.adminCtx then ok (adminEnd s 0x10)
  else if s.regs.adminDue then ok (adminEnd s 0x21)
  else match s.regs.adminBytes with
    | some b => finish (createFrom s b)
    | none =>
      if s.regs.adminAsked != 0 then ok s
      else if adminAddr s % 64 != 0 || !(areaOk s (adminAddr s) 768 false) then ok (adminEnd s 0x11)
      else
        let s1 := { s with regs := { s.regs with adminAsked := 1 } }
        finish (issue s1 (accRead s .admin 0 (gAddr (deviceId s) (adminAddr s)) 768))

/-! ### DESTROY -/

/-- Accesses that belong to a context, or to one of its items, and are given up with it. -/
def ofCtx (s : State) (c : Nat) (o : Owner) : Bool :=
  match o with
  | .slot x _ _ | .arg x _ | .skipSignal x _ _ | .shards x _ _ | .stream x _ _ | .deliveryCell x _ | .resume x _ |
    .swtch x _ | .log x _ | .logHeader x _ | .journal x _ | .trailer x _ _ | .status x _ => x == c
  | .item i | .itemPut i | .itemMerge i | .row i => (getItem s i).elim false (fun it => it.ctx == c)
  | .itemAtomic i _ | .signal i _ => (getItem s i).elim false (fun it => it.ctx == c)
  | _ => false

/-- ABORTED for every consumed descriptor that has no status yet; nothing is outstanding for it any more (15 R321). -/
def abortDesc (d : Desc) : Desc :=
  if d.entrySent then d
  else { d with
    status := some (d.status.getD 0x3F), running := false, waiting := 0, trailerDue := false, trailerDone := true, closeDue := false
    lostSent := d.lostGroups.length }

/-- The running items of a closing context have committed: its descriptors end, and its halts and streams go
(15 R321). -/
def abortAll (s : State) (c : Nat) : State :=
  let s1 := orphan s (ofCtx s c)
  let ids := (s1.sched.items.filter (fun p => p.2.ctx == c)).map (·.1)
  let s2 := { s1 with
    sched := { s1.sched with items := s1.sched.items.filter (fun p => p.2.ctx != c) }
    tables := { s1.tables with
      slots := s1.tables.slots.filter (fun z => z.ctx != c)
      joinPending := s1.tables.joinPending.filter (fun q => !(ids.contains (q.1 / 32)))
      commits := s1.tables.commits.filter (fun m => m.2.ctx != c) } }
  modCtx s2 c (fun x => { x with
    halts := [], streams := []
    rings := x.rings.map (fun p => (p.1, { p.2 with
      head := none, arg := none, waiting := 0, descs := p.2.descs.map (fun d => (d.1, abortDesc d.2)) })) })

/-- The context's flows, sets and Deck areas are free, and the context is FREE (15 R321). -/
def freeCtx (s : State) (c : Nat) (x : Ctx) : State :=
  let s1 := (NMap.keys x.sets).foldl (fun s k => freeSet s c k) s
  let named := fun (v : Version) => s.ctxs.any (fun p => p.1 != c && p.2.tensors.any (fun t =>
    isDeck s t.2.base && gLocal t.2.base == v.setBase))
  let s2 := orphan s1 (ofCtx s1 c)
  { s2 with
    ctxs := NMap.erase s2.ctxs c
    sched := { s2.sched with flows := s2.sched.flows.filter (fun f => f.2.ctx != c) }
    tables := { s2.tables with versions := s2.tables.versions.filter (fun v => v.2.ctx != c || named v.2) } }

/-- DESTROY: fetching stops, running items commit, and once every completion entry is acknowledged the context is FREE
(15 R321). -/
def execDestroy (s : State) : Host.Outcome State Fault Refusal :=
  if !(adminRuns s 2) then ok s
  else
    let c := s.regs.adminCtx
    match NMap.find? s.ctxs c with
    | none => ok (adminEnd s 0x10)
    | some x =>
      if !x.closing then ok (setCtx s c { x with closing := true })
      else if runningOf s c then ok s
      else if s.sched.items.any (fun p => p.2.ctx == c) || !x.streams.isEmpty || !x.halts.isEmpty ||
          x.rings.any (fun r => r.2.descs.any (fun d => !d.2.entrySent && !(entryDue d.2))) then finish (abortAll s c)
      else if x.rings.any (fun r => r.2.written != r.2.consumed) then ok s
      else finish (adminEnd (freeCtx s c x) 0)

/-! ### PAUSE and RESUME -/

/-- The program digest and the version roots that a save image carries (02 R35, 13 R291). -/
def saveKey (s : State) (x : Ctx) : List Byte :=
  let chains := x.chains.flatMap (fun p => natLE p.1 2 ++ blake3 p.2.image)
  let sets := ((x.chains.flatMap (fun p => (List.range (chainOps p.2.image)).filterMap (fun k =>
    let o := chainOp p.2.image k
    if isTableOperand o 1 then handleBase s x (refIndex (opRef o 1)) else none))) ++
    x.queues.filterMap (fun q => if q.2.rows then handleBase s x q.2.tableSet else none)).eraseDups
  let roots := sets.flatMap (fun b => (List.range 256).flatMap (fun t => match currentVer s b t with
    | some (_, v) => natLE t 1 ++ deckRead s (v.desc + 128) 32
    | none => []))
  sha512 (ascii "ILPC" ++ blake3 (baseImage s) ++ chains) ++ roots

/-- A flow-ledger entry (04 R62). -/
def flowEntry (f : Flow) : List Byte :=
  natLE f.next 4 ++ natLE f.release 4 ++ natLE f.ctx 2 ++ natLE (f.wlog + 32 * (if f.draining then 2 else 1)) 1 ++
  natLE f.ring 1 ++ natLE f.window 4 ++ natLE f.skips 4 ++ natLE f.ahead 3 ++ natLE 0 1

/-- The save image: its flow-ledger entries, what the spec gives no layout, which takes at most 1 GiB (DESIGN CHOICE), and
the digest and roots (02 R35). -/
def saveBytes (s : State) (c : Nat) (x : Ctx) : List Byte :=
  padTo 4096 ((s.sched.flows.filter (fun f => f.2.ctx == c)).flatMap (fun f => flowEntry f.2) ++
    (Config.saveImage s.free).take (2 ^ 30) ++ saveKey s x)

/-- The reservation of a context on each Pier: in the Piers, or in the Deck once it is swapped out (04 R72, R73). -/
def reservationOf (s : State) (x : Ctx) : NMap Mem :=
  if x.resident then (List.range 256).map (fun p =>
    (p, memPut zeroByte [] 0 (memTake zeroByte s.deck.pierMem (reservationBase p) x.reservation)))
  else x.swap

/-- The context has a release that is due (04 R60). -/
def releaseDue (s : State) (c : Nat) : Bool :=
  s.sched.flows.any (fun f => f.2.ctx == c &&
    s.sched.items.any (fun p => p.2.flow == some f.1 && p.2.seq == f.2.release && p.2.st == .committed))

/-- Nothing of the context runs, its streams stand at block boundaries, and every release and completion due has happened
(02 R35, 04 R73, 12 R272). -/
def pauseSettled (s : State) (c : Nat) (x : Ctx) : Bool :=
  !(runningOf s c) && !(releaseDue s c) && x.streams.all (fun t =>
    t.2.blocks.all (fun b => (b.done && b.index != t.2.delivered) || b.pier == 256) && !t.2.cellBusy) &&
  x.halts.all (fun h => h.2.stream || h.2.running.isNone) &&
  x.rings.all (fun r => !((NMap.find? r.2.descs r.2.written).elim false (fun d => entryDue d || d.entrySent)))

/-- Every ring's status word has changed. -/
def dirtyRings (x : Ctx) : Ctx :=
  { x with rings := x.rings.map (fun p => (p.1, { p.2 with statusDirty := true })) }

/-- Write the save image, or say how large it is (15 R321). -/
def writeSave (s : State) (c : Nat) (x : Ctx) : State :=
  let img := saveBytes s c x
  let key := saveKey s x
  let units := img.length / 4096
  let s1 := { s with free := s.free + 1, regs := { s.regs with imageLen := units } }
  if rwGet s rwAdminLen < units then adminEnd s1 0x11
  else
    let s2 := setCtx s1 c { x with saves := x.saves ++ [{
      bytes := img, key := key, flows := s.sched.flows.filter (fun f => f.2.ctx == c)
      items := s.sched.items.filter (fun p => p.2.ctx == c), queues := x.queues, scratch := reservationOf s x
      streams := x.streams, sets := x.sets }] }
    let g := gAddr (deviceId s) (adminAddr s)
    if isDeck s g then adminEnd (deckWrite s2 (gLocal g) img) 0
    else issueWrites { s2 with regs := { s2.regs with adminImage := img, adminAsked := (pieces g img.length).length } }
      .image c g img

/-- PAUSE: dispatch stops, running items commit, streams halt, due completions are delivered, and the image is written
(02 R35, 15 R317, R321). -/
def execPause (s : State) : Host.Outcome State Fault Refusal :=
  if !(adminRuns s 3) then ok s
  else
    let c := s.regs.adminCtx
    match NMap.find? s.ctxs c with
    | none => ok (adminEnd s 0x10)
    | some x =>
      if !s.regs.adminImage.isEmpty then (if s.regs.adminAsked = 0 then ok (adminEnd s 0) else ok s)
      else if !(areaOk s (adminAddr s) (4096 * max 1 (rwGet s rwAdminLen)) true) then ok (adminEnd s 0x11)
      else if x.st = .active then
        (if x.draining then ok s
         else ok (trace (setCtx s c (dirtyRings { x with st := .paused, saves := [] })) c srcScheduler 12 c 0))
      else if pauseSettled s c x then finish (writeSave s c x)
      else ok s

/-- An item as its image holds it; a cell that reached its threshold meanwhile still counts (05 R94). -/
def reloadItem (saved cur : Item) : Item :=
  { saved with gate := saved.gate || cur.gate, hit := saved.hit || cur.hit, waiting := cur.waiting, landed := cur.landed }

/-- A stream goes on from its first undelivered block (12 R272). -/
def reloadStream (saved cur : Stream) : Stream :=
  { dropBlocks { cur with delivered := saved.delivered } with denied := cur.denied }

/-- The image is reloaded: flow-ledger entries, items, the reservation and the stream positions.  The merge queues hold what
arrived since as well (16 R354), so they stay as they are. -/
def reload (s : State) (c : Nat) (x : Ctx) (v : Save) : State :=
  let s1 := setCtx s c { x with
    streams := x.streams.map (fun t => (t.1, (NMap.find? v.streams t.1).elim t.2 (fun y => reloadStream y t.2)))
    swap := if x.resident then x.swap else v.scratch }
  { s1 with
    sched := { s1.sched with
      flows := v.flows.foldl (fun m f => NMap.set m f.1 f.2) s1.sched.flows
      items := s1.sched.items.map (fun p => (p.1, (NMap.find? v.items p.1).elim p.2 (fun y => reloadItem y p.2))) }
    deck := if x.resident then { s1.deck with
        pierMem := v.scratch.foldl (fun m p =>
          memPut zeroByte m (reservationBase p.1) (memTake zeroByte p.2 0 x.reservation)) s1.deck.pierMem }
      else s1.deck }

/-- The image that these bytes are, among those that the PAUSE wrote (02 R35; log entry 176). -/
def saveOf (x : Ctx) (img : List Byte) : Option Save := x.saves.find? (fun v => img.take v.bytes.length == v.bytes)

/-- The image was read: an image of this pause, under the digest and roots that the device holds, is reloaded and the context
goes on (02 R35). -/
def resumeFrom (s : State) (c : Nat) (x : Ctx) (img : List Byte) : State :=
  match saveOf x img with
  | none => adminEnd s 0x10
  | some v =>
    if saveKey s x != v.key then adminEnd s 0x10
    else
      let s1 := modCtx (reload s c x v) c (fun x => dirtyRings { x with st := .active, saves := [], sliceStart := now s })
      adminEnd (trace s1 c srcScheduler 13 c 0) 0

/-- The bytes that a RESUME reads: those of the longest image of this pause. -/
def imageBytes (x : Ctx) : Nat := x.saves.foldl (fun a v => max a v.bytes.length) 0

/-- RESUME: the image is read back, and the context goes on, or stays paused (02 R35, 15 R317, R321). -/
def execResume (s : State) : Host.Outcome State Fault Refusal :=
  if !(adminRuns s 4) then ok s
  else
    let c := s.regs.adminCtx
    let g := gAddr (deviceId s) (adminAddr s)
    match NMap.find? s.ctxs c with
    | none => ok (adminEnd s 0x10)
    | some x =>
      let n := imageBytes x
      if x.st != .paused || n = 0 then ok (adminEnd s 0x10)
      else if s.regs.adminDue then ok (adminEnd s 0x21)
      else if s.regs.adminImage.isEmpty then
        if !(areaOk s (adminAddr s) n true) then ok (adminEnd s 0x11)
        else if isDeck s g then finish (resumeFrom s c x (deckRead s (gLocal g) n))
        else finish (issueReads { s with regs := { s.regs with
          adminImage := zeros n, adminAsked := (pieces g n).length } } .image c g n)
      else if s.regs.adminAsked != 0 then ok s
      else finish (resumeFrom s c x (memTake zeroByte s.regs.adminMem g n))

end Sys2Proof.Machine
end

