-- ==== Sys2Proof/Machine/Span.lean ====
section
/-!
DEFINITION. The Span transaction layer: arriving requests and responses, forwarding, resends and ports that leave
ACTIVE (16 R344 to R355).
-/

namespace Sys2Proof.Machine

open Sys2Proof

/-- An arrival that is dropped (16 R346, R352, R354). -/
def spanBad (s : State) : State := event (bump s ctSpanBad 1) evSpan 2

/-- Span works: powered, not in Nap, and the port ACTIVE. -/
def spanLive (s : State) (port : Nat) : Bool :=
  !s.power.off && !s.power.nap && s.cfg.loaded && (getSpanLink s port).st == .active

/-- A header for another device goes on by the route table with one more hop, or is dropped (16 R346). -/
def forward (s : State) (h : SpanHdr) (data : List Byte) : State :=
  if 12 ≤ h.hops || hopsTo s h.dst = 0 then spanBad s
  else routeSend s h.dst h.channel { hdr := spanHdrBytes { h with hops := h.hops + 1 }, data := data }

/-- The inbound window that admits an access: the context's, by source, right and extent (16 R344). -/
def admits (s : State) (h : SpanHdr) (right len : Nat) : Option Nat :=
  if !(isOwn s h.address) then none else
  let w := cfgSection s 5
  let a := gLocal h.address
  ((List.range (w.length / 32)).map (fun k => w.drop (32 * k))).findSome? (fun e =>
    if leAt e 20 2 = h.context ∧ leAt e 16 2 % 4096 ≤ h.src ∧ h.src ≤ leAt e 18 2 % 4096 ∧ bitAt (leAt e 22 1) right ∧
       leAt e 0 8 ≤ a ∧ a + len ≤ leAt e 0 8 + leAt e 8 8 then some (leAt e 22 1) else none)

/-- Reserved values of a request's header (16 R347, R348). -/
def requestBad (h : SpanHdr) (opcode : Nat) : Bool :=
  h.opcode != opcode || decide (12 < h.hops) || decide (65536 < h.length) ||
  (opcode == 3 && (h.op == 0 || decide (3 < h.op))) || ((opcode == 1 || opcode == 2) && h.op != 0) ||
  (opcode != 4 && (h.queue != 0 || h.step != 0)) || (opcode == 4 && decide (128 ≤ h.op))

/-- A request of a channel in its order: applied once, a duplicate answered again, a gap dropped (16 R352). -/
def inOrder (s : State) (h : SpanHdr) (apply : State → State) : State :=
  let k := inKey h.src h.channel
  let y := NMap.getD s.span.ins k spanFresh
  if h.seq = (y.applied + 1) % 2 ^ 32 then
    apply { s with span := { s.span with ins := NMap.set s.span.ins k { y with applied := h.seq } } }
  else if (y.applied + 2 ^ 32 - h.seq % 2 ^ 32) % 2 ^ 32 < 64 then
    let s1 := bump s ctSpanDup 1
    match NMap.find? y.responses h.seq with
    | some p => routeSend s1 h.src h.channel p
    | none => s1
  else spanBad s

/-- A request that arrives on a port: the Tollgate's checks before anything acts on it (16 R354). -/
def requestIn (s : State) (port : Nat) (h : SpanHdr) (opcode : Nat) (data : List Byte) (apply : State → State) : State :=
  if !(spanLive s port) then s
  else if requestBad h opcode || h.length != (if opcode = 2 then h.length else data.length) then spanBad s
  else if h.dst != deviceId s then forward s h data
  else inOrder s h (fun s =>
    if NMap.has s.ctxs h.context then apply s else answerPeer s h 3 [])

/-- The access goes to the Deck at once or to host memory over Kiduner; its answer follows its effect (16 R350). -/
def putApply (s : State) (h : SpanHdr) (data : List Byte) : State :=
  match admits s h 1 h.length with
  | none => answerPeer s h 2 []
  | some flags =>
    if isDeck s h.address then
      let s1 := deckWriteFor s (.peer h false) (gLocal h.address) data
      if heldParts s s1 = 0 then answerPeer s1 h 0 [] else s1
    else issue s (accWrite s (.peer h (bitAt flags 3)) h.context h.address data)

def getApply (s : State) (h : SpanHdr) : State :=
  match admits s h 0 h.length with
  | none => answerPeer s h 2 []
  | some flags =>
    if isDeck s h.address then
      let a := gLocal h.address
      let bad := (blocksOf a h.length).filter (fun b => badAt s (b * 64))
      let s1 := bad.foldl (fun s b => blockRead s b 4) s
      if bad.any (fun b => (twinOf s (b * 64)).elim true (badAt s)) then answerPeer s1 h 4 []
      else answerPeer s1 h 0 (deckRead s1 a h.length)
    else issue s (accRead s (.peer h (bitAt flags 3)) h.context h.address h.length)

def atomicApply (s : State) (h : SpanHdr) (data : List Byte) : State :=
  if h.address % 8 != 0 || h.length != 16 then answerPeer s h 2 []
  else match admits s h 2 8 with
    | none => answerPeer s h 2 []
    | some _ =>
      if isDeck s h.address then
        let old := cellValue s h.address
        answerPeer (cellOp s h.address h.op (leAt data 0 8) (leAt data 8 8)) h 0 (natLE old 8)
      else answerPeer s h 2 []

def execPutRequest (port : Fin 8) (hdr : SpanHdr) (data : List Byte) (s : State) : Host.Outcome State Fault Refusal :=
  finish (requestIn s port hdr 1 data (fun s => putApply s hdr data))

def execGetRequest (port : Fin 8) (hdr : SpanHdr) (s : State) : Host.Outcome State Fault Refusal :=
  finish (requestIn s port hdr 2 [] (fun s => getApply s hdr))

def execAtomicRequest (port : Fin 8) (hdr : SpanHdr) (data : List Byte) (s : State) :
    Host.Outcome State Fault Refusal :=
  finish (requestIn s port hdr 3 data (fun s => atomicApply s hdr data))

/-! ### Responses -/

/-- A response to a request of this device (16 R353, R355). -/
def responseIn (s : State) (port : Nat) (h : SpanHdr) (opcode : Nat) (data : List Byte) : State :=
  if !(spanLive s port) then s
  else if h.opcode != opcode || 4 < h.op || 12 < h.hops then spanBad s
  else if h.dst != deviceId s then forward s h data
  else
    let k := outKey h.src h.channel
    let o := NMap.getD s.span.outs k SpanOut.fresh
    match List.find? (fun q => q.seq == h.seq && q.hdr.opcode + 0x1F == opcode) o.open_ with
    | none => spanBad s
    | some q =>
      let good := h.op == 0
      if good && opcode == 0x21 && data.length != q.hdr.length || good && opcode == 0x22 && data.length != 8 then spanBad s
      else
        let o1 := { o with open_ := o.open_.filter (fun r => r.seq != h.seq) }
        let s1 := { s with span := { s.span with outs := NMap.set s.span.outs k o1 } }
        accDone (nextWaiting s1 k) q.acc h.op data

def execPutDone (port : Fin 8) (hdr : SpanHdr) (s : State) : Host.Outcome State Fault Refusal :=
  finish (responseIn s port hdr 0x20 [])

def execGetData (port : Fin 8) (hdr : SpanHdr) (data : List Byte) (s : State) : Host.Outcome State Fault Refusal :=
  finish (responseIn s port hdr 0x21 data)

def execAtomicDone (port : Fin 8) (hdr : SpanHdr) (data : List Byte) (s : State) : Host.Outcome State Fault Refusal :=
  finish (responseIn s port hdr 0x22 data)

def execMergeDone (port : Fin 8) (hdr : SpanHdr) (s : State) : Host.Outcome State Fault Refusal :=
  finish (responseIn s port hdr 0x23 [])

/-! ### Resends -/

/-- Send every unanswered request of a channel again, in ascending seq, by the mapping in force (16 R353). -/
def resendChannel (s : State) (k : Nat) : State :=
  let o := NMap.getD s.span.outs k SpanOut.fresh
  let dst := k / 8
  let ports := portsTo s dst
  let port := if ports.isEmpty then 255 else ports.getD (k % 8 % ports.length) 0
  let o1 := { o with open_ := o.open_.map (fun q => { q with port := port, issued := now s }) }
  let s1 := { s with span := { s.span with outs := NMap.set s.span.outs k o1 } }
  (o.open_.filter (fun q => !((NMap.find? s.kid.accs q.acc).elim false (accLate s)))).foldl (fun s q =>
    let s2 := event (bump s ctSpanResend 1) evSpan 3
    if port = 255 then s2
    else spanSend s2 port { hdr := spanHdrBytes { q.hdr with resend := true }, data := q.data }) s1

/-- SPAN_RESEND: after SPAN_RESEND_TICKS without a response, or when the channel's port has left ACTIVE (16 R353). -/
def execSpanResend (dst channel : Nat) (s : State) : Host.Outcome State Fault Refusal :=
  let k := outKey dst (channel % 8)
  let o := NMap.getD s.span.outs k SpanOut.fresh
  if o.open_.any (fun q => decide (q.issued + rwGet s rwResend ≤ now s) ||
      (getSpanLink s q.port).st != .active) then ok (resendChannel s k)
  else ok s

/-- A PUT that is interrupted had its data written as it arrived, as far as it would have been applied next (16 R352). -/
def landPulled (s : State) (port : Nat) : State :=
  match (getSpanLink s port).pulling with
  | [] => s
  | q :: _ =>
    let h := q.1
    let y := NMap.getD s.span.ins (inKey h.src h.channel) spanFresh
    if h.opcode = 1 ∧ h.dst = deviceId s ∧ h.seq = (y.applied + 1) % 2 ^ 32 ∧ NMap.has s.ctxs h.context ∧ q.2 ≠ [] ∧
        (admits s h 1 h.length).isSome then
      if isDeck s h.address then deckWriteFor s (.free h.context) (gLocal h.address) q.2
      else issue s (accWrite s (.free h.context) h.context h.address q.2)
    else s

/-- RETRAIN: when one frame was requested 8 times without being accepted (14 R307). -/
def execRetrain (port : Fin 9) (s : State) : Host.Outcome State Fault Refusal :=
  let l := getLink s port
  if linkUp l && decide (8 ≤ l.requests) then
    let s1 := enterRetrain (if port.val = 0 then s else landPulled s (port - 1)) port
    if port.val = 0 then ok (event (bump s1 ctKidRetrain 1) evKid 0) else ok (event s1 evSpan 0)
  else ok s

/-- SPAN_PORT_DOWN: a port leaves ACTIVE; partly received requests are abandoned and its channels remap and resend
(16 R351 to R353). -/
def execSpanPortDown (port : Fin 8) (s : State) : Host.Outcome State Fault Refusal :=
  let l := getSpanLink s port
  if l.st != .active then ok s
  else
    let s1 := event (enterRetrain (landPulled s port) (port + 1)) evSpan 0
    let ks := (NMap.keys s1.span.outs).filter (fun k =>
      (NMap.getD s1.span.outs k SpanOut.fresh).open_.any (fun q => q.port == port.val))
    ok (ks.foldl resendChannel s1)

end Sys2Proof.Machine
end

