-- ==== Sys2Proof/Machine/Versions.lean ====
section
/-!
DEFINITION. Table versions: TABLE_SWITCH with its checks, leaves and roots, VERSION_COMMIT with its promotions and
backing copies, and the retirement of a version (08 R172 to R174; 09 R178, R198 to R200; 10 R220, R221; 13 R289, R290;
15 R331).
-/

namespace Sys2Proof.Machine

open Sys2Proof

/-! ### Roots (13 R289) -/

def merkleLevel : List (List Byte) → List (List Byte)
  | a :: b :: rest => blake3 (1#8 :: (a ++ b)) :: merkleLevel rest
  | xs => xs

def merkleFuel : Nat → List (List Byte) → List Byte
  | 0, xs => xs.headD []
  | _, [x] => x
  | f + 1, xs => merkleFuel f (merkleLevel xs)

/-- The version root of a table from its leaves (13 R289). -/
def rootOf (tableId version rowCount rowLen groups : Nat) (leaves : List (List Byte)) : List Byte :=
  blake3 (2#8 :: (natLE tableId 8 ++ natLE version 8 ++ natLE rowCount 8 ++ natLE rowLen 2 ++ natLE groups 4 ++
    merkleFuel 40 leaves))

/-- Bytes that a root hashes, over its leaves (13 R289, R297). -/
def rootHashed (groups : Nat) : Nat := 65 * (groups - 1) + 63

/-! ### The checks of a TABLE_SWITCH (R178) -/

/-- Format tags of row groups (R179). -/
def rowTag (f : Nat) : Bool := fmtScaled f || f == fFp16 || f == fBf16 || f == fFp32

/-- A field of a table descriptor breaks R177. -/
def tdescBad (b : List Byte) : Bool :=
  let t := parseTDesc b
  leAt b 0 4 != 0x42544C49 || leAt b 4 4 != 0 || t.rowCount = 0 || decide (2 ^ 40 < t.rowCount) || t.rowLen = 0 ||
  decide (4096 < t.rowLen) || !(rowTag t.dflt) || decide (2 < bitsAt (leAt b 27 1) 0 4) ||
  decide (2 * ceilDiv t.rowLen 32 < t.eRow) || decide (4 ≤ leAt b 30 2) || t.dir % 64 != 0 ||
  t.groups != ceilDiv t.rowCount 4096 || leAt b 78 2 != 0 || !(allZero (slice b 80 48)) || !(allZero (slice b 160 96))

/-- An entry of a new directory breaks R178, R179, R180 or R200; `old` is the entry of the version in force. -/
def dentryBad (s : State) (c : Nat) (x : Ctx) (t : TDesc) (b : List Byte) (old : Option DEntry) : Bool :=
  let e := parseEntry b
  let bt := e.backing / 2 ^ 62
  !(rowTag e.fmt) || decide (8 ≤ leAt b 18 1) || leAt b 19 1 != 0 || leAt b 26 2 != 0 ||
  e.stride != rowStride e.fmt t.rowLen t.eRow ||
  !((e.state == gResident && e.tier == 0) || (e.state == gTail && (e.tier == 1 || e.tier == 2))) ||
  !(locationOk s c x e.loc e.size) || !(bt == 1 || bt == 2) || !(locationOk s c x e.backing (backingExtent s e).2) ||
  (e.inherited && (match old with
    | some o => o.loc != e.loc || o.backing != e.backing || o.fmt != e.fmt || o.stride != e.stride ||
        (o.state != gResident && o.state != gTail)
    | none => true))

/-- A Deck extent lies inside a readable range of a context. -/
def deckRangeOk (s : State) (x : Ctx) (write : Bool) (a n : Nat) : Bool := rangeAllows x write (gAddr (deviceId s) a) n

/-- A TABLE_SWITCH is refused (R178). -/
def switchBad (s : State) (c : Nat) (x : Ctx) (old : Option Version) (a : Nat) : Bool :=
  let b := deckRead s a 256
  let t := parseTDesc b
  tdescBad b || decide (deckTop < t.dir + 64 * t.groups) ||
  (match old with
    | some o => let u := tdesc s o.desc; t.tableId != u.tableId || decide (t.version ≤ u.version)
    | none => false) ||
  (List.range t.groups).any (fun g => dentryBad s c x t (deckRead s (t.dir + 64 * g) 64)
    (old.bind (fun o => let u := tdesc s o.desc; if g < u.groups then some (dentry s u g) else none)))

/-! ### TABLE_SWITCH -/

/-- The groups of a new directory that are not inherited. -/
def freshGroups (s : State) (t : TDesc) : List (Nat × DEntry) :=
  ((List.range t.groups).map (fun g => (g, dentry s t g))).filter (fun p => !p.2.inherited)

/-- The extents of fresh groups that lie outside the Deck. -/
def freshExtents (s : State) (t : TDesc) : List (Nat × Nat) :=
  (freshGroups s t).filterMap (fun p => if inDeckTier p.2 then none else some (locAddr s p.2.loc, 4096 * p.2.stride))

/-- A new group cannot be read whole, so that no leaf of it can be computed (log entry 26). -/
def freshUnreadable (s : State) (t : TDesc) : Bool :=
  (freshGroups s t).any (fun p => inDeckTier p.2 && extentBad s (gLocal (locAddr s p.2.loc)) (4096 * p.2.stride))

/-- The leaves of the groups that are not inherited, and the root, are written (13 R290). -/
def writeLeaves (s : State) (mem : Mem) (a : Nat) : State :=
  let t := tdesc s a
  let fresh := freshGroups s t
  let s := bump s ctDigest ((fresh.map (fun p => leafHashed p.2.stride)).sum + rootHashed t.groups)
  let s1 := fresh.foldl (fun s p =>
    let e := p.2
    let n := 4096 * e.stride
    let bs := if inDeckTier e then deckRead s (gLocal (locAddr s e.loc)) n else memTake zeroByte mem (locAddr s e.loc) n
    deckWrite s (t.dir + 64 * p.1) (entryBytes { e with leaf := leafOf t.tableId p.1 e.fmt e.stride bs })) s
  let leaves := (List.range t.groups).map (fun g => (dentry s1 t g).leaf)
  deckWrite s1 (a + 128) (rootOf t.tableId t.version t.rowCount t.rowLen t.groups leaves)

/-- A version enters a slot: one atomic write of base and version; the version before stays until it is retired
(R198, R199), and the hits of the table are halved (R193). -/
def switchIn (s : State) (set k id ctx a : Nat) (by_ : Option (Nat × Nat × Nat)) : State :=
  let t := tdesc s a
  let s1 := match currentVer s set k with
    | some (v, _) => modVer s v (fun y => { y with current := false, by_ := by_ })
    | none => s
  let y : Version := {
    setBase := set, slot := k, desc := a, version := t.version, tableId := t.tableId, ctx := ctx, current := true
    retired := false, by_ := none, freeTail := [] }
  halveHits (writeSlot { s1 with tables := { s1.tables with versions := NMap.set s1.tables.versions id y } } set k a t.version) id

def newVersionId (s : State) : Nat × State :=
  (s.tables.nextVer, { s with tables := { s.tables with nextVer := s.tables.nextVer + 1 } })

def switchRefused (s : State) (c r : Nat) (raw : List Byte) (detail : Nat) : State :=
  event (completeHead s c r raw 0x10 detail) evEmb 3

/-- A VERSION_COMMIT of the slot is under way. -/
def commitOf (s : State) (set k : Nat) : Option (Nat × Commit) :=
  List.find? (fun p => match getVer s p.2.ver with
    | some v => v.setBase == set && v.slot == k
    | none => false) s.tables.commits

/-- The Tollgate reads the groups outside the Deck that a new directory names. -/
def askFresh (s : State) (c r : Nat) (miss : List (Nat × Nat)) : State :=
  miss.foldl (fun s g => issueReads (modRing s c r (fun y => { y with
    asked := y.asked ++ [g], waiting := y.waiting + (pieces g.1 g.2).length })) (.swtch c r) c g.1 g.2) s

/-- TABLE_SWITCH: after the checks of R178 and the leaves of 13 R290, one atomic write puts the version in the slot; the
command completes when the version before is retired, or at once when there is none (R198, R199). -/
def execTableSwitch (ctx ring : Nat) (s : State) : Host.Outcome State Fault Refusal :=
  finish (command s ctx ring 0xD [(32, 36), (40, 47)] noArg (fun x raw _ =>
    let h := leAt raw 32 4
    let k := leAt raw 36 1
    let a := leAt raw 40 8
    if x.tensorTable ≤ h then completeHead s ctx ring raw 0x11 32
    else match tableSetAt s x h, getRing s ctx ring with
    | some set, some y =>
      if (commitOf s set k).isSome || y.waiting != 0 then s
      else if a % 256 != 0 || deckTop < a + 256 then switchRefused s ctx ring raw 40
      else if switchBad s ctx x ((currentVer s set k).map (·.2)) a || y.memFail then switchRefused s ctx ring raw 0xFFFFFFFF
      else
        let t := tdesc s a
        let miss := (freshExtents s t).filter (fun g => !(y.asked.contains g))
        if !miss.isEmpty then askFresh s ctx ring miss
        else if freshUnreadable s t then switchRefused s ctx ring raw 0xFFFFFFFF
        else
          let (id, s1) := newVersionId (writeLeaves s y.mem a)
          if (currentVer s set k).isSome then startCommand (switchIn s1 set k id ctx a (some (ctx, ring, y.consumed))) ctx ring raw
          else completeHead (switchIn s1 set k id ctx a none) ctx ring raw 0 0
    | _, _ => completeHead s ctx ring raw 0x11 32))

/-! ### Retirement (R199, R200) -/

/-- The version that replaced another. -/
def nextVersion (s : State) (v : Nat) (x : Version) : Option Nat :=
  (List.find? (fun p => decide (v < p.1) && p.2.setBase == x.setBase && p.2.slot == x.slot) s.tables.versions).map (·.1)

/-- The memory of a retired version is released, and the command that replaced it completes; a group that migrates reaches step 6
of its migration first (R199, R197; log entry 180). -/
def releaseVersion (s : State) (ver : Nat) (x : Version) : State :=
  if s.tables.migrations.any (fun p => p.2.ver == ver && p.2.phase != 0) then s
  else match x.by_ with
    | some (c, r, i) => completeDesc (modVer s ver (fun y => { y with by_ := none })) c r i 0 0
    | none => s

/-- VERSION_RETIRE: a version out of its slot that nothing pins is retired; the flags of its successor's inherited groups
are cleared, its staged rows go, and the command that replaced it completes (R192, R199, R200). -/
def execVersionRetire (ver : Nat) (s : State) : Host.Outcome State Fault Refusal :=
  match getVer s ver with
  | none => ok s
  | some x =>
    if x.current || pinned s ver then ok s
    else if x.retired then finish (releaseVersion s ver x)
    else
      let s1 := match nextVersion s ver x with
        | some w => match getVer s w with
          | some y => (List.range (tdesc s y.desc).groups).foldl (fun s g =>
              modEntry s w g (fun e => { e with flags := withBit e.flags 0 false })) s
          | none => s
        | none => s
      let s2 := modVer s1 ver (fun y => { y with retired := true })
      let s3 := { s2 with ctxs := s2.ctxs.map (fun c => (c.1, { c.2 with
        stage := c.2.stage.filter (fun e => !(e.table == x.tableId && e.version == x.version)) })) }
      finish (releaseVersion (event s3 evEmb 4) ver x)

/-! ### VERSION_COMMIT: acceptance (R220 step 1, 15 R331) -/

def commitNeed (_ got : List Byte) : Nat := if got.length < 64 then 64 else 64 + roundUp (2 * min 1023 (leAt got 32 2)) 64

def commitQueues (b : List Byte) : List Nat := (List.range (leAt b 32 2)).map (fun k => leAt b (64 + 2 * k) 2)

/-- A pool lies inside a writable range of a context (15 R331). -/
def poolInRange (s : State) (c : Nat) (x : Ctx) (loc n : Nat) : Bool :=
  if loc / 2 ^ 62 = 2 then causewayOk s c x loc n else rangeAllows x true (locAddr s loc) n

/-- What the argument block of a VERSION_COMMIT breaks: a status and an offset (15 R331). -/
def commitBad (s : State) (c : Nat) (x : Ctx) (set k : Nat) (b : List Byte) : Option (Nat × Nat) :=
  let n := leAt b 32 2
  let qs := commitQueues b
  let bad := firstBad ([(0, leAt b 0 8 % 256 != 0), (16, leAt b 16 8 / 2 ^ 62 != 1 && leAt b 16 8 / 2 ^ 62 != 2),
      (32, n = 0 || decide (1023 < n)), (34, !(allZero (slice b 34 6))), (40, leAt b 40 8 % 256 != 0),
      (56, leAt b 56 8 != 0)] ++
    (List.range n).map (fun i => (64 + 2 * i, match NMap.find? x.queues (qs.getD i 0) with
      | some m => !m.rows || m.dying || handleBase s x m.tableSet != some set || m.table != k ||
          (qs.take i).contains (qs.getD i 0)
      | none => true)) ++
    [(64 + 2 * n, !(allZero (b.drop (64 + 2 * n))))])
  match bad with
  | some o => some (0x10, o)
  | none =>
    let da := leAt b 0 8
    let dn := leAt b 8 8
    let ga := leAt b 40 8
    let gn := leAt b 48 8
    if !(inMirrored s da dn) || !(deckRangeOk s x true da dn) then some (0x11, 0)
    else if !(poolInRange s c x (leAt b 16 8) (leAt b 24 8)) then some (0x11, 16)
    else if gn != 0 && (!(inPlain s ga gn) || !(deckRangeOk s x true ga gn)) then some (0x11, 40)
    else none

/-- A chain holds a ROW_APPLY of one of these queues with a step above `c`. -/
def applyAbove (img : List Byte) (qs : List Nat) (c : Nat) : Bool :=
  (List.range (chainOps img)).any (fun k =>
    let o := chainOp img k
    opCode o == 0x23 && qs.contains (leAt o 24 2) && decide (c < leAt o 28 4))

/-- Live items of ROW_APPLY descriptors of later steps of named queues. -/
def lateApplies (s : State) (c : Nat) (qs : List Nat) (step : Nat) : List (Nat × Item) :=
  s.sched.items.filter (fun p => p.2.ctx == c && applyAbove (itemImage s p.2) qs step)

/-- An item of a ROW_APPLY of a step above `step` was dispatched for one of the queues. -/
def startedPast (s : State) (c : Nat) (qs : List Nat) (step : Nat) : Bool :=
  qs.any (fun q => (getQueue s c q).elim false (fun m => decide (step + 1 < m.started)))

/-- Accept a VERSION_COMMIT: later ROW_APPLY descriptors are refused, and the successor has its number. -/
def startCommit (s : State) (c r : Nat) (y : Ring) (raw b : List Byte) (v : Nat) : State :=
  let qs := commitQueues b
  let step := leAt raw 40 4
  let late := lateApplies s c qs step
  if startedPast s c qs step then completeHead s c r raw 0x10 0xFFFFFFFF
  else
    let s1 := (late.filter (fun p => p.2.st == .pending || p.2.st == .ready)).foldl (fun s p => skipItem s p.1 .refused) s
    let (id, s2) := newVersionId s1
    let m : Commit := {
      ctx := c, ring := r, idx := y.consumed, ver := v, step := step, queues := qs, phase := 0
      descBase := leAt b 0 8, descLen := leAt b 8 8, poolBase := leAt b 16 8, poolLen := leAt b 24 8
      groupBase := leAt b 40 8, groupLen := leAt b 48 8, writes := 0, since := 0, newVer := id, frame := [], asked := []
      failed := [], plan := [], deferred := [], block := 0 }
    startCommand { s2 with tables := { s2.tables with commits := NMap.set s2.tables.commits s2.heal.nextJob m }
                           heal := { s2.heal with nextJob := s2.heal.nextJob + 1 } } c r raw

/-! ### VERSION_COMMIT: its groups (R220 steps 2 to 5) -/

/-- The groups of a version with their entries. -/
def entriesOf (s : State) (t : TDesc) : List (Nat × DEntry) := (List.range t.groups).map (fun g => (g, dentry s t g))

/-- A group is due for promotion (08 R173, R174). -/
def promotionDue (t : TDesc) (e : DEntry) : Bool :=
  e.state != gLost && t.threshold != 0 && decide (t.threshold ≤ e.sat) && (promoteTo? e.fmt).isSome

def changesGroup (t : TDesc) (e : DEntry) : Bool := e.state != gLost && (e.dirty || promotionDue t e)

/-- The stride of a group after its promotion. -/
def promotedStride (t : TDesc) (e : DEntry) : Nat := rowStride ((promoteTo? e.fmt).getD e.fmt) t.rowLen t.eRow

def backingLen (stride : Nat) : Nat := 64 + checkArrayLen 0 (groupSize stride) + groupSize stride

/-- What a backing copy takes of the Causeway pool: NVMe places keep to 4,096 bytes (17 R379). -/
def poolRoom (loc n : Nat) : Nat := if loc / 2 ^ 62 = 2 then roundUp n 4096 else n

/-- Causeway bytes for every dirty group and every group due for promotion (R220 step 2). -/
def commitRoom (s : State) (t : TDesc) (pool : Nat) : Nat :=
  (((entriesOf s t).filter (fun p => changesGroup t p.2)).map (fun p =>
    poolRoom pool (backingLen (if promotionDue t p.2 then promotedStride t p.2 else p.2.stride)))).sum

/-- Extents outside the Deck that the commit reads. -/
def commitReads (s : State) (t : TDesc) : List (Nat × Nat) :=
  ((entriesOf s t).filter (fun p => changesGroup t p.2 && !(inDeckTier p.2))).map (fun p => (locAddr s p.2.loc, p.2.size))

/-- Groups that the commit reads and cannot: they are rebuilt first (R221). -/
def commitUnread (s : State) (t : TDesc) (m : Commit) : List Nat :=
  ((entriesOf s t).filter (fun p => changesGroup t p.2 &&
    (if inDeckTier p.2 then extentBad s (gLocal (locAddr s p.2.loc)) p.2.size
     else m.failed.any (fun a => decide (locAddr s p.2.loc ≤ a) && decide (a < locAddr s p.2.loc + p.2.size))))).map (·.1)

/-- Rows of group `g`; the slots past them hold zeros (09 R179). -/
def rowsInGroup (t : TDesc) (g : Nat) : Nat := min 4096 (t.rowCount - 4096 * g)

/-- Every row of a group re-encoded in the next format with RNE (08 R173). -/
def promoteBytes (t : TDesc) (e : DEntry) (g : Nat) (bs : List Byte) : List Byte :=
  let f := (promoteTo? e.fmt).getD e.fmt
  let st := promotedStride t e
  padTo 256 ((List.range (rowsInGroup t g)).flatMap (fun j =>
    let w := (decodeRow e.fmt t.rowLen e.stride (slice bs (j * e.stride) e.stride)).1
    slice (encodeRow f (fun _ => .rne) t.maxEsc t.escShift t.eRow w).bytes 0 st) ++ zeros ((4096 - rowsInGroup t g) * st))

/-- The malformed blocks that a promotion reads (08 R164). -/
def malformedIn (t : TDesc) (e : DEntry) (g : Nat) (bs : List Byte) : Nat :=
  ((List.range (rowsInGroup t g)).map (fun j => (decodeRow e.fmt t.rowLen e.stride (slice bs (j * e.stride) e.stride)).2)).sum

/-- What the walk over the changed groups carries: the state, bytes taken of the Causeway pool and of the group pool, the
plan and the groups whose promotion is deferred. -/
structure PlanAcc where
  s : State
  pool : Nat
  groups : Nat
  plan : List NewGroup
  deferred : List Nat

/-- Promote or keep one changed group, write its backing copy and compute its leaf (R220 steps 3 to 5). -/
def planGroup (job : Nat) (m : Commit) (t : TDesc) (p : PlanAcc) (g : Nat) (e : DEntry) : PlanAcc :=
  let s := p.s
  let old := if inDeckTier e then deckRead s (gLocal (locAddr s e.loc)) e.size else memTake zeroByte m.frame (locAddr s e.loc) e.size
  let due := promotionDue t e
  let size := groupSize (promotedStride t e)
  let up := due && decide (p.groups + size ≤ m.groupLen)
  if !up && !e.dirty then
    { p with s := event (bump s ctDeferred 1) evNum 1, deferred := p.deferred ++ [g] }
  else
    let bs := if up then promoteBytes t e g old else old
    let fmt := if up then (promoteTo? e.fmt).getD e.fmt else e.fmt
    let st := if up then promotedStride t e else e.stride
    let loc := mkLoc 0 (m.groupBase + p.groups)
    let s1 := if up then countMalformed (event (bump (deckWrite s (m.groupBase + p.groups) bs) ctPromoted 1) evNum 0) (malformedIn t e g old)
      else if due then event (bump s ctDeferred 1) evNum 1 else s
    let back := m.poolBase + p.pool
    let fr := frameOf 0 0 t.tableId ((t.version + 1) % 2 ^ 32 * 2 ^ 32 + g) bs
    let s1 := bump (bump (bump s1 ctBytesIn bs.length) ctBytesOut fr.length) ctDigest (leafHashed st)
    let s2 := issueWrites (modCommit s1 job (fun m => { m with writes := m.writes + (pieces 0 fr.length).length }))
      (.backing job) m.ctx (locAddr s back) fr
    { s := s2, pool := p.pool + poolRoom m.poolBase fr.length, groups := p.groups + (if up then size else 0)
      plan := p.plan ++ [{ group := g, fmt := fmt, stride := st, loc := if up then some loc else none, backing := back,
                           leaf := leafOf t.tableId g fmt st bs }]
      deferred := if due && !up then p.deferred ++ [g] else p.deferred }

/-! ### VERSION_COMMIT: the successor (R220 steps 6 and 7) -/

/-- The successor's entry of a group. -/
def successorEntry (m : Commit) (g : Nat) (e : DEntry) : DEntry :=
  let sat := if m.deferred.contains g then e.sat else 0
  match List.find? (fun p => p.group == g) m.plan with
  | some p =>
    { e with
      loc := p.loc.getD e.loc, state := if p.loc.isSome then gResident else e.state, backing := p.backing, fmt := p.fmt
      stride := p.stride, leaf := p.leaf, sat := sat, flags := withBit (withBit e.flags 0 false) 2 false }
  | none =>
    if e.state = gLost then
      { e with sat := sat, leaf := zeros 32, flags := withBit (withBit e.flags 0 false) 2 false }
    else { e with sat := sat, flags := withBit (withBit e.flags 0 true) 2 false }

/-- The successor's descriptor and directory, in the descriptor pool. -/
def successorBytes (s : State) (m : Commit) (old : Nat) : List Byte :=
  let b := deckRead s old 256
  let t := parseTDesc b
  let es := (entriesOf s t).map (fun p => successorEntry m p.1 p.2)
  let version := (t.version + 1) % 2 ^ 64
  let root := rootOf t.tableId version t.rowCount t.rowLen t.groups (es.map (fun e => slice e.leaf 0 32))
  b.take 48 ++ natLE version 8 ++ slice b 56 8 ++ natLE (m.descBase + 256) 8 ++ slice b 72 56 ++ root ++ slice b 160 96 ++
  es.flatMap entryBytes

/-- Groups that the successor holds as LOST, each with its rows (R221, 18 R399). -/
def commitLost (s : State) (v : Nat) (t : TDesc) : List (Nat × Nat × Nat) :=
  ((entriesOf s t).filter (fun p => p.2.state == gLost)).map (fun p => (v, p.1, min 4096 (t.rowCount - 4096 * p.1)))

/-- End a commit with a status; pins of a successor that never came go back to the version in force. -/
def endCommit (s : State) (job : Nat) (m : Commit) (status : Nat) (placed : Bool) : State :=
  let s1 := { s with tables := { s.tables with commits := NMap.erase s.tables.commits job } }
  let s2 := if placed then s1 else { s1 with ctxs := s1.ctxs.map (fun c => (c.1, { c.2 with
    rings := c.2.rings.map (fun r => (r.1, { r.2 with descs := r.2.descs.map (fun d => (d.1, { d.2 with
      pins := d.2.pins.map (fun v => if v = m.newVer then m.ver else v) })) })) })) }
  completeDesc s2 m.ctx m.ring m.idx status (if status = 0x11 then 0xFFFFFFFF else 0)

/-- Place the successor in the slot and write the COMMIT block (R220 steps 6 and 7, R211). -/
def placeSuccessor (s : State) (job : Nat) (m : Commit) (v : Version) (t : TDesc) : State :=
  let lost := commitLost s m.ver t
  let s := bump s ctDigest (rootHashed t.groups)
  let s1 := switchIn (deckWrite s m.descBase (successorBytes s m v.desc)) v.setBase v.slot m.newVer v.ctx m.descBase none
  let s2 := modDesc (event s1 evMerge 4) m.ctx m.ring m.idx (fun d => { d with lostGroups := lost })
  let q := m.queues.headD 0
  let st := (stateVer s m.ver).bind (getVer s)
  let block := ((NMap.find? s2.ctxs m.ctx).map (fun x => x.journal.nextBlock)).getD 0
  let s3 := modCommit s2 job (fun m => { m with phase := 2, block := block })
  match getQueue s m.ctx q with
  | none => s3
  | some k => writeBlock s3 m.ctx 2 q m.step t.tableId [] 1
      (blockHeader 2 k (paramsAt k m.step) t.tableId t.upd m.step 0 k.elems ((st.map (·.tableId)).getD 0))

/-! ### VERSION_COMMIT: its steps -/

/-- A group of the table is MIGRATING or REBUILDING, or a rebuild of one waits (R221, 08 R174). -/
def tableBusy (s : State) (m : Commit) (t : TDesc) : Bool :=
  (entriesOf s t).any (fun p => p.2.state == gMigrating || p.2.state == gRebuilding) ||
  s.tables.migrations.any (fun q => q.2.ver == m.ver && decide (q.2.phase ≤ 3))

/-- Every named queue has applied the step (R220 step 1). -/
def stepApplied (s : State) (m : Commit) : Bool :=
  m.queues.all (fun q => match getQueue s m.ctx q with
    | some k => decide (m.step < k.toApply)
    | none => true)

/-- The waiting part of a commit: its step, its rebuilds and flips, and the groups that it reads. -/
def commitGather (s : State) (job : Nat) (m : Commit) (t : TDesc) : State :=
  if !(stepApplied s m) || tableBusy s m t || m.writes != 0 then s
  else if m.descLen < 256 + 64 * t.groups || m.poolLen < commitRoom s t m.poolBase then endCommit s job m 0x11 false
  else
    let bad := commitUnread s t m
    let miss := (commitReads s t).filter (fun g => !(m.asked.contains g))
    if !bad.isEmpty then
      bad.foldl (fun s g => startRebuild s m.ver g none) (modCommit s job (fun m => { m with asked := [], failed := [], frame := [] }))
    else if !miss.isEmpty then
      miss.foldl (fun s g => issueReads (modCommit s job (fun m => { m with
        asked := m.asked ++ [g], writes := m.writes + (pieces g.1 g.2).length })) (.backing job) m.ctx g.1 g.2) s
    else
      let p := ((entriesOf s t).filter (fun q => changesGroup t q.2)).foldl
        (fun p q => planGroup job m t p q.1 q.2) { s := s, pool := 0, groups := 0, plan := [], deferred := [] }
      modCommit p.s job (fun m => { m with phase := 1, since := now s, plan := p.plan, deferred := p.deferred, frame := [] })

/-- One step of a commit under way. -/
def commitStep (s : State) (job : Nat) (m : Commit) (v : Version) : State :=
  let t := tdesc s v.desc
  if m.phase = 0 then commitGather s job m t
  else if m.phase = 1 then
    let limit := ((NMap.find? s.ctxs m.ctx).map (·.timeout)).getD (rwGet s rwTimeout)
    if m.writes != 0 then
      if m.since + limit ≤ now s then endCommit (orphan s (· == .backing job)) job m 0x21 false else s
    else if tableBusy s m t then s
    else placeSuccessor s job m v t
  else
    let open_ := match NMap.find? s.ctxs m.ctx with
      | some x => x.journal.frames.any (fun f => f.2.block == m.block && f.2.kind == 2 && !f.2.acked)
      | none => false
    if open_ then s
    else
      let lost := match getDesc s m.ctx m.ring m.idx with
        | some d => !d.lostGroups.isEmpty
        | none => false
      endCommit s job m (if lost then 0x30 else 0) true

/-- VERSION_COMMIT: closes a training version and hands its successor to the slot (R220, R221; 15 R331). -/
def execVersionCommit (ctx ring : Nat) (s : State) : Host.Outcome State Fault Refusal :=
  match List.find? (fun p => p.2.ctx == ctx && p.2.ring == ring) s.tables.commits with
  | some (job, m) => match getVer s m.ver with
    | some v => if s.heal.outOfService || s.power.off then ok s else finish (commitStep s job m v)
    | none => finish (endCommit s job m 0x10 false)
  | none =>
    finish (command s ctx ring 0xE [(32, 36), (40, 43)] commitNeed (fun x raw b =>
      match tableNamed s x raw, getRing s ctx ring with
      | .ok (set, v, _), some y =>
        if (commitOf s set (leAt raw 36 1)).isSome then s
        else match commitBad s ctx x set (leAt raw 36 1) b with
          | some (st, k) => completeHead s ctx ring raw st (0x80000000 + k)
          | none => startCommit s ctx ring y raw b v
      | .error (st, k), _ => completeHead s ctx ring raw st k
      | _, none => s))

/-- The versions that a descriptor checked now pins of a table set: those in force, or the successor that an accepted
VERSION_COMMIT will place (R199, 10 R220). -/
def pinsOf (s : State) (set : Nat) : List Nat :=
  (currentVers s set).map (fun v => match List.find? (fun p => p.2.ver == v && decide (p.2.phase ≤ 1)) s.tables.commits with
    | some (_, m) => m.newVer
    | none => v)

end Sys2Proof.Machine
end

