-- ==== Sys2Proof/Machine/Submit.lean ====
section
/-!
DEFINITION. CHAIN_INSTALL with its checks (05 R76 to R78, R87), SUBMIT with its checks (15 R326 to R328, 05 R88 and the
operators' chapters), dependences, overflow and the creation of items (04 R59, R68 to R70).
-/

namespace Sys2Proof.Machine

open Sys2Proof

/-! ### Operator rules -/

/-- SIGNAL and WAIT name no operand (05 R92). -/
def signalRule : OpRule :=
  { skip := [0], kinds := [kNone, kNone, kNone, kNone], fmtIn := [0], fmtOut := [0], lengths := []
    named := [(24, 24), (32, 47)]
    check := fun o => firstBad [(20, decide (1 < opCount o)), (24, leAt o 24 1 == 0 || decide (2 < leAt o 24 1))] }

def waitRule : OpRule :=
  { signalRule with check := fun o => firstBad [(20, decide (1 < opCount o)),
      (24, leAt o 24 1 == 0 || decide (2 < leAt o 24 1)), (40, leAt o 24 1 == 1 && leAt o 40 8 != 0)] }

/-- The rules of an opcode; none for a reserved one (05 R86). -/
def ruleOf (code : Nat) : Option OpRule :=
  (List.find? (fun (p : Nat × OpRule) => p.1 == code)
    ([(0x01, decodeRule false), (0x02, decodeRule true), (0x08, projectRule), (0x09, filterRule), (0x0A, hashRule),
      (0x0B, bucketRule), (0x0C, crossRule), (0x0D, normRule), (0x0E, clipRule), (0x10, partitionRule),
      (0x11, joinBuildRule), (0x12, joinProbeRule), (0x13, groupRule), (0x18, sortRule), (0x19, uniqueRule)] ++
     [(0x1A, topkRule), (0x1B, selMergeRule), (0x1C, countMatchRule), (0x1D, paraUpdateRule), (0x20, gatherRule),
      (0x21, gatherPoolRule), (0x22, scatterRule), (0x23, rowApplyRule), (0x28, convertRule), (0x29, quantRule)] ++
     [(0x30, copyRule), (0x31, storeRule), (0x38, compressRule), (0x39, decompressRule), (0x3A, digestRule),
      (0x40, putRule), (0x41, getRule), (0x42, atomicRule), (0x48, signalRule), (0x49, waitRule)])).map (·.2)

/-- An operand reference that R82, R83 or the operator's rule refuses; `readable` lists the chain buffers written so far
when the operand is read. -/
def refBad (r : Nat) (kinds : List Nat) (bufs : Nat) (readable : Option (List Nat)) : Bool :=
  let k := refKind r
  !(kinds.contains k) || bitsAt r 24 3 != 0 || (k == 0 && r != 0) || (k != 1 && refPerItem r) ||
  (k == 2 && decide (bufs ≤ refIndex r)) || (k == 2 && readable.elim false (fun w => !(w.contains (refIndex r)))) ||
  (k == 3 && decide (7 < refIndex r)) || (k == 4 && refIndex r != 0)

/-- src2 of SORT and UNIQUE is a work area, which the operator itself writes before it reads (11 R224, R226). -/
def isWorkArea (o : List Byte) (j : Nat) : Bool := (opCode o == 0x18 || opCode o == 0x19) && j == 2

/-- The first byte of an operator that R87 refuses, with the chain buffers that earlier operators write. -/
def opBad (img : List Byte) (k : Nat) (written : List Nat) : Option Nat :=
  let o := chainOp img k
  match ruleOf (opCode o) with
  | none => some 0
  | some u =>
    match firstBad ([(1, decide (16 ≤ opFlags o) || !(u.skip.contains (opMode o))), (2, !(u.fmtIn.contains (opIn o))),
        (3, !(u.fmtOut.contains (opFmt o)))] ++
        (List.range 4).map (fun j => (4 + 4 * j, refBad (opRef o j) (u.kinds.getD j kNone) (chainBufs img)
          (if j = 3 || isWorkArea o j then none else some written))) ++
        [(20, opCount o == 2 ^ 32 - 1)] ++ u.lengths.map (fun f => (f.1, leAt o f.1 f.2 == 256 ^ f.2 - 1))) with
    | some b => some b
    | none =>
      match opStray o u.named with
      | some b => some b
      | none => if opCode o = 0x49 ∧ leAt o 24 1 = 1 ∧ k ≠ 0 then some 24 else u.check o

/-- A pair GATHER_POOL, STORE_FUSED over the accumulators (09 R184, 12 R260). -/
def fusedPair (a b : List Byte) : Bool :=
  opCode a == 0x21 && refKind (opRef a 3) == 4 && opCode b == 0x31 && refKind (opRef b 0) == 4 &&
  leAt b 24 2 == leAt a 26 2 && opCount b == leAt a 28 4

/-- The first operator byte at which the chain's order of operators breaks a rule (05 R87; 09 R184; 12 R260; 16 R357). -/
def orderBad (img : List Byte) (k : Nat) : Option Nat :=
  let o := chainOp img k
  let later := ((List.range (chainOps img)).filter (fun j => decide (k < j))).map (fun j => opCode (chainOp img j))
  firstBad [
    (0, opCode o == 0x42 && later.any (· != 0x48)),
    (1, opOut o && (refKind (opRef o 3) != 1 || (List.range k).any (fun j => opOut (chainOp img j)))),
    (4, opCode o == 0x31 && refKind (opRef o 0) == 4 && (k == 0 || !(fusedPair (chainOp img (k - 1)) o))),
    (16, opCode o == 0x21 && refKind (opRef o 3) == 4 &&
      (decide (chainOps img ≤ k + 1) || !(fusedPair o (chainOp img (k + 1)))))]

/-- The operators of an image from `k` on, with the chain buffers written so far: the first failing image byte. -/
def opsBad (img : List Byte) : Nat → Nat → List Nat → Option Nat
  | 0, _, _ => none
  | f + 1, k, written =>
    if chainOps img ≤ k then none
    else match (match opBad img k written with | some b => some b | none => orderBad img k) with
      | some b => some (64 + 64 * k + b)
      | none =>
        let d := opRef (chainOp img k) 3
        opsBad img f (k + 1) (if refKind d = 2 then refIndex d :: written else written)

/-- The first byte of a chain image that R87 refuses. -/
def imageBad (img : List Byte) : Option Nat :=
  match firstBad ([(0, chainOps img == 0 || decide (32 < chainOps img)), (1, decide (16 < chainBufs img)), (2, leAt img 2 6 != 0)] ++
      (List.range 16).map (fun i => (8 + 2 * i, decide (chainBufs img ≤ i) && leAt img (8 + 2 * i) 2 != 0)) ++
      [(40, !(allZero (slice img 40 24)))]) with
  | some b => some b
  | none => opsBad img 32 0 []

/-- The bytes of a chain image (05 R76). -/
def imageLen (_ got : List Byte) : Nat :=
  if got.length < 64 || chainOps got == 0 || decide (32 < chainOps got) then 64 else 64 + 64 * chainOps got

/-- CHAIN_INSTALL: a chain id becomes usable once every check of R87 has passed (05 R76 to R78, R83). -/
def execChainInstall (ctx ring : Nat) (s : State) : Host.Outcome State Fault Refusal :=
  finish (command s ctx ring 2 [(32, 33)] imageLen (fun x raw img =>
    let k := leAt raw 32 2
    if 4096 ≤ k || NMap.has x.chains k then completeHead s ctx ring raw 0x10 32
    else match imageBad img with
      | some b => completeHead s ctx ring raw 0x10 (0x80000000 + b)
      | none =>
        if 2 ^ 20 < x.landing + (List.range (chainBufs img)).foldl (fun a i => a + chainBufSize img i) 0 then
          completeHead s ctx ring raw 0x11 (0x80000000 + 8)
        else completeHead (setCtx s ctx { x with chains := NMap.set x.chains k { image := img, removing := false } })
          ctx ring raw 0 0))

/-! ### Operands at the check (05 R88) -/

def opTensor (x : Ctx) (r : Nat) : Option Tensor := if refKind r = 1 then NMap.find? x.tensors (refIndex r) else none

def tensorPageable (x : Ctx) (t : Tensor) : Bool := (NMap.find? x.ranges t.range).elim false (·.pageable)

/-- Where a pageable operand is allowed (12 R252). -/
def pageableOk (x : Ctx) (img : List Byte) (k j : Nat) : Bool :=
  let o := chainOp img k
  k + 1 == chainOps img &&
  ((opCode o == 0x40 && (j == 0 || j == 3)) ||
   (opCode o == 0x41 && j == 0 && (opTensor x (opRef o 3)).elim false (fun t => !(tensorPageable x t))))

/-- The rights that an operand needs: read and write (05 R88; 07 R142; 11 R224). -/
def needsRead (o : List Byte) (j : Nat) : Bool := j != 3 || opCode o == 0x11
def needsWrite (o : List Byte) (j : Nat) : Bool := j == 3 || isWorkArea o j

/-- What R88 refuses of operand `j` of operator `k`, as (status, refused). -/
def operandBad (x : Ctx) (img : List Byte) (k j n : Nat) (deps : List (Nat × Nat × Bool)) (digest : Bool) :
    List (Nat × Bool) :=
  let o := chainOp img k
  let r := opRef o j
  if refKind r = 3 then
    [(0x10, decide (deps.length ≤ refIndex r))]
  else if refKind r != 1 then []
  else match NMap.find? x.tensors (refIndex r) with
    | none => [(0x11, true)]
    | some t =>
      [(0x11, t.dying), (0x11, refPerItem r && decide (t.dims.getD (t.rank - 1) 0 < n)),
       (0x10, needsWrite o j && refPerItem r && t.rank == 1 && fmtSubByte t.fmt),
       (0x11, (needsRead o j && !t.read) || (needsWrite o j && !t.write)),
       (0x10, digest && tensorPageable x t), (0x11, tensorPageable x t && !(pageableOk x img k j))]

/-- The view that an operand is checked against, and those of its slices: a tensor's, or that of a predecessor's output. -/
def copyOperand (s : State) (x : Ctx) (c : Nat) (r n : Nat) (deps : List (Nat × Nat × Bool)) : Option (TView × (Nat → TView)) :=
  if refKind r = 1 then (tensorView x r 0).map (fun v => (v, fun i => (tensorView x r i).getD v))
  else if refKind r = 3 then
    match deps.drop (refIndex r) with
    | (q, i, _) :: _ => (getDesc s c q i).bind (fun d => (predView x d 0).map (fun v => (v, fun j => (predView x d (min j n)).getD v)))
    | [] => none
  else none

/-- What an operand must hold: bytes, held against its extent, or elements of a format, held against the product of its dims
and the bytes of its elements (12 R250). -/
inductive Need where
  | bytes (src n : Nat)
  | elems (src fmt n : Nat)
deriving DecidableEq, Repr

/-- Bytes of a view's elements, packed densely. -/
def TView.denseBytes (v : TView) : Nat :=
  if fmtSubByte v.fmt then packedBytes v.fmt v.count else v.count * elemBytes v.fmt

/-- An operand does not hold what its operator needs (05 R85, R88; 12 R250). -/
def needFails (s : State) (x : Ctx) (c : Nat) (img o : List Byte) (deps : List (Nat × Nat × Bool)) (q : Need) : Bool :=
  let fails := fun (j inBuf : Nat) (f : TView → Bool) =>
    if refKind (opRef o j) = 2 then decide (chainBufSize img (refIndex (opRef o j)) < inBuf)
    else (copyOperand s x c (opRef o j) 1 deps).elim false (fun p => f p.1)
  match q with
  | .bytes j n => fails j n (fun v => decide (v.span < n))
  | .elems j f n => fails j (packedBytes f n) (fun v => decide (v.count < n) || decide (v.denseBytes < packedBytes f n))

/-- What an operator's operands must hold, from its counts, sizes and lengths (05 R85 and the operators' chapters). -/
def operandNeeds (o : List Byte) : List Need :=
  let n := opCount o
  let code := opCode o
  let k := leAt o 26 2
  if code = 0x0B then [.elems 1 (if fmtKeyFloat (opIn o) then fFp32 else fInt64) (leAt o 28 4)]
  else if code = 0x0D then
    let cols := leAt o 25 1
    if leAt o 24 1 = 0 then [.bytes 3 (16 * cols)]
    else if leAt o 24 1 = 1 then
      (if leAt o 28 4 = 0 then [] else [.bytes 0 (16 * cols * leAt o 28 4), .bytes 3 (16 * cols)])
    else if leAt o 24 1 = 2 then [.bytes 1 (16 * cols)]
    else [.bytes 1 (8 * cols)]
  else if code = 0x18 then [.bytes 2 (16 * n)]
  else if code = 0x19 then [.bytes 2 (16 * n)]
  else if code = 0x1A then
    [.elems 0 (opIn o) n, .elems 1 fUint64 n, .bytes 3 (n / max 1 (leAt o 28 4) * (32 + 16 * k))]
  else if code = 0x1B then
    let m := n / max 1 k
    [.bytes 0 (m * (32 + 16 * k)), .bytes 3 (m / max 1 (leAt o 30 4) * (32 + 16 * leAt o 28 2))]
  else if code = 0x1C then [.bytes 0 (n * paraKeyBytes o), .elems 3 (opFmt o) n]
  else if code = 0x1D then [.bytes 0 (n * paraKeyBytes o), .bytes 3 n]
  else if code = 0x20 then [.elems 3 (opFmt o) (n * k)]
  else if code = 0x21 then [.elems 3 (opFmt o) (leAt o 28 4 * k)]
  else if code = 0x22 then [.bytes 2 (if leAt o 34 2 = 1 then 0 else 2 * leAt o 34 2)]
  else if code = 0x28 then [.elems 0 (opIn o) n, .elems 3 (opFmt o) n]
  else if code = 0x29 then
    let len := leAt o 28 4
    let scaled := fun (f : Nat) => n / max 1 len * vectorStride f k len
    if len = 0 then []
    else if leAt o 24 1 = 0 then [.elems 0 (opIn o) n, .bytes 3 (scaled (opFmt o))]
    else [.bytes 0 (scaled (opIn o)), .elems 3 (opFmt o) n]
  else if code = 0x31 then [.elems 0 fFp32 (n * leAt o 24 2), .elems 3 (opFmt o) (n * leAt o 24 2)]
  else if code = 0x38 then [.bytes 0 n, .bytes 3 (compressBound n)]
  else if code = 0x39 then [.bytes 0 n, .bytes 3 (8 + leAt o 28 4)]
  else if code = 0x3A then [.bytes 0 n, .bytes 3 (digestLen (leAt o 24 1))]
  else if code = 0x40 || code = 0x41 then [.bytes 0 n, .bytes 3 n]
  else if code = 0x42 then [.bytes 0 (32 * n), .elems 3 fUint64 n]
  else []

/-- An operand of the operator is too small for its counts (05 R88). -/
def tooSmall (s : State) (x : Ctx) (c : Nat) (img : List Byte) (k : Nat) (deps : List (Nat × Nat × Bool)) : Bool :=
  let o := chainOp img k
  opCount o != 0 && (operandNeeds o).any (needFails s x c img o deps)

/-- A cell of a SIGNAL or WAIT that R88 refuses, that of a no-op too. -/
def cellBad (s : State) (x : Ctx) (o : List Byte) : Bool :=
  let a := leAt o 40 8
  let used := opCode o == 0x48 || (opCode o == 0x49 && leAt o 24 1 == 2)
  used && (a % 8 != 0 || decide (2 ^ 41 ≤ gLocal a) || (opCode o == 0x49 && !(isDeck s a)) ||
    !(x.tensors.any (fun t => t.2.write && decide (t.2.view.lo ≤ a) && decide (a + 8 ≤ t.2.view.lo + t.2.view.span))))

/-- What a launch gate does to its descriptor at the check: a count that has passed is RANGE whatever the lock is, else a
device that is not locked refuses (02 R26). -/
def gateChecks (s : State) (img : List Byte) : List (Nat × Bool) :=
  let o := chainOp img 0
  if opCode o = 0x49 ∧ leAt o 24 1 = 1 ∧ opCount o ≠ 0 then
    [(0x11, decide (leAt o 32 8 ≤ s.clock.count)), (0x14, !s.timing.locked)]
  else []

/-! ### COPY_LAYOUT at the check (12 R254, R256) -/

def viewInterval (v : TView) : Nat × Nat := (v.lo, v.lo + v.span)

/-- The interval from the lowest to the highest byte of items 0 to n - 1 (R256). -/
def hullOf (n : Nat) (f : Nat → TView) : Nat × Nat := ((f 0).lo, (f (n - 1)).lo + (f (n - 1)).span)

/-- The extents of two items' copies meet: source against destination, or two destinations (R256). -/
def itemsMeet (n : Nat) (src dst : Nat → TView) : Bool :=
  (List.range n).any (fun i => (List.range n).any (fun k => i != k &&
    (intersects (viewInterval (src i)) (viewInterval (dst k)) || intersects (viewInterval (dst i)) (viewInterval (dst k)))))

/-- What R254 and R256 refuse of a COPY_LAYOUT, as (status, refused). -/
def copyBad (s : State) (x : Ctx) (c n : Nat) (o : List Byte) (deps : List (Nat × Nat × Bool)) : List (Nat × Bool) :=
  if opCount o = 0 then [] else
  let a := copyOperand s x c (opRef o 0) n deps
  let b := copyOperand s x c (opRef o 3) n deps
  let rank := match a, b with | some p, _ => p.1.dims.length | none, some p => p.1.dims.length | _, _ => 1
  let perm := permAt o 24 rank
  let fmtWrong := fun (v : TView) => opIn o != (if v.fmt = 0 then fUint8 else v.fmt)
  let one : Option (TView × (Nat → TView)) → List (Nat × Bool) := fun p => [(0x10, p.elim false (fun q => fmtWrong q.1)),
    (0x11, p.elim false (fun q => q.1.count != opCount o))]
  (0x10, (a.isSome || b.isSome) && !(permOk o 24 rank)) :: (match a, b with
    | some p, some q =>
      let meet := intersects (hullOf n p.2) (hullOf n q.2)
      let overlap := meet && !(samePlace p.1 q.1 perm && (n = 1 || p.2 (n - 1) == q.2 (n - 1))) &&
        !(linearCopy p.1 q.1 perm && !(itemsMeet n p.2 q.2))
      [(0x10, !(permFits p.1 q.1 perm))] ++ one a ++ one b ++ [(0x12, overlap)]
    | _, _ => one a ++ one b)

/-! ### The operators' own checks -/

/-- The queue that an operator names, when it exists and is not being destroyed (15 R330). -/
def liveQueue (x : Ctx) (q : Nat) : Option MergeQueue := (NMap.find? x.queues q).bind (fun m => if m.dying then none else some m)

/-- What UNIQUE's layout takes: parts and bytes (11 R227). -/
def uniqueRoom (o : List Byte) (n : Nat) : Nat × Nat :=
  let p := leAt o 32 4
  let parts := n * ceilDiv (opCount o) p
  let each := roundUp (24 * p + (if leAt o 28 1 = 0xFF then 0 else 4 * p)) 16
  (parts, 64 + 16 * parts + parts * each)

/-- What the operator's chapter refuses at the descriptor check, as (status, refused). -/
def chapterBad (s : State) (x : Ctx) (c n : Nat) (flow : Nat) (img : List Byte) (k : Nat) (deps : List (Nat × Nat × Bool)) :
    List (Nat × Bool) :=
  let o := chainOp img k
  let code := opCode o
  let deck := fun (j : Nat) => (opTensor x (opRef o j)).elim true (fun t => isDeck s t.base)
  if code = 0x11 then
    if opCount o = 0 || leAt o 32 4 = 0 then [] else
    let need := joinBytes (leAt o 28 1) (leAt o 26 1) (leAt o 32 4)
    let span := if refKind (opRef o 3) = 1 then ((tensorView x (opRef o 3) 0).map (·.span)).getD 0
      else chainBufSize img (refIndex (opRef o 3))
    let states := (List.range (if refPerItem (opRef o 3) then n else 1)).any (fun i =>
      (tensorView x (opRef o 3) i).elim false (fun v => leNat (deckRead s (gLocal v.base) 4) != 0))
    [(0x11, !(deck 3)), (0x11, decide (span < need)), (0x11, decide (leAt o 32 4 < n * opCount o)), (0x10, states)]
  else if code = 0x13 then [(0x11, decide (65536 < opCount o))]
  else if code = 0x18 then [(0x11, !(deck 2))]
  else if code = 0x19 then
    let u := uniqueRoom o n
    if opCount o = 0 || leAt o 32 4 = 0 then [] else
    [(0x11, !(deck 2)), (0x11, decide (65536 < u.1)), (0x11, decide (((tensorView x (opRef o 3) 0).map (·.span)).getD 0 < u.2))]
  else if code = 0x1C || code = 0x1D then
    match NMap.find? x.sets (leAt o 24 1) with
    | none => [(0x10, true)]
    | some k => [(0x10, k.dying), (0x10, code == 0x1D && k.flow != flow)]
  else if code = 0x22 then
    [(0x11, decide (2 ^ 20 < n)), (0x10, (liveQueue x (leAt o 30 2)).elim true (fun m =>
      m.rows || m.elems != leAt o 28 2 || m.ufmt != opIn o || m.dense != refIndex (opRef o 1) || refPerItem (opRef o 1)))]
  else if code = 0x23 then
    [(0x10, (liveQueue x (leAt o 24 2)).elim true (fun m =>
      !m.rows || (handleBase s x m.tableSet).isNone || handleBase s x m.tableSet != handleBase s x (refIndex (opRef o 1)) ||
      decide (leAt o 28 4 < m.toApply)))]
  else if code = 0x30 then copyBad s x c n o deps
  else []

/-- A predecessor-output operand under ALL names a chain whose out operator's dst is per_item (15 R327). -/
def allPerItem (s : State) (x : Ctx) (c : Nat) (o : List Byte) (deps : List (Nat × Nat × Bool)) : Bool :=
  (List.range 3).any (fun j => refKind (opRef o j) == 3 && (match deps.drop (refIndex (opRef o j)) with
    | (q, i, all) :: _ => all && (match (getDesc s c q i).bind (fun d => NMap.find? x.chains d.chain) with
      | some ch => (outOp ch.image).elim false (fun m => refPerItem (opRef (chainOp ch.image m) 3))
      | none => false)
    | [] => false))

/-- The first check of R88 or of an operator's chapter that a descriptor fails. -/
def chainBad (s : State) (x : Ctx) (c n flow : Nat) (img : List Byte) (deps : List (Nat × Nat × Bool)) (digest : Bool) :
    Option Nat :=
  let ks := List.range (chainOps img)
  let checks := ks.flatMap (fun k => (List.range 4).flatMap (fun j => operandBad x img k j n deps digest)) ++
    ks.flatMap (fun k => [(0x11, cellBad s x (chainOp img k)), (0x10, allPerItem s x c (chainOp img k) deps),
      (0x11, tooSmall s x c img k deps)] ++ chapterBad s x c n flow img k deps) ++ gateChecks s img
  firstBad checks

/-! ### The descriptor (15 R326 to R328) -/

/-- The first failing field of R328's first condition. -/
def submitStray (raw : List Byte) : Option Nat :=
  let f := leAt raw 1 1
  let dc := leAt raw 3 1
  firstBad ([(1, decide (8 ≤ f) || (bitAt f 0 && !(bitAt f 2))), (2, decide (16 ≤ leAt raw 2 1)), (3, decide (8 < dc)),
    (4, decide (4096 ≤ leAt raw 4 2)), (6, leAt raw 6 2 != 0), (8, leAt raw 8 4 == 2 ^ 32 - 1), (20, leAt raw 20 4 != 0),
    (24, (!(bitAt f 2) && leAt raw 24 8 != 0) || leAt raw 24 8 % 128 != 0)] ++
    (List.range 8).map (fun i => (32 + 4 * i,
      (decide (dc ≤ i) && leAt raw (32 + 4 * i) 4 != 0) || bitsAt (leAt raw (32 + 4 * i) 4) 5 3 != 0)))

/-- The full index that a dependence entry names in a ring (15 R327). -/
def depIndex (consumed e : Nat) : Nat :=
  let step := (e / 256 + 2 ^ 24 - consumed % 2 ^ 24) % 2 ^ 24
  (consumed + step + 2 ^ 32 - (if 2 ^ 23 ≤ step then 2 ^ 24 else 0)) % 2 ^ 32

/-- A dependence: its ring, index and mode, whether the named descriptor is consumed, and whether it makes the
descriptor invalid. -/
structure DepAt where
  ring : Nat
  index : Nat
  all : Bool
  consumed : Bool
  invalid : Bool
  none_ : Bool

def depAt (s : State) (x : Ctx) (c ring idx n : Nat) (e : Nat) : DepAt :=
  let q := bitsAt e 0 4
  let all := bitAt e 4
  match NMap.find? x.rings q with
  | none => { ring := q, index := 0, all := all, consumed := true, invalid := true, none_ := false }
  | some y =>
    let i := depIndex y.consumed e
    let behind := diff32 y.consumed i
    let here := behind != 0 && decide (behind ≤ 2 ^ 31)
    let d := getDesc s c q i
    let far := decide (4096 < behind) && decide (behind ≤ 2 ^ 31)
    let later := q == ring && decide (diff32 i idx < 2 ^ 31)
    let unequal := here && !all && d.elim false (fun d => d.type == 1 && leAt d.raw 8 4 != n)
    { ring := q, index := i, all := all, consumed := here, invalid := far || later || unequal
      none_ := here && d.elim true (fun d => !d.created) }

/-- What becomes of the SUBMIT at the head of a ring. -/
inductive SubmitPlan where
  | done (status detail : Nat)
  | wait
  | full
  | create (img : List Byte) (deps : List (Nat × Nat × Bool))
deriving DecidableEq, Repr

/-- Items and item-table entries are free for `n` more items of a context (04 R68). -/
def itemsFit (s : State) (c : Nat) (x : Ctx) (n : Nat) : Bool :=
  decide (liveCount s c x + n ≤ x.quota) && decide (s.sched.items.length + n ≤ 262144)

/-- The checks of a SUBMIT in the order of R328, then those of R88, then overflow (04 R68). -/
def submitPlan (s : State) (c r : Nat) (x : Ctx) (y : Ring) (raw : List Byte) : SubmitPlan :=
  match submitStray raw with
  | some k => .done 0x10 k
  | none =>
    let n := leAt raw 8 4
    let flow := leAt raw 12 4
    let deps := (List.range (leAt raw 3 1)).map (fun i => depAt s x c r y.consumed n (leAt raw (32 + 4 * i) 4))
    match NMap.find? x.chains (leAt raw 4 2) with
    | none => .done 0x10 4
    | some ch =>
      let flowOk := match NMap.find? s.sched.flows flow with
        | some f => f.ctx == c && f.ring == r && !f.draining
        | none => false
      if ch.removing then .done 0x10 4
      else if !flowOk then .done 0x10 12
      else match (deps.findIdx? (fun (d : DepAt) => d.invalid)) with
        | some i => .done 0x10 (32 + 4 * i)
        | none =>
          if x.maxPrio < leAt raw 2 1 then .done 0x11 2
          else if x.quota < n then .done 0x11 8
          else if bitAt (leAt raw 1 1) 2 && !(rangeAllows x true (leAt raw 24 8) 128) then .done 0x11 24
          else if deps.any (fun d => !d.consumed) then .wait
          else if deps.any (fun d => d.none_) then .done 0x3F 0
          else if n = 0 then .done 0 0
          else
            let ds := deps.map (fun (d : DepAt) => (d.ring, d.index, d.all))
            match chainBad s x c n flow ch.image ds (bitAt (leAt raw 1 1) 0) with
            | some st => .done st (if st = 0x10 || st = 0x11 then 0xFFFFFFFF else 0)
            | none => if itemsFit s c x n then .create ch.image ds else .full

/-! ### Creating items -/

/-- A new item (04 R54; 05 R79). -/
def freshItem (x : Ctx) (c r idx chain flow seq index prio : Nat) (preds : List (Nat × Nat × Bool)) : Item :=
  { ctx := c, ring := r, idx := idx, chain := chain, flow := some flow, seq := seq, index := index, prio := prio
    st := .pending, counter := 0, dependents := [], preds := preds, budget := x.itemBudget
    recordBudget := x.recordBudget, charge := 0, op := 0, lookups := [], bufs := [], accum := [], runs := [], outRuns := [], skip := none
    lost := false, halted := none, yielded := false, counters := [], quarantined := 0, lateRecords := [], recordOver := none
    overBudget := false, signals := [], landed := [], asked := [], waiting := 0, waitSince := none, fault := []
    handed := false, delivered := 0, failedPiers := [], cacheFill := [], logs := [], pool := [], answers := []
    arrival := 0, gate := false, hit := false, records := [] }

/-- An item counts its uncommitted predecessors: item i under EACH, the whole descriptor under ALL (15 R327; 04 R55). -/
def linkDep (c id i : Nat) (s : State) (d : Nat × Nat × Bool) : State :=
  match getDesc s c d.1 d.2.1 with
  | none => s
  | some y =>
    if d.2.2 then
      if y.committed < y.n then
        modItem (modDesc s c d.1 d.2.1 (fun y => { y with waiters := y.waiters ++ [id] })) id
          (fun it => { it with counter := it.counter + 1 })
      else s
    else
      match getItem s (y.firstItem + i) with
      | some p => if p.ctx = c ∧ p.ring = d.1 ∧ p.idx = d.2.1 ∧ p.st ≠ .committed then
          modItem (modItem s (y.firstItem + i) (fun p => { p with dependents := p.dependents ++ [id] })) id
            (fun it => { it with counter := it.counter + 1 })
        else s
      | none => s

/-- The handles of the table sets that a chain's operators name. -/
def tableHandles (img : List Byte) : List Nat :=
  ((List.range (chainOps img)).filter (fun k => isTableOperand (chainOp img k) 1)).map (fun k => refIndex (opRef (chainOp img k) 1))

/-- The digests of the configuration images in force (13 R291). -/
def configDigest (s : State) : List Byte :=
  blake3 (baseImage s) ++ (match s.cfg.overlay with | some i => blake3 (overlayImage s i) | none => zeros 32)

/-- Accept a SUBMIT: its items are created together, with consecutive sequence numbers, and its table versions are pinned
(04 R59, R68; 09 R199; 07 R143). -/
def createItems (s : State) (c r : Nat) (x : Ctx) (y : Ring) (raw img : List Byte) (deps : List (Nat × Nat × Bool)) : State :=
  let n := leAt raw 8 4
  let flow := leAt raw 12 4
  let chain := leAt raw 4 2
  let idx := y.consumed
  let first := s.sched.nextItem
  let seq := ((NMap.find? s.sched.flows flow).map (·.next)).getD 0
  let pins := ((tableHandles img).filterMap (fun h => handleBase s x h)).eraseDups.flatMap (pinsOf s)
  let d := { Desc.fresh raw with
    n := n, firstItem := first, chain := chain, created := true, pins := pins
    digest := if bitAt (leAt raw 1 1) 0 then configDigest s else [] }
  let items := (List.range n).map (fun i =>
    (first + i, freshItem x c r idx chain flow ((seq + i) % 2 ^ 32) i (leAt raw 2 1) deps))
  let s := if d.digest.isEmpty then s else bump s ctDigest ((baseImage s).length + (s.cfg.overlay.elim 0 (fun i => (overlayImage s i).length)))
  let s1 := consume s c r d
  let s2 := { s1 with sched := { s1.sched with
    items := s1.sched.items ++ items, nextItem := first + n
    flows := NMap.modify s1.sched.flows flow (fun f => { f with next := (seq + n) % 2 ^ 32 }) } }
  let s3 := (List.range n).foldl (fun s i => deps.foldl (linkDep c (first + i) i) s) s2
  markTables s3 c chain n 1

/-- An earlier-blocked ring's head would fit now: the freed entries are its (04 R70). -/
def heldForBlocked (s : State) (c r : Nat) (x : Ctx) : Bool :=
  let mine := ((NMap.find? x.rings r).bind (·.blocked))
  x.rings.any (fun q => q.1 != r && (match q.2.blocked, q.2.head with
    | some t, some raw => mine.elim true (fun m => decide (t < m)) && itemsFit s c x (leAt raw 8 4)
    | _, _ => false))

/-- The ring stops at an overflowing head, after the rings already blocked (04 R70). -/
def blockRing (s : State) (c r : Nat) (x : Ctx) : State :=
  let order := x.rings.foldl (fun a q => max a (q.2.blocked.elim 0 (· + 1))) 0
  event (modRing s c r (fun y => { y with blocked := some order, statusDirty := true })) evSched 2

/-- The overflow policy (04 R69, R70). -/
def overflow (s : State) (c r n : Nat) (x : Ctx) (raw : List Byte) : State :=
  let s1 := if 262144 < s.sched.items.length + n then event s evSched 0 else s
  if x.backPressure then blockRing s1 c r x else completeHead s1 c r raw 0x14 0

/-- The codes of descriptors that are commands (15 R329). -/
def isCommandCode (t : Nat) : Bool := decide (2 ≤ t) && decide (t ≤ 0x12)

/-- SUBMIT: the Tollgate checks the head of a ring and creates its items, or completes it.  A slot that could not be read
and a reserved type complete here too (15 R326 to R328, R462; 04 R68 to R70). -/
def execSubmit (ctx ring : Nat) (s : State) : Host.Outcome State Fault Refusal :=
  match NMap.find? s.ctxs ctx, getRing s ctx ring with
  | some x, some y =>
    match y.head with
    | none => ok s
    | some raw =>
      if x.st != .active || x.closing || !(running s) || y.blocked.isSome then ok s
      else if raw.isEmpty then finish (completeHead s ctx ring [] 0x21 0xFFFFFFFF)
      else if isCommandCode (leAt raw 0 1) then ok s
      else if leAt raw 0 1 != 1 then finish (completeHead s ctx ring raw 0x10 0)
      else match submitPlan s ctx ring x y raw with
        | .done st k => finish (completeHead s ctx ring raw st k)
        | .wait => if y.depSince.isSome then ok s else ok (modRing s ctx ring (fun y => { y with depSince := some (now s) }))
        | .full => if heldForBlocked s ctx ring x then ok s else finish (overflow s ctx ring (leAt raw 8 4) x raw)
        | .create img deps => if heldForBlocked s ctx ring x then ok s else finish (createItems s ctx ring x y raw img deps)
  | _, _ => ok s

/-- BLOCKED_RING_ACCEPT: under back-pressure the head of the longest-blocked ring is accepted once its items fit
(04 R70). -/
def execBlockedRingAccept (ctx ring : Nat) (s : State) : Host.Outcome State Fault Refusal :=
  match NMap.find? s.ctxs ctx, getRing s ctx ring with
  | some x, some y =>
    match y.head with
    | none => ok s
    | some raw =>
      if y.blocked.isNone || x.st != .active || x.closing || !(running s) || heldForBlocked s ctx ring x then ok s
      else match submitPlan s ctx ring x y raw with
        | .done st k => finish (completeHead s ctx ring raw st k)
        | .create img deps => finish (createItems s ctx ring x y raw img deps)
        | .wait | .full => ok s
  | _, _ => ok s

/-- DEPENDENCE_TIMEOUT: the named descriptor was not consumed within the outside timeout (15 R327). -/
def execDependenceTimeout (ctx ring : Nat) (s : State) : Host.Outcome State Fault Refusal :=
  match NMap.find? s.ctxs ctx, getRing s ctx ring with
  | some x, some y =>
    match y.head, y.depSince with
    | some raw, some t =>
      if now s < t + x.timeout || !(running s) then ok s
      else match submitPlan s ctx ring x y raw with
        | .wait => finish (completeHead s ctx ring raw 0x21 0)
        | _ => ok s
    | _, _ => ok s
  | _, _ => ok s

end Sys2Proof.Machine
end

