-- ==== Sys2Proof/Machine/Wire.lean ====
section
/-!
DEFINITION. Arriving frames: the headers and data slots of an accepted frame take effect in order (14 R303, R308 to
R312; 16 R340, R347), and the MERGE requests of peers (16 R349).
-/

namespace Sys2Proof.Machine

open Sys2Proof

/-! ### The slots of a frame -/

def frameSlots (b : List Byte) : List (Nat × Nat × List Byte) :=
  (List.range 119).map (fun i =>
    let d := leAt b (16 + 2 * i) 2
    (d / 4096, d % 4096, slice b (368 + 256 * i) 256))

/-- The headers of a frame in order: the header places, then the HEADERS slots; `n` bytes each (14 R311, 16 R340). -/
def frameHeaders (b : List Byte) (places n : Nat) : List (List Byte) :=
  ((List.range places).map (fun i => slice b (256 + n * i) n) ++
    (frameSlots b).flatMap (fun q => if q.1 = 3 then chunksOf n q.2.2 else [])).filter (fun h => !(allZero h))

/-- A reserved kind, or a reserved field of the frame itself that is not zero (14 R303, R304, 16 R340). -/
def frameReserved (b : List Byte) (span : Bool) : Bool :=
  leAt b 4 1 == 0 || decide (4 < leAt b 4 1) || !(allZero (slice b 6 2)) || !(allZero (slice b 254 2)) || (if span then decide (2 ≤ leAt b 5 1) else leAt b 5 1 != 0)

/-! ### Kiduner -/

/-- One header from the host (14 R309 to R312). -/
def hostHeader (s : State) (h : List Byte) : State :=
  let op := leAt h 0 1
  let m := leAt h 1 1
  let tag := leAt h 2 2
  let off := leAt h 4 4
  let v := leAt h 8 8
  if 4096 ≤ tag then kidBad s
  else if op = 0x05 && (m == 4 || m == 8) then hostAccess s (0, off, m, tag)
  else if op = 0x06 && (m == 4 || m == 8) then hostAccess s (1, off, m, v)
  else if op = 0x07 && m == 0 then hostAccess s (2, off, 8, v)
  else if op = 0x10 && m == 0 then snoop s v tag
  else if op = 0x20 then hostReadDone s tag m
  else if op = 0x21 then hostWriteDone s tag m
  else kidBad s

/-- One data slot from the host: the next 256 bytes of a read's answer; bytes beyond its length are dropped, and counted
unless they are zero (14 R308, R310, R312). -/
def hostSlot (s : State) (q : Nat × Nat × List Byte) : State :=
  if q.1 = 0 then (if q.2.1 = 0 then s else kidBad s)
  else if q.1 = 3 then s
  else if q.1 != 2 then kidBad s
  else
    match (NMap.find? s.kid.tags q.2.1).bind (fun i => NMap.find? s.kid.accs i) with
    | none => kidBad s
    | some a =>
      if a.write then kidBad s
      else
        let got := NMap.getD s.kidLink.partials q.2.1 [] ++ q.2.2
        let s := if allZero (got.drop a.len) then s else kidBad s
        if got.length < a.len then
          { s with kidLink := { s.kidLink with partials := NMap.set s.kidLink.partials q.2.1 got } }
        else
          hostRead { s with kidLink := { s.kidLink with partials := NMap.erase s.kidLink.partials q.2.1 } } q.2.1
            (got.take a.len)

/-- Credits return for what a frame brought (14 R304, R308). -/
def returnCredits (l : Link) (hs : List (List Byte)) (slots : Nat) : Link :=
  let chan := fun (h : List Byte) => let op := leAt h 0 1; if 0x20 ≤ op then 1 else if op = 0x10 then 2 else 0
  { l with crGiven := addCredit (hs.foldl (fun cs h => addCredit cs (chan h) 1) l.crGiven) 3 slots }

def dataSlots (b : List Byte) : Nat := ((frameSlots b).filter (fun q => q.1 == 1 || q.1 == 2)).length

/-- What an accepted frame from the host carries takes effect; a reserved field of the frame itself is dropped and counted
without it (14 R304, R311, R312; log entry 112). -/
def hostFrame (s : State) (b : List Byte) : State :=
  let s := if frameReserved b false then kidBad s else s
  let hs := frameHeaders b 7 16
  let s1 := { s with kidLink := returnCredits s.kidLink hs (dataSlots b) }
  (frameSlots b).foldl hostSlot (hs.foldl hostHeader s1)

/-! ### MERGE requests -/

/-- The records of a MERGE request for a queue; none when its length is not a whole number of them (16 R349). -/
def mergeRecords (m : MergeQueue) (h : SpanHdr) (data : List Byte) : Option (List MergeRec) :=
  let fmt := h.op % 32
  let keyed := bitAt h.op 6
  let r : MergeRec := {
    src := h.src, step := h.step, fmt := fmt, close := bitAt h.op 5, keyed := keyed, key := 0, seq := 0, payload := [] }
  if r.close then (if h.length = 0 then some [{ r with key := h.address % 2 ^ 32 }] else none)
  else
    let pay := m.elems * elemBytes fmt
    let size := if keyed then 16 + roundUp pay 8 else pay
    if !(mergeFmts.contains fmt) || size = 0 || data.length % size != 0 then none
    else some (((List.range (data.length / size)).zip (chunksOf size data)).map (fun q =>
      if keyed then { r with key := leAt q.2 0 8, seq := leAt q.2 8 8, payload := (q.2.drop 16).take pay }
      else { r with key := h.address + q.1, seq := h.address + q.1, payload := q.2 }))

/-- The records are checked under R204 one by one; the answer is always OK (16 R348, R349). -/
def mergeApply (s : State) (h : SpanHdr) (data : List Byte) : State :=
  let s1 := match getQueue s h.context h.queue with
    | none => mergeDropped s
    | some m => match mergeRecords m h data with
      | none => mergeDropped s
      | some rs => rs.foldl (fun s r => mergeArrive s h.context h.queue r) s
  answerPeer s1 h 0 []

/-- MERGE_REQUEST (16 R349, R352, R354). -/
def execMergeRequest (port : Fin 8) (hdr : SpanHdr) (data : List Byte) (s : State) : Host.Outcome State Fault Refusal :=
  finish (requestIn s port hdr 4 data (fun s => mergeApply s hdr data))

/-! ### Span -/

/-- The header of 32 bytes, none when a reserved bit is set (16 R347). -/
def parseSpanHdr (b : List Byte) : Option SpanHdr :=
  let c := leAt b 2 1
  if leAt b 3 1 != 0 || 4096 ≤ leAt b 4 2 || 4096 ≤ leAt b 6 2 then none
  else some {
    opcode := leAt b 0 1, op := leAt b 1 1, channel := c % 8, hops := bitsAt c 3 4, resend := bitAt c 7
    src := leAt b 4 2, dst := leAt b 6 2, context := leAt b 8 2, queue := leAt b 10 2, seq := leAt b 12 4
    length := leAt b 16 4, step := leAt b 20 4, address := leAt b 24 8 }

/-- The data bytes that follow a header (16 R347, R348). -/
def spanData (h : SpanHdr) : Nat :=
  if h.opcode = 1 || h.opcode = 3 || h.opcode = 4 || h.opcode = 0x21 || h.opcode = 0x22 then h.length else 0

/-- One transaction that has arrived whole (16 R348). -/
def spanTake (s : State) (p : Nat) (h : SpanHdr) (data : List Byte) : State :=
  if h.opcode = 1 then requestIn s p h 1 data (fun s => putApply s h data)
  else if h.opcode = 2 then requestIn s p h 2 [] (fun s => getApply s h)
  else if h.opcode = 3 then requestIn s p h 3 data (fun s => atomicApply s h data)
  else if h.opcode = 4 then requestIn s p h 4 data (fun s => mergeApply s h data)
  else if 0x20 ≤ h.opcode ∧ h.opcode ≤ 0x23 then responseIn s p h h.opcode data
  else spanBad s

/-- A header joins the transactions of its port that wait for their data. -/
def spanHeader (p : Nat) (s : State) (b : List Byte) : State :=
  match parseSpanHdr b with
  | none => spanBad s
  | some h =>
    if 65536 < h.length then spanBad s
    else
      let l := getSpanLink s p
      setSpanLink s p { l with pulling := l.pulling ++ [(h, [])] }

/-- The next 256 bytes go to the first transaction that still lacks data (14 R308). -/
def addData (bs : List Byte) : List (SpanHdr × List Byte) → Option (List (SpanHdr × List Byte))
  | [] => none
  | q :: qs =>
    if q.2.length < spanData q.1 then some ((q.1, (q.2 ++ bs).take (spanData q.1)) :: qs)
    else (addData bs qs).map (q :: ·)

def spanSlot (p : Nat) (s : State) (q : Nat × Nat × List Byte) : State :=
  if q.1 = 0 then (if q.2.1 = 0 then s else spanBad s)
  else if q.1 = 3 then s
  else if q.1 != 1 && q.1 != 2 then spanBad s
  else
    let l := getSpanLink s p
    match addData q.2.2 l.stale with
    | some ps => setSpanLink s p { l with stale := ps }
    | none => match addData q.2.2 l.pulling with
      | some ps => setSpanLink s p { l with pulling := ps }
      | none => spanBad s

/-- An abandoned request's data is discarded; once it has all come, a request that another copy has overtaken counts as a
duplicate (16 R352, Example). -/
def staleDrain (p : Nat) (s : State) : State :=
  let l := getSpanLink s p
  let done := l.stale.filter (fun q => decide (spanData q.1 ≤ q.2.length))
  done.foldl (fun s q =>
    let y := NMap.getD s.span.ins (inKey q.1.src q.1.channel) spanFresh
    if q.1.dst = deviceId s ∧ q.1.opcode < 0x20 ∧ (y.applied + 2 ^ 32 - q.1.seq) % 2 ^ 32 < 64 then bump s ctSpanDup 1 else s)
    (setSpanLink s p { l with stale := l.stale.filter (fun q => decide (q.2.length < spanData q.1)) })

/-- Transactions take effect in the order of their headers, each once its data has arrived (14 R311). -/
def spanDrain (p : Nat) : Nat → State → State
  | 0, s => s
  | f + 1, s =>
    let l := getSpanLink s p
    match l.pulling with
    | [] => s
    | q :: qs =>
      if q.2.length < spanData q.1 then s
      else spanDrain p f (spanTake (setSpanLink s p { l with pulling := qs }) p q.1 q.2)

/-- What an accepted frame from a peer carries takes effect; the timing record of its last header place is the command
TIMING_RECORD (16 R340, R341). -/
def spanFrame (s : State) (p : Nat) (b : List Byte) : State :=
  let s := if frameReserved b true then spanBad s else s
  let hs := frameHeaders b 3 32
  let s1 := setSpanLink s p (returnCredits (getSpanLink s p) hs (dataSlots b))
  let s2 := staleDrain p ((frameSlots b).foldl (spanSlot p) (hs.foldl (spanHeader p) s1))
  spanDrain p (getSpanLink s2 p).pulling.length s2

/-! ### The commands -/

/-- A frame that decodes whole and checks. -/
def frameGood (f : Frame) : Bool :=
  f.uncorrectable == 0 && (crc64 (f.bytes.take 30832)).toNat == leAt f.bytes 30832 8

/-- A frame arrives: the link layer accepts it or not, its request acts, and its contents take effect (14 R303 to R306,
R315). -/
def frameIn (s : State) (p : Nat) (f : Frame) : State :=
  let b := f.bytes
  let kind := leAt b 4 1
  let r := receiveFrame s p f
  let s1 := if frameGood f && kind == 2 && framesRun (getLink s p) then
    resendFrames r.1 p (leAt b 2 2) else r.1
  if !r.2 then s1
  else
    let s2 := if p = 0 then hostFrame s1 b else spanFrame s1 (p - 1) b
    if p != 0 then s2 else if kind = 4 then napAcked s2 else napDrained s2

/-- NORMAL: a frame that asks for nothing is decoded and checked, accepted in sequence, or discarded with a replay requested
(14 R306). -/
def execNormal (port : Fin 9) (frame : Frame) (s : State) : Host.Outcome State Fault Refusal :=
  let kind := leAt frame.bytes 4 1
  if frameGood frame && (kind == 2 || kind == 4) then ok s else finish (frameIn s port frame)

/-- REPLAY_REQUEST: every frame from ack + 1 goes out again (14 R306). -/
def execReplayRequest (port : Fin 9) (frame : Frame) (s : State) : Host.Outcome State Fault Refusal :=
  if leAt frame.bytes 4 1 = 2 then finish (frameIn s port frame) else ok s

/-- NAP_ACK: the host lets the pair go into Nap (14 R315). -/
def execNapAck (frame : Frame) (s : State) : Host.Outcome State Fault Refusal :=
  if leAt frame.bytes 4 1 = 4 then finish (frameIn s 0 frame) else ok s

end Sys2Proof.Machine
end

