-- ==== Sys2Proof/Machine/Dispatch.lean ====
section
/-!
DEFINITION. One arm per command: the meaning that the machine gives it.
-/

namespace Sys2Proof.Machine

open Sys2Proof

def exec (i : Instr) (s : State) : Host.Outcome State Fault Refusal :=
  match i with
  | .keystoneTick => Sys2Proof.Machine.execKeystoneTick s
  | .correctionTick => Sys2Proof.Machine.execCorrectionTick s
  | .timingFrameSend port frac => Sys2Proof.Machine.execTimingFrameSend port frac s
  | .timingRecord port record frac replayed => Sys2Proof.Machine.execTimingRecord port record frac replayed s
  | .lockLost => Sys2Proof.Machine.execLockLost s
  | .parentTimeout => Sys2Proof.Machine.execParentTimeout s
  | .rootTimeout => Sys2Proof.Machine.execRootTimeout s
  | .launchGateOpen item => Sys2Proof.Machine.execLaunchGateOpen item s
  | .slotTableSwitch => Sys2Proof.Machine.execSlotTableSwitch s
  | .lightMessage src => Sys2Proof.Machine.execLightMessage src s
  | .relaySend pier off len => Sys2Proof.Machine.execRelaySend pier off len s
  | .deckReadData pier entry block errBytes => Sys2Proof.Machine.execDeckReadData pier entry block errBytes s
  | .dispatch pier => Sys2Proof.Machine.execDispatch pier s
  | .itemCommit item => Sys2Proof.Machine.execItemCommit item s
  | .release flow => Sys2Proof.Machine.execRelease flow s
  | .itemBudgetSkip item => Sys2Proof.Machine.execItemBudgetSkip item s
  | .recordBudgetQuarantine item => Sys2Proof.Machine.execRecordBudgetQuarantine item s
  | .outsideTimeout item => Sys2Proof.Machine.execOutsideTimeout item s
  | .sliceBoundary ctx => Sys2Proof.Machine.execSliceBoundary ctx s
  | .swapIn => Sys2Proof.Machine.execSwapIn s
  | .blockedRingAccept ctx ring => Sys2Proof.Machine.execBlockedRingAccept ctx ring s
  | .cellWaitRelease item => Sys2Proof.Machine.execCellWaitRelease item s
  | .decodeAvro item => Sys2Proof.Machine.execDecodeAvro item s
  | .decodeIrc item => Sys2Proof.Machine.execDecodeIrc item s
  | .project item => Sys2Proof.Machine.execProject item s
  | .filter item => Sys2Proof.Machine.execFilter item s
  | .hash item => Sys2Proof.Machine.execHash item s
  | .bucket item => Sys2Proof.Machine.execBucket item s
  | .cross item => Sys2Proof.Machine.execCross item s
  | .norm item => Sys2Proof.Machine.execNorm item s
  | .clip item => Sys2Proof.Machine.execClip item s
  | .partition item => Sys2Proof.Machine.execPartition item s
  | .joinBuild item => Sys2Proof.Machine.execJoinBuild item s
  | .joinProbe item => Sys2Proof.Machine.execJoinProbe item s
  | .groupAgg item => Sys2Proof.Machine.execGroupAgg item s
  | .sort item => Sys2Proof.Machine.execSort item s
  | .unique item => Sys2Proof.Machine.execUnique item s
  | .topk item => Sys2Proof.Machine.execTopk item s
  | .selMerge item => Sys2Proof.Machine.execSelMerge item s
  | .countMatch item => Sys2Proof.Machine.execCountMatch item s
  | .parapetUpdate item => Sys2Proof.Machine.execParapetUpdate item s
  | .parapetApply item => Sys2Proof.Machine.execParapetApply item s
  | .gather item => Sys2Proof.Machine.execGather item s
  | .gatherPool item => Sys2Proof.Machine.execGatherPool item s
  | .scatterMerge item => Sys2Proof.Machine.execScatterMerge item s
  | .rowApply item => Sys2Proof.Machine.execRowApply item s
  | .convert item => Sys2Proof.Machine.execConvert item s
  | .quant item => Sys2Proof.Machine.execQuant item s
  | .copyLayout item => Sys2Proof.Machine.execCopyLayout item s
  | .storeFused item => Sys2Proof.Machine.execStoreFused item s
  | .compress item => Sys2Proof.Machine.execCompress item s
  | .decompress item => Sys2Proof.Machine.execDecompress item s
  | .digest item => Sys2Proof.Machine.execDigest item s
  | .put item => Sys2Proof.Machine.execPut item s
  | .get item => Sys2Proof.Machine.execGet item s
  | .atomic item => Sys2Proof.Machine.execAtomic item s
  | .signal item => Sys2Proof.Machine.execSignal item s
  | .wait item => Sys2Proof.Machine.execWait item s
  | .migrate ctx ring => Sys2Proof.Machine.execMigrate ctx ring s
  | .migrationDrainDone mig => Sys2Proof.Machine.execMigrationDrainDone mig s
  | .migrationFlip mig => Sys2Proof.Machine.execMigrationFlip mig s
  | .migrationFree mig => Sys2Proof.Machine.execMigrationFree mig s
  | .migrationAbandon mig => Sys2Proof.Machine.execMigrationAbandon mig s
  | .tableSwitch ctx ring => Sys2Proof.Machine.execTableSwitch ctx ring s
  | .versionRetire ver => Sys2Proof.Machine.execVersionRetire ver s
  | .mergeRecord ctx queue rec => Sys2Proof.Machine.execMergeRecord ctx queue rec s
  | .stepFinalise ctx queue => Sys2Proof.Machine.execStepFinalise ctx queue s
  | .journalFrameAck ctx frame => Sys2Proof.Machine.execJournalFrameAck ctx frame s
  | .journalSpaceFreed ctx => Sys2Proof.Machine.execJournalSpaceFreed ctx s
  | .applySlotCopy item => Sys2Proof.Machine.execApplySlotCopy item s
  | .versionCommit ctx ring => Sys2Proof.Machine.execVersionCommit ctx ring s
  | .backingWriteRetry acc => Sys2Proof.Machine.execBackingWriteRetry acc s
  | .chainInstall ctx ring => Sys2Proof.Machine.execChainInstall ctx ring s
  | .chainRemove ctx ring => Sys2Proof.Machine.execChainRemove ctx ring s
  | .flowOpen ctx ring => Sys2Proof.Machine.execFlowOpen ctx ring s
  | .flowClose ctx ring => Sys2Proof.Machine.execFlowClose ctx ring s
  | .rangeAdd ctx ring => Sys2Proof.Machine.execRangeAdd ctx ring s
  | .rangeRemove ctx ring => Sys2Proof.Machine.execRangeRemove ctx ring s
  | .tensorCreate ctx ring => Sys2Proof.Machine.execTensorCreate ctx ring s
  | .tensorDestroy ctx ring => Sys2Proof.Machine.execTensorDestroy ctx ring s
  | .streamArm ctx ring => Sys2Proof.Machine.execStreamArm ctx ring s
  | .streamResume ctx ring => Sys2Proof.Machine.execStreamResume ctx ring s
  | .streamCancel ctx ring => Sys2Proof.Machine.execStreamCancel ctx ring s
  | .streamBlockDispatch ctx slot pier => Sys2Proof.Machine.execStreamBlockDispatch ctx slot pier s
  | .streamBlockDelivered ctx slot => Sys2Proof.Machine.execStreamBlockDelivered ctx slot s
  | .pageFault target => Sys2Proof.Machine.execPageFault target s
  | .cacheInvalidate ctx ring => Sys2Proof.Machine.execCacheInvalidate ctx ring s
  | .mergeQueueCreate ctx ring => Sys2Proof.Machine.execMergeQueueCreate ctx ring s
  | .mergeQueueDestroy ctx ring => Sys2Proof.Machine.execMergeQueueDestroy ctx ring s
  | .mergeQueueSet ctx ring => Sys2Proof.Machine.execMergeQueueSet ctx ring s
  | .parapetSetCreate ctx ring => Sys2Proof.Machine.execParapetSetCreate ctx ring s
  | .parapetSetDestroy ctx ring => Sys2Proof.Machine.execParapetSetDestroy ctx ring s
  | .submit ctx ring => Sys2Proof.Machine.execSubmit ctx ring s
  | .descriptorFetch ctx ring => Sys2Proof.Machine.execDescriptorFetch ctx ring s
  | .dependenceTimeout ctx ring => Sys2Proof.Machine.execDependenceTimeout ctx ring s
  | .completionWrite ctx ring => Sys2Proof.Machine.execCompletionWrite ctx ring s
  | .statusWordWrite ctx ring => Sys2Proof.Machine.execStatusWordWrite ctx ring s
  | .msgWake ctx ring => Sys2Proof.Machine.execMsgWake ctx ring s
  | .hostReadRetry acc => Sys2Proof.Machine.execHostReadRetry acc s
  | .hostWriteRetry acc => Sys2Proof.Machine.execHostWriteRetry acc s
  | .submissionTail ctx ring value => Sys2Proof.Machine.execSubmissionTail ctx ring value s
  | .completionHead ctx ring value => Sys2Proof.Machine.execCompletionHead ctx ring value s
  | .quarantineLogHead ctx value => Sys2Proof.Machine.execQuarantineLogHead ctx value s
  | .haltLogHead ctx value => Sys2Proof.Machine.execHaltLogHead ctx value s
  | .eventTraceHead ctx value => Sys2Proof.Machine.execEventTraceHead ctx value s
  | .create => Sys2Proof.Machine.execCreate s
  | .destroy => Sys2Proof.Machine.execDestroy s
  | .pause => Sys2Proof.Machine.execPause s
  | .resume => Sys2Proof.Machine.execResume s
  | .ts1 port lane set => Sys2Proof.Machine.execTs1 port lane set s
  | .ts2 port lane set => Sys2Proof.Machine.execTs2 port lane set s
  | .trainingStateExit port lanes => Sys2Proof.Machine.execTrainingStateExit port lanes s
  | .trainingStateTimeout port => Sys2Proof.Machine.execTrainingStateTimeout port s
  | .linkDownRetry port => Sys2Proof.Machine.execLinkDownRetry port s
  | .normal port frame => Sys2Proof.Machine.execNormal port frame s
  | .replayRequest port frame => Sys2Proof.Machine.execReplayRequest port frame s
  | .retrain port => Sys2Proof.Machine.execRetrain port s
  | .napRequest => Sys2Proof.Machine.execNapRequest s
  | .napAck frame => Sys2Proof.Machine.execNapAck frame s
  | .napAckTimeout => Sys2Proof.Machine.execNapAckTimeout s
  | .regRead off len tag => Sys2Proof.Machine.execRegRead off len tag s
  | .regWrite off len data => Sys2Proof.Machine.execRegWrite off len data s
  | .doorbell off data => Sys2Proof.Machine.execDoorbell off data s
  | .snpInv addr tag => Sys2Proof.Machine.execSnpInv addr tag s
  | .readData tag data => Sys2Proof.Machine.execReadData tag data s
  | .readDone tag status => Sys2Proof.Machine.execReadDone tag status s
  | .writeDone tag status => Sys2Proof.Machine.execWriteDone tag status s
  | .putRequest port hdr data => Sys2Proof.Machine.execPutRequest port hdr data s
  | .getRequest port hdr => Sys2Proof.Machine.execGetRequest port hdr s
  | .atomicRequest port hdr data => Sys2Proof.Machine.execAtomicRequest port hdr data s
  | .mergeRequest port hdr data => Sys2Proof.Machine.execMergeRequest port hdr data s
  | .putDone port hdr => Sys2Proof.Machine.execPutDone port hdr s
  | .getData port hdr data => Sys2Proof.Machine.execGetData port hdr data s
  | .atomicDone port hdr data => Sys2Proof.Machine.execAtomicDone port hdr data s
  | .mergeDone port hdr => Sys2Proof.Machine.execMergeDone port hdr s
  | .spanResend dst channel => Sys2Proof.Machine.execSpanResend dst channel s
  | .spanPortDown port => Sys2Proof.Machine.execSpanPortDown port s
  | .refresh channel => Sys2Proof.Machine.execRefresh channel s
  | .patrolScrub channel errBytes => Sys2Proof.Machine.execPatrolScrub channel errBytes s
  | .channelLost channel cause => Sys2Proof.Machine.execChannelLost channel cause s
  | .stackLost stack cause => Sys2Proof.Machine.execStackLost stack cause s
  | .displacedFill channel => Sys2Proof.Machine.execDisplacedFill channel s
  | .plainWithdraw => Sys2Proof.Machine.execPlainWithdraw s
  | .auditRead => Sys2Proof.Machine.execAuditRead s
  | .nvmeCompletion port ctrl queue entry => Sys2Proof.Machine.execNvmeCompletion port ctrl queue entry s
  | .nvmeInboundRequest port ctrl write addr len data => Sys2Proof.Machine.execNvmeInboundRequest port ctrl write addr len data s
  | .nvmeCommandTimeout acc => Sys2Proof.Machine.execNvmeCommandTimeout acc s
  | .nvmeControllerReset port ctrl => Sys2Proof.Machine.execNvmeControllerReset port ctrl s
  | .nvmeLost port ctrl => Sys2Proof.Machine.execNvmeLost port ctrl s
  | .parityFailure pier => Sys2Proof.Machine.execParityFailure pier s
  | .pierLost pier cause => Sys2Proof.Machine.execPierLost pier cause s
  | .hubParityFailure unit => Sys2Proof.Machine.execHubParityFailure unit s
  | .configFix off => Sys2Proof.Machine.execConfigFix off s
  | .parapetBankParity parapet bank => Sys2Proof.Machine.execParapetBankParity parapet bank s
  | .unitOut unit => Sys2Proof.Machine.execUnitOut unit s
  | .rebuildStart ver group => Sys2Proof.Machine.execRebuildStart ver group s
  | .rebuildDone rebuild => Sys2Proof.Machine.execRebuildDone rebuild s
  | .groupLost rebuild => Sys2Proof.Machine.execGroupLost rebuild s
  | .outsideAccessRetry acc => Sys2Proof.Machine.execOutsideAccessRetry acc s
  | .outOfService => Sys2Proof.Machine.execOutOfService s
  | .setAliasWrite off data => Sys2Proof.Machine.execSetAliasWrite off data s
  | .clearAliasWrite off data => Sys2Proof.Machine.execClearAliasWrite off data s
  | .toggleAliasWrite off data => Sys2Proof.Machine.execToggleAliasWrite off data s
  | .sqWrite off data => Sys2Proof.Machine.execSqWrite off data s
  | .pairLoRead off tag => Sys2Proof.Machine.execPairLoRead off tag s
  | .pairLoWrite off data => Sys2Proof.Machine.execPairLoWrite off data s
  | .pairHiWrite off data => Sys2Proof.Machine.execPairHiWrite off data s
  | .slowDataRead tag => Sys2Proof.Machine.execSlowDataRead tag s
  | .slowDataWrite data => Sys2Proof.Machine.execSlowDataWrite data s
  | .slowAccessTimeout => Sys2Proof.Machine.execSlowAccessTimeout s
  | .cfgSwitchGo data => Sys2Proof.Machine.execCfgSwitchGo data s
  | .overlaySwitch => Sys2Proof.Machine.execOverlaySwitch s
  | .pwrRequestNap => Sys2Proof.Machine.execPwrRequestNap s
  | .pwrRequestRun => Sys2Proof.Machine.execPwrRequestRun s
  | .napEntryStep => Sys2Proof.Machine.execNapEntryStep s
  | .napWake => Sys2Proof.Machine.execNapWake s
  | .trimEvaluation temps power => Sys2Proof.Machine.execTrimEvaluation temps power s
  | .trimGateTick => Sys2Proof.Machine.execTrimGateTick s
  | .forcedOff cause => Sys2Proof.Machine.execForcedOff cause s
  | .coldReset => Sys2Proof.Machine.execColdReset s
  | .rootPllLock => Sys2Proof.Machine.execRootPllLock s
  | .romPhaseEnd => Sys2Proof.Machine.execRomPhaseEnd s
  | .initPhaseEnd badChannels badPiers => Sys2Proof.Machine.execInitPhaseEnd badChannels badPiers s
  | .identity => Sys2Proof.Machine.execIdentity s
  | .attest => Sys2Proof.Machine.execAttest s
  | .loadConfig => Sys2Proof.Machine.execLoadConfig s
  | .flashWrite => Sys2Proof.Machine.execFlashWrite s
  | .ownerSet => Sys2Proof.Machine.execOwnerSet s
  | .resetNLow boardPg nanoseconds => Sys2Proof.Machine.execResetNLow boardPg nanoseconds s
  | .brownOut aux millivolts nanoseconds => Sys2Proof.Machine.execBrownOut aux millivolts nanoseconds s
  | .mgmtBlockRead command write => Sys2Proof.Machine.execMgmtBlockRead command write s
  | .bypass code tdi => Sys2Proof.Machine.execBypass code tdi s
  | .idcode => Sys2Proof.Machine.execIdcode s
  | .samplePreload cells => Sys2Proof.Machine.execSamplePreload cells s
  | .extest => Sys2Proof.Machine.execExtest s
  | .clamp => Sys2Proof.Machine.execClamp s
  | .highz => Sys2Proof.Machine.execHighz s
  | .resetNRelease => Sys2Proof.Machine.execResetNRelease s
  | .deviceRequestTimeout acc => Sys2Proof.Machine.execDeviceRequestTimeout acc s
  | .nvmeControllerReady port ctrl => Sys2Proof.Machine.execNvmeControllerReady port ctrl s

end Sys2Proof.Machine
end

