-- ==== Sys2Proof/WellFormed.lean ====
section
/-!
DEFINITION. The operand shapes that a command of the table can carry.  A command of another shape stands for nothing
that can happen to the module; its meaning leaves the state as it is.
-/

namespace Sys2Proof

/-- The fields of a Span header within their widths (16 R347). -/
def SpanHdr.wf (h : SpanHdr) : Bool :=
  decide (h.opcode < 256) && decide (h.op < 256) && decide (h.channel < 8) && decide (h.hops < 16) &&
  decide (h.src < 4096) && decide (h.dst < 4096) && decide (h.context < 65536) && decide (h.queue < 65536) &&
  decide (h.seq < 2 ^ 32) && decide (h.length < 2 ^ 32) && decide (h.step < 2 ^ 32) && decide (h.address < 2 ^ 64)

/-- A frame holds the 30,840 message bytes of 48 codewords (14 R302). -/
def Frame.wf (f : Frame) : Bool :=
  decide (f.bytes.length = 30840) && decide (f.corrected + f.uncorrectable ≤ 48)

/-- A training set is 32 bytes (14 R299). -/
def setWf (bs : List Byte) : Bool := decide (bs.length = 32)

/-- The command's operands have the shapes its row can carry. -/
def WellFormed : Instr → Bool
  | .ts1 _ lane set => setWf set && decide (lane < 48)
  | .ts2 _ lane set => setWf set && decide (lane < 48)
  | .normal _ f => f.wf
  | .replayRequest _ f => f.wf
  | .napAck f => f.wf
  | .putRequest _ h d => h.wf && decide (d.length = h.length)
  | .getRequest _ h => h.wf
  | .atomicRequest _ h d => h.wf && decide (d.length = h.length)
  | .mergeRequest _ h d => h.wf && decide (d.length = h.length)
  | .putDone _ h => h.wf
  | .getData _ h _ => h.wf
  | .atomicDone _ h _ => h.wf
  | .mergeDone _ h => h.wf
  | .lightMessage src => decide (src < 272)
  | .relaySend p off len => decide (p < 256) && decide (off + len ≤ 2 ^ 21)
  | .deckReadData p _ b e => decide (p < 256) && decide (b < 4) && decide (e ≤ 72)
  | .dispatch p => decide (p < 256)
  | .regRead _ len tag => (len = 4 || len = 8) && decide (tag < 4096)
  | .regWrite _ len data => (len = 4 || len = 8) && decide (data < 2 ^ (8 * len))
  | .doorbell _ data => decide (data < 2 ^ 64)
  | .snpInv addr tag => decide (addr < 2 ^ 64) && decide (tag < 4096)
  | .refresh ch => decide (ch < 512)
  | .patrolScrub ch e => decide (ch < 512) && decide (e ≤ 72)
  | .channelLost ch _ => decide (ch < 512)
  | .stackLost st _ => decide (st < 16)
  | .parityFailure p => decide (p < 256)
  | .pierLost p _ => decide (p < 256)
  | .parapetBankParity p b => decide (p < 4) && decide (b < 16)
  | .trimEvaluation temps _ => decide (temps.length = 21)
  | _ => true

end Sys2Proof
end

