-- ==== Sys2Proof/Certificates/Slice0/Obligations.lean ====
section
/-!
DEFINITION. The statements for the provers.  A statement says what a command does in every state that meets its
hypotheses; it names the rules it formalises.  Where a command may have issued accesses or changed items, its next
state is `settle v`: the end of a step, at which accesses that failed as they were issued reach their owners and items
whose conditions hold become Ready (R58); the statement then speaks of `v`.
-/

namespace Sys2Proof.Machine

open Sys2Proof

/-- The command answers a next state, and it has the property. -/
def Answers (c : Instr) (s : State) (P : State → Prop) : Prop := ∃ t, exec c s = .next t ∧ P t

/-- The command answers the next state `settle v`, and `v` has the property. -/
def Settles (c : Instr) (s : State) (P : State → Prop) : Prop := ∃ v, exec c s = .next (settle v) ∧ P v

/-- An event set its bit, and seq advanced by one (R412). -/
def EventSet (s t : State) (off bit : Nat) : Prop := sqGet t off = ((sqGet s off).1 ||| 2 ^ bit, ((sqGet s off).2 + 1) % 65536)

/-- A counter advanced by `n` (R410). -/
def Counted (s t : State) (off n : Nat) : Prop := pairGet t off = (pairGet s off + n) % 2 ^ 64

/-- The scheduler's state is as it was, but for the numbers of trace records (R27, R28). -/
abbrev SchedKept (s t : State) : Prop := t.sched = { s.sched with traceSeq := t.sched.traceSeq }

/-- Every byte of the Deck reads as it did. -/
def DeckKept (s t : State) : Prop := ∀ a, deckByteAt t a = deckByteAt s a

/-- The Deck's bytes are in canonical form: addresses rising, no entry equal to what an unlisted byte reads as. -/
abbrev DeckCanonical (s : State) : Prop := Memory.wf (deckDefault s) s.deck.mem = true

/-- A cold reset, or a command that may start one (20 R424, R432; 21 R455, R459). -/
def mayReset : Instr → Bool
  | .coldReset | .resetNLow _ _ | .flashWrite | .bypass _ _ | .idcode | .samplePreload _ | .extest | .clamp | .highz => true
  | _ => false

/-- The commands that have to do with time, the Trestle, a Parapet, the pads, the fuses or the package in force. -/
def mayMove (c : Instr) : Bool :=
  mayReset c || match c with
  | .keystoneTick | .correctionTick | .timingFrameSend _ _ | .timingRecord _ _ _ _ | .lockLost | .parentTimeout
  | .rootTimeout | .slotTableSwitch | .lightMessage _ | .relaySend _ _ _ | .parapetUpdate _ | .parapetApply _
  | .parapetSetCreate _ _ | .parapetSetDestroy _ _ | .destroy | .napAckTimeout | .parapetBankParity _ _ | .overlaySwitch
  | .napEntryStep | .napWake | .trimEvaluation _ _ | .forcedOff _ | .rootPllLock | .loadConfig | .ownerSet
  | .brownOut _ _ _ | .mgmtBlockRead _ _ | .resetNRelease => true
  | _ => false

end Sys2Proof.Machine

open Sys2Proof Sys2Proof.Machine

/-! ### The machine as a whole -/

/-- A step takes the command at the front of the queue and runs it on the machine with the queue's rest; on an empty
queue the block idles (the model's choice, log entry 2). -/
def Obligations.StepRunsTheFrontCommand : Prop :=
  (∀ (s : State) (c : Instr) (rest : List Instr), s.pending = c :: rest → step s = exec c { s with pending := rest }) ∧
  (∀ s : State, s.pending = [] → step s = .next s)

/-- Every step takes exactly the front command off the queue: no command sends, drops or reorders another; and free values
are used in order, none twice (the model's own counter, log entry 3). -/
def Obligations.StepTakesOnlyTheFront : Prop :=
  ∀ s t : State, step s = .next t → t.pending = s.pending.tail ∧ s.free ≤ t.free

/-- Every step keeps the Deck's bytes in canonical form. -/
def Obligations.StepKeepsDeckCanonical : Prop :=
  ∀ s t : State, DeckCanonical s → step s = .next t → DeckCanonical t

/-- R429: a fuse bit, once blown, stays 1 over every step, a cold reset included. -/
def Obligations.FusesStayBlown : Prop :=
  ∀ (s t : State) (a i : Nat), step s = .next t → (fuseAt s a).toNat.testBit i = true → (fuseAt t a).toNat.testBit i = true

/-- Over every command that is no cold reset, what is lost stays lost and a device out of service stays so. -/
def Obligations.LostStaysLost : Prop :=
  ∀ (c : Instr) (s t : State), mayReset c = false → exec c s = .next t →
    (s.heal.outOfService = true → t.heal.outOfService = true) ∧
    (∀ ch ∈ s.deck.lost, ch ∈ t.deck.lost) ∧ (∀ st ∈ s.deck.stacksOut, st ∈ t.deck.stacksOut) ∧
    (∀ p, (getPier s p).lost = true → (getPier t p).lost = true)

/-- A command that has nothing to do with them leaves Keystone, the timing tree, the Trestle, the Parapets, the pads,
the fuses and the package in force as they were. -/
def Obligations.OnlyTheirCommandsMoveThem : Prop :=
  ∀ (c : Instr) (s t : State), mayMove c = false → exec c s = .next t →
    t.clock = s.clock ∧ t.timing = s.timing ∧ t.trestle = s.trestle ∧ t.parapets = s.parapets ∧ t.pads = s.pads ∧
    t.boot.fuses = s.boot.fuses ∧ t.cfg.package = s.cfg.package

/-- Reset: the Deck is canonical, no command waits, the boot phase is ROM, the clock stands at zero, nothing is
configured, and no context exists (R19, R317, R424, R425). -/
def Obligations.ResetState : Prop :=
  DeckCanonical State.reset ∧ State.reset.pending = [] ∧ State.reset.clock = { running := false, ticks := 0, count := 0 } ∧
  State.reset.boot.phase = 0 ∧ State.reset.cfg.loaded = false ∧ State.reset.ctxs = [] ∧
  State.reset.deck.lost = [] ∧ State.reset.kidLink.st = .down ∧ State.reset.heal.outOfService = false ∧
  rwGet State.reset rwTimeout = 0x01000000 ∧ rwGet State.reset rwRecordBudget = 0x001E8480 ∧
  rwGet State.reset rwItemBudget = 0x00800000 ∧ rwGet State.reset rwSlice = 0x00100000 ∧
  rwGet State.reset rwMigrateRate = 0x0200 ∧ rwGet State.reset rwResend = 0x00080000 ∧
  (∀ off ∈ sqOffsets, sqWord State.reset off = 0)

/-! ### Time -/

/-- R18, R39: a tick advances the count by 1 and the slot counter by two slots; a correction tick advances the count by
0 or by 2 and moves the estimate by one tick, and none happens within 1,024 ticks of another. -/
def Obligations.TicksAdvanceTheCount : Prop :=
  (∀ s : State, s.clock.running = true →
    exec .keystoneTick s = .next { s with
      clock := { s.clock with ticks := s.clock.ticks + 1, count := (s.clock.count + 1) % 2 ^ 64 }
      trestle := if s.trestle.on then { s.trestle with slot := s.trestle.slot + 2 } else s.trestle }) ∧
  (∀ (s : State) (up : Bool), s.clock.running = true → s.timing.correction = some up →
    (∀ k, s.timing.lastCorrection = some k → k + 1024 ≤ s.clock.ticks) →
    Answers .correctionTick s (fun t => t.clock.count = (s.clock.count + if up then 2 else 0) % 2 ^ 64 ∧
      t.clock.ticks = s.clock.ticks + 1 ∧ t.timing.correction = none ∧
      t.timing.lastCorrection = some s.clock.ticks ∧ t.timing.est = s.timing.est + (if up then 64 else -64) ∧
      t.timing.residual = s.timing.residual + (if up then 64 else -64) ∧ t.deck = s.deck ∧ t.regs = s.regs ∧ t.ctxs = s.ctxs)) ∧
  (∀ (s : State) (k : Nat), s.timing.lastCorrection = some k → s.clock.ticks < k + 1024 →
    exec .correctionTick s = .next s)

namespace Sys2Proof.Machine

/-- A record from a port takes part in an exchange with the one before it: it is the next in its number, and answers the
frame that this end sent last (16 R342). -/
abbrev Exchanges (s : State) (port : Nat) (r : Nat) : Prop :=
  (getTiming s port).record.isSome = true ∧ bitsAt r 108 8 = ((getTiming s port).rxTnum + 1) % 256 ∧
  bitsAt r 116 8 = ((getTiming s port).tnum + 255) % 256

/-- The two differences of an exchange: t2 - t1 and t4 - t3 (02, under Exchanges). -/
def differences (s : State) (port : Nat) (r : Nat) : Int × Int :=
  (capDiff (getTiming s port).rxCapture (bitsAt r 0 44), capDiff (bitsAt r 44 44) (getTiming s port).txCapture)

/-- The last eight offsets from the root, with the one that an exchange gives (02, under Exchanges). -/
def offsetsWith (s : State) (port : Nat) (r : Nat) : List Int :=
  (s.timing.samples ++ [Int.tdiv ((differences s port r).1 - (differences s port r).2) 2 + sintOf 20 (bitsAt r 88 20)]).drop
    (s.timing.samples.length + 1 - 8)

end Sys2Proof.Machine

open Sys2Proof Sys2Proof.Machine

/-- R341, R342: an ACTIVE port that has room sends a frame with its timing record, every 2,048 ticks; a record from the parent
port is an answer of the parent, with its lock bit, and one that completes an exchange whose delay lies in the accepted range
gives an estimate, the median of the last eight offsets, from which the next correction follows; an exchange outside the
range gives none.  A record of another port is kept for its port alone, and one of a port that is not ACTIVE is ignored. -/
def Obligations.TimingIsExchanged : Prop :=
  (∀ (s : State) (port : Fin 8) (frac : Fin 64), (getSpanLink s port).st = .active →
    (getTiming s port).lastSent + 2048 ≤ s.clock.ticks → (getSpanLink s port).replay.length < 64 →
    Answers (.timingFrameSend port frac) s (fun t =>
      (getSpanLink t port).replay = (getSpanLink s port).replay ++
        [newFrame (getSpanLink s port) 1 [] [] (some (timingBits s (getTiming s port)))] ∧
      (getSpanLink t port).txSeq = ((getSpanLink s port).txSeq + 1) % 65536 ∧
      getTiming t port = { getTiming s port with
        tnum := ((getTiming s port).tnum + 1) % 256, txCapture := (s.clock.count * 64 + frac) % 2 ^ 44
        lastSent := s.clock.ticks } ∧
      (∀ q, q ≠ port.val → getSpanLink t q = getSpanLink s q ∧ getTiming t q = getTiming s q) ∧
      t = { s with spanLinks := t.spanLinks, span := { s.span with timing := t.span.timing } })) ∧
  (∀ (s : State) (port : Fin 8) (frac : Fin 64), (getSpanLink s port).st ≠ .active ∨
    s.clock.ticks < (getTiming s port).lastSent + 2048 → exec (.timingFrameSend port frac) s = .next s) ∧
  (∀ (s : State) (port : Fin 8) (r : BitVec 128) (frac : Fin 64), (getSpanLink s port).st = .active →
    s.power.off = false → s.timing.isRoot = false → s.cfg.loaded = true → parentPort s = port.val →
    Answers (.timingRecord port r frac false) s (fun t =>
      t.timing.lastParent = s.clock.ticks ∧ t.timing.parentLocked = bitAt r.toNat 124 ∧
      getTiming t port = { getTiming s port with
        record := some r.toNat, rxTnum := bitsAt r.toNat 108 8, rxCapture := (s.clock.count * 64 + frac) % 2 ^ 44 } ∧
      (Exchanges s port r.toNat →
        2560 ≤ Int.tdiv ((differences s port r.toNat).1 + (differences s port r.toNat).2) 2 →
        Int.tdiv ((differences s port r.toNat).1 + (differences s port r.toNat).2) 2 ≤ 64000 →
        t.timing.lastAccepted = some s.clock.ticks ∧
        (-4096 ≤ medianInt (offsetsWith s port r.toNat) → t.timing.samples = offsetsWith s port r.toNat ∧
          t.timing.est = medianInt (offsetsWith s port r.toNat) ∧
          t.timing.residual = medianInt (offsetsWith s port r.toNat) ∧ t.clock = s.clock ∧
          t.timing.correction = (if 32 < t.timing.est then some false else if t.timing.est < -32 then some true else none))) ∧
      (¬(Exchanges s port r.toNat ∧
        2560 ≤ Int.tdiv ((differences s port r.toNat).1 + (differences s port r.toNat).2) 2 ∧
        Int.tdiv ((differences s port r.toNat).1 + (differences s port r.toNat).2) 2 ≤ 64000) →
        t.timing.est = s.timing.est ∧ t.timing.samples = s.timing.samples ∧
        t.timing.lastAccepted = s.timing.lastAccepted ∧ t.clock = s.clock) ∧
      t.deck = s.deck ∧ t.ctxs = s.ctxs ∧ t.sched = s.sched)) ∧
  (∀ (s : State) (port : Fin 8) (r : BitVec 128) (frac : Fin 64) (replayed : Bool), (getSpanLink s port).st = .active →
    s.power.off = false → s.timing.isRoot = true ∨ s.cfg.loaded = false ∨ parentPort s ≠ port.val ∨ replayed = true →
    Answers (.timingRecord port r frac replayed) s (fun t =>
      getTiming t port = { getTiming s port with
        record := if replayed then none else some r.toNat, rxTnum := bitsAt r.toNat 108 8
        rxCapture := (s.clock.count * 64 + frac) % 2 ^ 44 } ∧
      t.timing = { s.timing with lastRoot := if bitAt r.toNat 125 then s.clock.ticks else s.timing.lastRoot } ∧
      t = { s with timing := t.timing, span := { s.span with timing := t.span.timing } })) ∧
  (∀ (s : State) (port : Fin 8) (r : BitVec 128) (frac : Fin 64) (replayed : Bool), (getSpanLink s port).st ≠ .active →
    exec (.timingRecord port r frac replayed) s = .next s)

/-- R21, R24: lock is lost when a condition no longer holds, and the count at the loss is kept; a device whose parent is
silent for 16,384 ticks moves to its alternate parent; a standby root that hears no root takes the role. -/
def Obligations.TimingTreeFallsBack : Prop :=
  (∀ s : State, s.timing.locked = true → s.timing.isRoot = false → lockHolds s = false →
    Answers .lockLost s (fun t => t.timing.locked = false ∧ t.timing.loss = s.clock.count ∧ EventSet s t evSync 0 ∧
      t.clock = s.clock ∧ t.deck = s.deck)) ∧
  (∀ s : State, s.cfg.loaded = true → s.timing.isRoot = false → s.timing.onAlternate = false →
    leAt (cfgSection s 1) 7 1 ≠ 255 → s.timing.lastParent + 16384 ≤ s.clock.ticks →
    Answers .parentTimeout s (fun t => t.timing.onAlternate = true ∧ t.timing.lastParent = s.clock.ticks ∧
      EventSet s t evSync 3 ∧ t.clock = s.clock ∧ t.deck = s.deck)) ∧
  (∀ s : State, s.cfg.loaded = true → s.timing.isRoot = false → standbyId s = deviceId s →
    s.timing.lastRoot + 16384 ≤ s.clock.ticks →
    Answers .rootTimeout s (fun t => t.timing.isRoot = true ∧ t.timing.locked = true ∧ t.timing.est = 0 ∧
      t.clock = s.clock ∧ t.deck = s.deck))

/-! ### The Trestle, refresh and scratch -/

/-- R42, R47, R48, R364: the named slot table comes into force at the first cycle boundary at or after its count, and the
pairs that Piers have booked behind the boundary follow it; in a light pair an endpoint sends its head message for the
endpoint that the rotation names, once, and the first message that waits takes its place; a relay block reaches the same
scratch offset of every other Pier in service, and nothing else changes; a controller refreshes its channel. -/
def Obligations.TrestleCarries : Prop :=
  (∀ (s u : State) (n k : Nat), s.trestle.nextTable = some (n, k) → s.trestle.on = true → k ≤ s.clock.count →
    atBoundary s = true →
    u = { s with trestle := { s.trestle with table := n, nextTable := none, cycleBase := s.trestle.slot } } →
    Answers .slotTableSwitch s (fun t =>
      (∀ p, getPier t p = { getPier s p with queue := rebook u p (getPier s p).queue }) ∧ t = { u with piers := t.piers })) ∧
  (∀ (s : State) (n k : Nat), s.trestle.nextTable = some (n, k) → s.clock.count < k ∨ atBoundary s = false →
    exec .slotTableSwitch s = .next s) ∧
  (∀ (s : State) (src i : Nat) (q : List Nat), src < 272 →
    NMap.getD (getPier s src).light (lightDest src (s.trestle.slot / 16)) [] = i :: q → s.trestle.on = true →
    s.trestle.slot % 16 = 14 → endpointUp s src = true → endpointUp s (lightDest src (s.trestle.slot / 16)) = true →
    (getPier s src).lightAt ≠ some s.clock.ticks → Settles (.lightMessage src) s (fun v =>
      NMap.getD (getPier v src).light (lightDest src (s.trestle.slot / 16)) [] =
        q ++ (NMap.getD (getPier s src).lightWait (lightDest src (s.trestle.slot / 16)) []).take 1 ∧
      NMap.getD (getPier v src).lightWait (lightDest src (s.trestle.slot / 16)) [] =
        (NMap.getD (getPier s src).lightWait (lightDest src (s.trestle.slot / 16)) []).drop 1 ∧
      (getPier v src).lightAt = some s.clock.ticks ∧ (∀ p, p ≠ src → getPier v p = getPier s p) ∧
      (∀ a, NMap.find? s.kid.accs i = some a → ∃ b, NMap.find? v.kid.accs i = some b ∧ b = { a with st := b.st } ∧
        (b.st = .flying ∨ ∃ r k, b.st = .failed r k)) ∧ v.deck = s.deck ∧ v.clock = s.clock ∧ v.ctxs = s.ctxs)) ∧
  (∀ (s : State) (src : Nat), src < 272 → s.trestle.slot % 16 ≠ 14 ∨ endpointUp s src = false ∨
    endpointUp s (lightDest src (s.trestle.slot / 16)) = false ∨ (getPier s src).lightAt = some s.clock.ticks →
    exec (.lightMessage src) s = .next s) ∧
  (∀ (s : State) (pier off len : Nat), pier < 256 → off + len ≤ scratchSize → s.trestle.on = true →
    (getPier s pier).lost = false → Answers (.relaySend pier off len) s (fun t =>
      (∀ p j, p < 256 → p ≠ pier → (getPier s p).lost = false → j < len →
        memGet zeroByte t.deck.pierMem (p * scratchSize + off + j) =
          memGet zeroByte s.deck.pierMem (pier * scratchSize + off + j)) ∧
      (∀ a, ¬(a / scratchSize < 256 ∧ a / scratchSize ≠ pier ∧ (getPier s (a / scratchSize)).lost = false ∧
          off ≤ a % scratchSize ∧ a % scratchSize < off + len) →
        memGet zeroByte t.deck.pierMem a = memGet zeroByte s.deck.pierMem a) ∧
      t = { s with deck := { s.deck with pierMem := t.deck.pierMem } })) ∧
  (∀ (s : State) (ch : Nat), ch < 512 → ch ∉ s.deck.lost → s.power.nap = false → s.power.off = false →
    exec (.refresh ch) s = .next { s with
      deck := { s.deck with refreshed := NMap.set s.deck.refreshed ch s.clock.ticks } })

/-! ### Power -/

/-- R420, R421, R438: a write of 1 to CFG_SWITCH_GO schedules the overlay at its count, or is refused with its event; at
the count the pending overlay comes into force, the configuration log takes its stamp, and the slot table it names is next. -/
def Obligations.OverlaysSwitch : Prop :=
  (∀ (s : State) (data : Nat), s.power.off = false → data % 2 = 1 → s.cfg.pending = none → s.cfg.loaded = true →
    s.clock.count < pairGet s prSwitchAt → bitAt (rwGet s rwOverlaySel) 3 = false →
    (overlayImage s (rwGet s rwOverlaySel % 8)).isEmpty = false →
    exec (.cfgSwitchGo data) s = .next { s with
      cfg := { s.cfg with pending := some (pairGet s prSwitchAt, some (rwGet s rwOverlaySel % 8)) } }) ∧
  (∀ (s : State) (data : Nat), s.power.off = false → data % 2 = 1 → s.cfg.pending ≠ none →
    exec (.cfgSwitchGo data) s = .next (event s evCfg 1)) ∧
  (∀ (s : State) (k i : Nat), s.cfg.pending = some (k, some i) → k ≤ s.clock.count → s.power.off = false → s.ctxs = [] →
    Settles .overlaySwitch s (fun v => v.cfg.overlay = some i ∧ v.cfg.pending = none ∧
      v.cfg.powerCap = leAt (overlayImage s i) 8 2 ∧
      v.trestle.nextTable = some (leAt (overlayImage s i) 6 1 % 4, k) ∧ EventSet s v evCfg 0 ∧
      v.cfg.log = s.cfg.log ++ [(stamp s, some i)] ∧ v.clock = s.clock ∧ v.deck = s.deck))

/-- R445, R446: a request for Nap starts its entry when the device is quiet; entry goes by its steps; a wake source ends
it. -/
def Obligations.NapIsEnteredAndLeft : Prop :=
  (∀ s : State, s.power.off = false → s.power.nap = false → s.power.entering = none → s.power.waking = none →
    quiet s = true →
    Answers .pwrRequestNap s (fun t => t.power.entering = some 0 ∧ t.power.napTicks = s.clock.ticks ∧
      rwGet t rwPwrRequest = 2 ∧ t.clock = s.clock ∧ t.deck = s.deck ∧ t.ctxs = s.ctxs)) ∧
  (∀ s : State, s.power.off = false → s.power.nap = true → s.power.waking = none →
    Answers .pwrRequestRun s (fun t => t.power.waking.isSome = true ∧ rwGet t rwPwrRequest = 0 ∧ t.deck = s.deck)) ∧
  (∀ s : State, s.power.off = false → s.power.entering = some 0 → s.power.napTicks + 4096 ≤ s.clock.ticks →
    Answers .napEntryStep s (fun t => t.power.entering = some 1 ∧ t.trestle.on = false ∧ t.deck.pierMem = [] ∧
      t.deck.mem = s.deck.mem ∧ t.clock = s.clock)) ∧
  (∀ s : State, s.power.off = false → s.power.entering = some 1 → s.power.napTicks + 6144 ≤ s.clock.ticks →
    Answers .napEntryStep s (fun t => t.power.entering = some 2 ∧ t.kid.napStage = 1 ∧ t.deck = s.deck)) ∧
  (∀ (s : State) (k : Nat), s.power.off = false → s.power.entering = some (k + 2) → s.kidLink.st = .nap →
    Answers .napEntryStep s (fun t => t.power.nap = true ∧ t.power.entering = none ∧ t.kid.napStage = 5 ∧
      t.power.duty = 0 ∧ t.power.trim = false ∧ t.pads.alertN = true ∧ bitAt (sqGet t evPwr).1 2 = true ∧ t.deck = s.deck)) ∧
  (∀ (s : State) (w : Nat), s.power.waking = some w →
    Settles .napWake s (fun v => v.power.nap = false ∧ v.power.waking = none ∧ v.power.entering = none ∧
      v.trestle.on = true ∧ v.trestle.slot = 0 ∧ v.kid.napStage = 0 ∧ v.deck.mem = s.deck.mem))

/-- R445, R315: the Tollhouse asks the host for Nap with a NAP_REQUEST frame; with no acknowledgement within 16,384 ticks, or
with a replay buffer that is not empty 8,192 ticks after it (the model's choice, log entry 185), it asks again, and after the
fourth time the device returns to Run with the request refused. -/
def Obligations.NapGivesUpAfterFourAsks : Prop :=
  (∀ s : State, s.kid.napStage = 1 → s.kidLink.st = .active → s.kid.napAsks < 4 →
    Answers .napRequest s (fun t => t.kid = { s.kid with
        napStage := 2, napAsks := s.kid.napAsks + 1, napAskedAt := s.clock.ticks } ∧
      (s.kidLink.queue = [] → s.kidLink.slots = [] → s.kidLink.asks = [] → s.kidLink.replay.length < 64 →
        t.kidLink = { s.kidLink with
          replay := s.kidLink.replay ++ [newFrame s.kidLink 3 [] [] none], txSeq := (s.kidLink.txSeq + 1) % 65536
          crUsed := addCredit s.kidLink.crUsed 3 0 }) ∧
      t = { s with kid := t.kid, kidLink := t.kidLink })) ∧
  (∀ s : State, s.kid.napStage ≠ 1 ∨ s.kidLink.st ≠ .active ∨ 4 ≤ s.kid.napAsks → exec .napRequest s = .next s) ∧
  (∀ s : State, (s.kid.napStage = 2 ∧ s.kid.napAskedAt + 16384 ≤ s.clock.ticks ∨
      s.kid.napStage = 3 ∧ s.kid.napAskedAt + 8192 ≤ s.clock.ticks) → s.kid.napAsks < 4 →
    exec .napAckTimeout s = .next { s with
      kid := { s.kid with napStage := 1 }, kidLink := pump { s.kidLink with holding := false } }) ∧
  (∀ s : State, (s.kid.napStage = 2 ∧ s.kid.napAskedAt + 16384 ≤ s.clock.ticks ∨
      s.kid.napStage = 3 ∧ s.kid.napAskedAt + 8192 ≤ s.clock.ticks ∨ s.kid.napStage = 1) → 4 ≤ s.kid.napAsks →
    Settles .napAckTimeout s (fun v => v.power.nap = false ∧ v.power.entering = none ∧ v.power.waking = none ∧
      v.trestle.on = true ∧ v.kid.napStage = 0 ∧ rwGet v rwPwrRequest = 0 ∧ bitAt (sqGet v evPwr).1 5 = true ∧
      v.deck.mem = s.deck.mem ∧ v.clock = s.clock)) ∧
  (∀ s : State, s.kid.napStage = 2 → s.clock.ticks < s.kid.napAskedAt + 16384 → exec .napAckTimeout s = .next s)

/-- R442: the evaluation takes the hottest junction and moves gate_duty by the table; the device is in Trim while it is
above 0, entry and exit set their events, and so does a junction at the threshold.  In Trim each tick adds the duty to the
accumulator of R441, and a tick in which it passes 255 is gated. -/
def Obligations.TrimFollowsHeatAndPower : Prop :=
  (∀ (s : State) (temps : List Int) (power : Nat), temps ≠ [] → s.power.off = false → s.clock.running = true →
    s.power.nap = false → s.power.lastEval + 65536 ≤ s.clock.ticks →
    Answers (.trimEvaluation temps power) s (fun t =>
      t.power.hottest ∈ temps ∧ (∀ x ∈ temps, x ≤ t.power.hottest) ∧ temps[t.power.source]? = some t.power.hottest ∧
      t.power.watts = power ∧ t.power.lastEval = s.clock.ticks ∧
      t.power.duty = (if trimThreshold s ≤ t.power.hottest ∨ s.cfg.powerCap < power then min 224 (s.power.duty + 32)
        else if t.power.hottest ≤ trimThreshold s - 12 ∧ power * 100 ≤ s.cfg.powerCap * 95 then s.power.duty - 32
        else s.power.duty) ∧
      (t.power.trim = true ↔ 0 < t.power.duty) ∧
      (trimThreshold s ≤ t.power.hottest → bitAt (sqGet t evPwr).1 4 = true) ∧
      (s.power.duty = 0 → 0 < t.power.duty → bitAt (sqGet t evPwr).1 0 = true) ∧
      (0 < s.power.duty → t.power.duty = 0 → bitAt (sqGet t evPwr).1 1 = true) ∧
      t.clock = s.clock ∧ t.deck = s.deck ∧ t.sched = s.sched ∧ t.ctxs = s.ctxs)) ∧
  (∀ s : State, s.power.trim = true → s.power.off = false →
    exec .trimGateTick s = .next { s with power := { s.power with
      acc := if 256 ≤ s.power.acc + s.power.duty then s.power.acc + s.power.duty - 256 else s.power.acc + s.power.duty
      gated := decide (256 ≤ s.power.acc + s.power.duty) } })

/-- R457: THERM_ALERT_N is low while Trim is in force for temperature, down to 3 °C below the threshold, and from a forced
Off until the next cold reset (or the loss of AUX33, R456); Trim for the power cap alone does not drive it. -/
def Obligations.ThermalAlert : Prop :=
  (∀ (s : State) (temps : List Int) (power : Nat), temps ≠ [] → s.power.off = false → s.clock.running = true →
    s.power.nap = false → s.power.lastEval + 65536 ≤ s.clock.ticks →
    Answers (.trimEvaluation temps power) s (fun t =>
      (trimThreshold s ≤ t.power.hottest → t.pads.alertN = false) ∧
      (t.power.hottest ≤ trimThreshold s - 12 → t.pads.alertN = true) ∧
      (s.power.trimTemp = false → t.power.hottest < trimThreshold s → t.pads.alertN = true) ∧
      (s.power.trimTemp = true → trimThreshold s - 12 < t.power.hottest → 0 < t.power.duty → t.pads.alertN = false))) ∧
  (∀ (s : State) (cause : OffCause), s.power.off = false → forcesOff s cause = true →
    Answers (.forcedOff cause) s (fun t => t.pads.alertN = false ∧ t.pads.forcedOff = true)) ∧
  (∀ (c : Instr) (s t : State), mayReset c = false → (∀ mv ns, c ≠ .brownOut true mv ns) → s.power.off = true →
    s.pads.forcedOff = true → s.pads.alertN = false → exec c s = .next t →
    t.pads.forcedOff = true ∧ t.pads.alertN = false) ∧
  (∀ s : State, Answers .coldReset s (fun t => t.pads.alertN = true ∧ t.pads.forcedOff = false))

/-- R19: Keystone counts in Run, Trim and Nap whatever the gating; a cold reset and the lock of the root PLL start it at
zero; entering Off leaves the count as it is, and nothing but a cold reset moves it from there. -/
def Obligations.KeystoneCounts : Prop :=
  (∀ (s : State) (trim nap gated : Bool), s.clock.running = true →
    Answers .keystoneTick { s with power := { s.power with trim := trim, nap := nap, gated := gated } }
      (fun t => t.clock.count = (s.clock.count + 1) % 2 ^ 64)) ∧
  (∀ s : State, Answers .coldReset s (fun t => t.clock.count = 0)) ∧
  (∀ s : State, s.pads.resetN = true → s.pads.boardPg = true → s.power.off = false → s.clock.running = false →
    s.boot.phase = 0 → jtagHolds s = false →
    exec .rootPllLock s = .next { s with clock := { running := true, ticks := 0, count := 0 }
                                         trestle := { s.trestle with on := true, slot := 0, cycleBase := 0 } }) ∧
  (∀ (s : State) (cause : OffCause), s.power.off = false → forcesOff s cause = true →
    Answers (.forcedOff cause) s (fun t => t.power.off = true ∧ t.clock.running = false ∧ t.clock.count = s.clock.count)) ∧
  (∀ (c : Instr) (s t : State), mayReset c = false → s.power.off = true → s.clock.running = false →
    exec c s = .next t → t.clock = s.clock)

/-- R6, R444, R455, R456: a junction forces Off at 110 °C, or 115 °C on grade X, and below it does nothing; so does the loss of
the reference; a forced Off stops the clock, the links and the Trestle; a supply below its limit for more than
10 µs forces it, for less it does nothing, and losing AUX33 in Off releases the alert. -/
def Obligations.OffIsForced : Prop :=
  (∀ (s : State) (q : Int), (forcesOff s (.junction q) = true ↔ (if gradeX s then 460 else 440) ≤ q) ∧
    forcesOff s .reference = true) ∧
  (∀ (s : State) (q : Int), q < offThreshold s → exec (.forcedOff (.junction q)) s = .next s) ∧
  (∀ (s : State) (cause : OffCause), s.power.off = false → forcesOff s cause = true →
    Answers (.forcedOff cause) s (fun t => t.power.off = true ∧ t.clock.running = false ∧ t.kidLink.st = .down ∧
      t.trestle.on = false ∧ (∀ p, (getSpanLink t p).st = .down) ∧ t.deck = s.deck ∧ t.ctxs = s.ctxs ∧ t.regs = s.regs)) ∧
  (∀ (s : State) (aux : Bool) (mv ns : Nat), mv < (if aux then 3000 else 38000) → 10000 < ns → s.pads.resetN = true →
    s.power.off = false →
    Answers (.brownOut aux mv ns) s (fun t => t.power.off = true ∧ t.clock.running = false ∧ t.clock.count = s.clock.count ∧
      t.pads.alertN = false ∧ t.pads.forcedOff = true ∧ t.deck = s.deck ∧ t.ctxs = s.ctxs ∧ t.regs = s.regs)) ∧
  (∀ (s : State) (aux : Bool) (mv ns : Nat), ns ≤ 10000 → exec (.brownOut aux mv ns) s = .next s) ∧
  (∀ (s : State) (mv ns : Nat), mv < 3000 → 10000 < ns → s.pads.resetN = true → s.power.off = true →
    Answers (.brownOut true mv ns) s (fun t => t.pads.alertN = true ∧ t.pads.mgmtOut = [] ∧ t.power.off = true ∧ t.clock = s.clock))

/-- R424, R455: a cold reset, on the command or on 10 µs of a reset pin, returns everything to the initial state but the
fuses and the flash, the board's pins, the free values and the commands that wait (`gen` counts the fills of the Deck, log
entry 5); a shorter pulse is filtered; the board's release of the pins brings no reset. -/
def Obligations.ColdResetReturnsToTheInitialState : Prop :=
  (∀ s : State, exec .coldReset s = .next { State.reset with
    boot := { State.reset.boot with fuses := s.boot.fuses, flash := s.boot.flash }
    deck := { State.reset.deck with gen := s.deck.gen }
    pads := { s.pads with alertN := true, forcedOff := false }
    free := s.free, pending := s.pending }) ∧
  (∀ (s : State) (pg : Bool) (ns : Nat), 10000 ≤ ns → Answers (.resetNLow pg ns) s (fun t =>
    exec .coldReset s = .next { t with pads := { s.pads with alertN := true, forcedOff := false } } ∧
    t.pads.alertN = true ∧ (if pg then t.pads.boardPg else t.pads.resetN) = false)) ∧
  (∀ (s : State) (pg : Bool) (ns : Nat), ns < 10000 → exec (.resetNLow pg ns) s = .next s) ∧
  (∀ s : State, s.power.off = false →
    exec .resetNRelease s = .next { s with pads := { s.pads with resetN := true, boardPg := true } })

/-! ### Boot, the mailbox and the package -/

/-- R425, R427, R428: the ROM phase goes on to Init with the image that R427 accepts, and to Recovery with the reason
otherwise; Init ends in phase 3, or out of service, with the units that failed their tests lost. -/
def Obligations.BootGoesByItsPhases : Prop :=
  (∀ s : State, s.boot.phase = 0 → s.clock.running = true → s.power.off = false → imageReason s = none →
    Answers .romPhaseEnd s (fun t => t.boot.phase = 2 ∧ t.boot.header = flashBytes s 0 256 ∧
      t.boot.digest = sha512 (flashBytes s 0 t.boot.imageLen) ∧ t.kidLink.st = .detect ∧ t.kidLink.course = .training ∧
      t.boot.fuses = s.boot.fuses ∧
      t.deck = s.deck ∧ t.clock = s.clock ∧ t.regs = s.regs)) ∧
  (∀ (s : State) (r : Nat), s.boot.phase = 0 → s.clock.running = true → s.power.off = false → imageReason s = some r →
    Answers .romPhaseEnd s (fun t => t.boot.phase = 1 ∧ t.boot.reason = r ∧ t.kidLink.st = .detect ∧
      t.kidLink.course = .recovery ∧
      t.boot.fuses = s.boot.fuses ∧ t.deck = s.deck ∧ t.clock = s.clock ∧ t.regs = s.regs)) ∧
  (∀ (s : State) (chans piers : List Nat), s.boot.phase = 2 → s.power.off = false → (∀ c ∈ chans, c < 512) →
    (∀ p ∈ piers, p < 256) → Settles (.initPhaseEnd chans piers) s (fun v =>
      (v.boot.phase = 3 ∨ v.boot.phase = 5 ∧ v.heal.outOfService = true) ∧
      (∀ c ∈ chans, c ∈ v.deck.lost) ∧ (∀ p ∈ piers, (getPier v p).lost = true) ∧
      (∀ c ∈ chans, (c + 256) % 512 ∈ chans → v.boot.phase = 5) ∧ v.clock = s.clock)) ∧
  (∀ s : State, s.boot.phase = 2 → s.power.off = false → mustLeave s = false →
    Settles (.initPhaseEnd [] []) s (fun v => v.boot.phase = 3 ∧ v.deck = s.deck ∧ v.clock = s.clock ∧ v.regs = s.regs)) ∧
  (∀ (s : State) (chans piers : List Nat) (p : Nat), (∀ c ∈ chans, c < 512) → p ∈ piers → 256 ≤ p →
    ∃ n, exec (.initPhaseEnd chans piers) s = .fault (.noSuchUnit n))

/-- R2, R401: a device that has lost what it cannot work without leaves service, with its phase and its event: among other
things a channel and its partner, or both copies of a block of mirrored data. -/
def Obligations.DeviceLeavesService : Prop :=
  (∀ s : State, mustLeave s = true → s.heal.outOfService = false → s.power.off = false → 2 ≤ s.boot.phase →
    Settles .outOfService s (fun v => v.heal.outOfService = true ∧ v.boot.phase = 5 ∧
      bitAt (sqGet v evHeal).1 6 = true ∧ v.clock = s.clock ∧ v.deck = s.deck ∧ v.piers = s.piers)) ∧
  (∀ (s : State) (c : Nat), c ∈ s.deck.lost → (c + 256) % 512 ∈ s.deck.lost → mustLeave s = true) ∧
  (∀ (s : State) (b t : Nat), b ∈ s.deck.bad → badAt s (b * 64) = true → twinOf s (b * 64) = some t → badAt s t = true →
    mustLeave s = true)

/-- R448, R449: IDENTITY and ATTEST put their reports into MBX_OUT and end with OK and the command's tag; the attestation
report is followed by its signature. -/
def Obligations.ReportsAreWritten : Prop :=
  (∀ s : State, mbxRuns s 1 = true → Answers .identity s (fun t =>
    t.boot.busy = false ∧ t.boot.respStatus = 0 ∧ t.boot.respTag = s.boot.cmd / 65536 ∧
    memTake zeroByte t.boot.out 0x8000 256 = identityReport s ∧
    leAt (identityReport s) 0 4 = 0x44494C49 ∧ leAt (identityReport s) 4 2 = 0x4816 ∧
    t.boot.fuses = s.boot.fuses ∧ t.clock = s.clock ∧ t.deck = s.deck ∧ t.regs = s.regs)) ∧
  (∀ s : State, mbxRuns s 2 = true → Answers .attest s (fun t =>
    t.boot.busy = false ∧ t.boot.respStatus = 0 ∧ t.boot.respTag = s.boot.cmd / 65536 ∧
    (∀ r, r = attestReport s ++ pairBytes (ecdsaSign (identityNumber s) (attestReport s)) →
      memTake zeroByte t.boot.out 0x8000 r.length = r) ∧
    (attestReport s).take 256 = identityReport s ∧ t.boot.fuses = s.boot.fuses ∧ t.clock = s.clock ∧ t.deck = s.deck ∧
    t.regs = s.regs))

/-- R433: OWNER_SET blows the owner's key hash and owner_set; it is refused once the owner is set or outside phase 3; the
owner stays set over every step; and a module without an owner loads no configuration. -/
def Obligations.OwnerIsSetOnce : Prop :=
  (∀ s : State, mbxRuns s 5 = true → ownerSet s = false → s.boot.phase = 3 → Answers .ownerSet s (fun t =>
    ownerSet t = true ∧
    (∀ k < 64, fuseAt t (0x180 + k) = (fuseAt s (0x180 + k) ||| (mbxArg s 0 64).getD k 0#8)) ∧
    (∀ a, a ≠ 1 → (a < 0x180 ∨ 0x1C0 ≤ a) → fuseAt t a = fuseAt s a) ∧
    t.boot.busy = false ∧ t.boot.respStatus = 0 ∧ t.clock = s.clock ∧ t.deck = s.deck ∧ t.regs = s.regs)) ∧
  (∀ s : State, mbxRuns s 5 = true → (ownerSet s = true ∨ s.boot.phase ≠ 3) → Answers .ownerSet s (fun t =>
    t.boot.respStatus = 0x14 ∧ t.boot.busy = false ∧ t.boot.fuses = s.boot.fuses ∧ t.clock = s.clock ∧ t.deck = s.deck)) ∧
  (∀ s t : State, ownerSet s = true → step s = .next t → ownerSet t = true) ∧
  (∀ s : State, mbxRuns s 3 = true → ownerSet s = false → Answers .loadConfig s (fun t =>
    t.boot.respStatus = 0x14 ∧ t.boot.detail = 9 ∧ t.boot.busy = false ∧ t.cfg = s.cfg ∧ t.boot.fuses = s.boot.fuses ∧
    t.clock = s.clock ∧ t.deck = s.deck))

/-- R436, R432: a package that has been read is checked; one that passes comes into force and the device runs, and one that
fails a check changes nothing but the mailbox, which holds the status and the reason.  The package is read from host memory
first. -/
def Obligations.ConfigurationIsLoaded : Prop :=
  (∀ (s : State) (p : List Byte), mbxRuns s 3 = true → ownerSet s = true → s.ctxs = [] → s.cfg.pending = none →
    mbxRead s (2 ^ 44) = .got p → Answers .loadConfig s (fun t =>
      (packageFault s p = none → ∃ v, t = settle v ∧ v.cfg.package = p ∧ v.cfg.loaded = true ∧ v.cfg.pending = none ∧
        v.boot.phase = (if s.heal.outOfService then 5 else 4) ∧ v.boot.respStatus = 0 ∧ v.boot.busy = false) ∧
      (∀ st r, packageFault s p = some (st, r) → t.boot.respStatus = st ∧ t.boot.detail = r ∧ t.boot.busy = false ∧ t.cfg = s.cfg ∧
        t.boot.fuses = s.boot.fuses ∧ t.boot.phase = s.boot.phase ∧ t.clock = s.clock ∧ t.timing = s.timing ∧
        t.deck = s.deck ∧ t.regs = s.regs))) ∧
  (∀ s u : State, mbxRuns s 3 = true → ownerSet s = true → s.ctxs = [] → s.cfg.pending = none →
    mbxRead s (2 ^ 44) = .ask u → exec .loadConfig s = .next (settle u))

/-- R432, R428: FLASH_WRITE writes the bytes from offset 0 of the flash and ends with OK; in Recovery a cold reset follows,
which keeps them; the bytes are read from host memory first. -/
def Obligations.FlashIsWritten : Prop :=
  (∀ (s : State) (bs : List Byte), mbxRuns s 4 = true → mbxRead s (15 * 2 ^ 20) = .got bs → s.boot.phase ≠ 1 →
    Answers .flashWrite s (fun t => flashBytes t 0 bs.length = bs ∧ t.boot.busy = false ∧ t.boot.respStatus = 0 ∧
      t.boot.respTag = s.boot.cmd / 65536 ∧ t.boot.phase = s.boot.phase ∧ t.boot.fuses = s.boot.fuses ∧
      t.clock = s.clock ∧ t.deck = s.deck ∧ t.regs = s.regs)) ∧
  (∀ (s : State) (bs : List Byte), mbxRuns s 4 = true → mbxRead s (15 * 2 ^ 20) = .got bs → s.boot.phase = 1 →
    Answers .flashWrite s (fun t => flashBytes t 0 bs.length = bs ∧ t.boot.phase = 0 ∧ t.clock = State.reset.clock ∧
      t.boot.fuses = s.boot.fuses)) ∧
  (∀ s u : State, mbxRuns s 4 = true → mbxRead s (15 * 2 ^ 20) = .ask u → exec .flashWrite s = .next (settle u))

/-! ### Management and boundary scan -/

/-- R458, R456: while AUX33 stands a block read of command 0 returns the record; every other command and every write is answered NACK; nothing else
changes. -/
def Obligations.ManagementAnswers : Prop :=
  (∀ s : State, s.power.off = false ∨ s.pads.forcedOff = true → ∃ bs, exec (.mgmtBlockRead 0 false) s = .next { s with pads := { s.pads with mgmtOut := bs, mgmtNack := false } } ∧
    bs.length = 16 ∧ leAt bs 0 2 = 0x4816 ∧ leAt bs 2 1 = (if s.power.off then 0xFF else s.boot.phase % 256) ∧
    leAt bs 3 1 = (if s.power.off then 3 else if s.power.nap then 2 else if s.power.trim then 1 else 0) ∧
    leAt bs 4 2 = (if s.power.off then 0 else intBits 16 s.power.hottest) ∧ bs.drop 9 = zeros 7 ∧
    leAt bs 6 2 = (if s.power.off then 0 else s.power.watts % 65536) ∧ bitAt (leAt bs 8 1) 0 = !s.pads.alertN ∧
    bitAt (leAt bs 8 1) 1 = s.heal.outOfService ∧ bitAt (leAt bs 8 1) 2 = s.pads.forcedOff) ∧
  (∀ (s : State) (cmd : Nat) (write : Bool), cmd ≠ 0 ∨ write = true ∨ s.power.off = true ∧ s.pads.forcedOff = false →
    exec (.mgmtBlockRead cmd write) s = .next { s with pads := { s.pads with mgmtOut := [], mgmtNack := true } })

/-- R459: BYPASS shifts one bit, IDCODE gives its register, SAMPLE/PRELOAD loads the cells; EXTEST, CLAMP and HIGHZ hold the
device in cold reset, and leaving them starts one.  (Which code selects an instruction is the model's own.) -/
def Obligations.BoundaryScan : Prop :=
  (∀ (s : State) (code tdi : Nat), jtagHolds s = false → Answers (.bypass code tdi) s (fun t =>
    t.pads.jtagIr = 255 ∧ t.pads.bypassBit = (tdi % 2 == 1) ∧
    (s.pads.jtagIr = 255 → t.pads.tdo = if s.pads.bypassBit then 1 else 0) ∧
    t.clock = s.clock ∧ t.deck = s.deck ∧ t.regs = s.regs ∧ t.ctxs = s.ctxs)) ∧
  (∀ s : State, jtagHolds s = false → Answers .idcode s (fun t => bitsAt t.pads.tdo 12 16 = 0x4816 ∧
    bitsAt t.pads.tdo 0 1 = 1 ∧ t.clock = s.clock ∧ t.deck = s.deck ∧ t.regs = s.regs ∧ t.ctxs = s.ctxs)) ∧
  (∀ (s : State) (cells : List Bool), jtagHolds s = false → Answers (.samplePreload cells) s (fun t =>
    t.pads.cells = cells ∧ t.clock = s.clock ∧ t.deck = s.deck ∧ t.regs = s.regs ∧ t.ctxs = s.ctxs)) ∧
  (∀ (s : State) (c : Instr), c = .extest ∨ c = .clamp ∨ c = .highz → Answers c s (fun t =>
    jtagHolds t = true ∧ t.clock = State.reset.clock ∧ t.ctxs = [] ∧ t.regs = State.reset.regs ∧ t.deck.mem = [] ∧
    t.boot.phase = 0 ∧ (t.pads.outputsFloat = true ↔ c = .highz) ∧ t.pads.cells = s.pads.cells)) ∧
  (∀ (s : State) (c : Instr), jtagHolds s = true →
    (∃ code tdi cells, c = .bypass code tdi ∨ c = .idcode ∨ c = .samplePreload cells) →
    Answers c s (fun t => jtagHolds t = false ∧ t.clock = State.reset.clock ∧ t.ctxs = [] ∧ t.regs = State.reset.regs ∧
      t.boot.phase = 0))

/-! ### Registers -/

namespace Sys2Proof.Machine

/-- The control window answers at once: not in Off, past the ROM phase and Recovery, and no slow access in the way. -/
abbrev WindowOpen (s : State) : Prop :=
  s.power.off = false ∧ 2 ≤ s.boot.phase ∧ s.regs.slowBusy = none ∧ s.regs.parked = []

/-- The REG_DATA packet of an answer (14 R309, R310). -/
def regData (tag status v : Nat) : Packet := { hdr := kidHdr 0x22 status tag 0 v, data := [] }

end Sys2Proof.Machine

open Sys2Proof Sys2Proof.Machine

/-- R406, R409: a read of an implemented register is answered with its word and changes nothing else; a write stores under
the register's rule; what is a bus error is counted, its offset kept, bus_error set, a read of it answered UNMAPPED and
a write of it dropped whole. -/
def Obligations.RegistersAnswer : Prop :=
  (∀ (s : State) (off tag : Nat), WindowOpen s → off < 0x400000 → accessOk s off 4 = true → pairOf? off = none →
    off ≠ rwSlowData → exec (.regRead off 4 tag) s = .next (settle (kidSend s (regData tag 0 (wordOf s off))))) ∧
  (∀ (s : State) (off data : Nat), WindowOpen s → (rwRow off).isSome = true → off ≠ rwPwrRequest → off ≠ rwSlowData →
    data < 2 ^ 32 → writeRefused s 0 off data = false →
    exec (.regWrite off 4 data) s = .next (settle (rwStore s off data))) ∧
  (∀ (s : State) (off len tag : Nat), WindowOpen s → accessOk s off len = false → Settles (.regRead off len tag) s (fun v =>
    Counted s v ctBusErr 1 ∧ EventSet s v evReg 0 ∧ v.regs.busErrAddr = off % 2 ^ 29 + (if len = 8 then 2 ^ 30 else 0) ∧
    v.kidLink = (kidSend s (regData tag 3 0)).kidLink ∧ v.regs.words = s.regs.words ∧ v.deck = s.deck)) ∧
  (∀ (s : State) (off len data : Nat), WindowOpen s → accessOk s off len = false → off < 0x10000000 →
    Settles (.regWrite off len data) s (fun v => Counted s v ctBusErr 1 ∧ EventSet s v evReg 0 ∧
      v.regs.busErrAddr = off % 2 ^ 29 + 2 ^ 29 + (if len = 8 then 2 ^ 30 else 0) ∧
      v.kidLink = s.kidLink ∧ v.regs.words = s.regs.words ∧ v.deck = s.deck))

/-- R410: a 4-byte read of _LO answers the low half and latches the high half, a read of _HI answers the latch, and an
8-byte read answers both halves of one value; a write of _LO to an RW pair goes into the write shadow, a write of _HI
stores both, an 8-byte write stores both at once, and a write to an RO pair is ignored; counters wrap at 2^64 and reset to
zero. -/
def Obligations.PairsAreReadAndWrittenWhole : Prop :=
  (∀ (s : State) (p tag : Nat), WindowOpen s → p ∈ pairOffsets → Settles (.pairLoRead p tag) s (fun v =>
    v.regs = { s.regs with readShadow := NMap.set s.regs.readShadow p (pairValue s p / 2 ^ 32) } ∧
    v.kidLink = (kidSend s (regData tag 0 (pairValue s p % 2 ^ 32))).kidLink ∧ v.deck = s.deck)) ∧
  (∀ (s : State) (p tag : Nat), WindowOpen s → p ∈ pairOffsets →
    exec (.regRead (p + 4) 4 tag) s = .next (settle (kidSend s (regData tag 0 (NMap.getD s.regs.readShadow p 0))))) ∧
  (∀ (s : State) (p tag : Nat), WindowOpen s → p ∈ pairOffsets → Settles (.regRead p 8 tag) s (fun v =>
    v.regs = { s.regs with readShadow := NMap.set s.regs.readShadow p (pairValue s p / 2 ^ 32) } ∧
    v.kidLink = (kidSend s (regData tag 0 (pairValue s p))).kidLink ∧ v.deck = s.deck)) ∧
  (∀ (s : State) (p data : Nat), WindowOpen s → p = prAdminAddr ∨ p = prSwitchAt → Settles (.pairLoWrite p data) s (fun v =>
    v.regs = { s.regs with writeShadow := NMap.set s.regs.writeShadow p (data % 2 ^ 32) } ∧ v.deck = s.deck)) ∧
  (∀ (s : State) (p data : Nat), WindowOpen s → p = prAdminAddr ∨ p = prSwitchAt → Settles (.pairHiWrite p data) s (fun v =>
    pairGet v p = NMap.getD s.regs.writeShadow p 0 + 2 ^ 32 * (data % 2 ^ 32) ∧
    (∀ q, q ≠ p → pairGet v q = pairGet s q) ∧ v.regs.words = s.regs.words ∧ v.deck = s.deck)) ∧
  (∀ (s : State) (p data : Nat), WindowOpen s → p = prAdminAddr ∨ p = prSwitchAt → data < 2 ^ 64 →
    Settles (.regWrite p 8 data) s (fun v => pairGet v p = data ∧ (∀ q, q ≠ p → pairGet v q = pairGet s q) ∧
      v.regs.words = s.regs.words ∧ v.deck = s.deck)) ∧
  (∀ (s : State) (p data : Nat), WindowOpen s → p ∈ pairOffsets → p ≠ prAdminAddr → p ≠ prSwitchAt →
    exec (.pairLoWrite p data) s = .next (settle s) ∧ exec (.pairHiWrite p data) s = .next (settle s) ∧
    exec (.regWrite p 8 data) s = .next (settle s)) ∧
  (∀ (s : State) (off n : Nat), pairGet (bump s off n) off = (pairGet s off + n) % 2 ^ 64) ∧
  (∀ off, pairGet State.reset off = 0 ∧ NMap.getD State.reset.regs.readShadow off 0 = 0)

/-- R411: an alias write stores s or w, s and not w, or s xor w in the RW fields, and the register's store rule applies to
the result; on an SQ register and a W1P field it does nothing; a read through an alias is a read of the register. -/
def Obligations.AliasesActOnRwFields : Prop :=
  (∀ (s : State) (off data mask r : Nat), WindowOpen s → rwRow off = some (mask, r) → off ≠ rwPwrRequest → off ≠ rwSlowData →
    data < 2 ^ 32 → rwReserved off (rwGet s off ||| data &&& mask) = false →
    rwReserved off (rwGet s off &&& (data &&& mask ^^^ (2 ^ 32 - 1))) = false →
    rwReserved off (rwGet s off ^^^ data &&& mask) = false → rwGet s off &&& mask = rwGet s off →
    Settles (.setAliasWrite off data) s (fun v => rwGet v off = rwClamp off (rwGet s off ||| data &&& mask) ∧ v.deck = s.deck) ∧
    Settles (.clearAliasWrite off data) s (fun v =>
      rwGet v off = rwClamp off (rwGet s off &&& (data &&& mask ^^^ (2 ^ 32 - 1))) ∧ v.deck = s.deck) ∧
    Settles (.toggleAliasWrite off data) s (fun v => rwGet v off = rwClamp off (rwGet s off ^^^ data &&& mask) ∧ v.deck = s.deck)) ∧
  (∀ (s : State) (off data : Nat), WindowOpen s → off ∈ sqOffsets ∨ off = wpAdminGo ∨ off = wpSwitchGo →
    exec (.setAliasWrite off data) s = .next (settle s) ∧ exec (.clearAliasWrite off data) s = .next (settle s) ∧
    exec (.toggleAliasWrite off data) s = .next (settle s)) ∧
  (∀ (s : State) (k off len tag : Nat), k < 4 → off < 0x400000 → WindowOpen s → accessOk s off len = true →
    exec (.regRead (k * 0x400000 + off) len tag) s = exec (.regRead off len tag) s)

/-- R412: an event sets its bit and adds 1 to seq, also when the bit is set; a write clears every event bit exactly when
its upper half equals seq, its lower half being ignored; a write that meets an event of the same tick finds seq moved on;
events and seq reset to zero. -/
def Obligations.SeqClearRegisters : Prop :=
  (∀ (s : State) (off bit : Nat), EventSet s (event s off bit) off bit ∧
    ∀ o, o ≠ off → sqGet (event s off bit) o = sqGet s o) ∧
  (∀ (s : State) (off data : Nat), WindowOpen s → off ∈ sqOffsets → data < 2 ^ 32 → data / 65536 = (sqGet s off).2 →
    Settles (.sqWrite off data) s (fun v => sqGet v off = (0, (sqGet s off).2) ∧ (∀ o, o ≠ off → sqGet v o = sqGet s o) ∧
      v.regs.words = s.regs.words ∧ v.deck = s.deck)) ∧
  (∀ (s : State) (off data : Nat), WindowOpen s → off ∈ sqOffsets → data < 2 ^ 32 → data / 65536 ≠ (sqGet s off).2 →
    exec (.sqWrite off data) s = .next (settle s)) ∧
  (∀ (s : State) (off bit data : Nat), WindowOpen s → off ∈ sqOffsets → data < 2 ^ 32 → data / 65536 = (sqGet s off).2 →
    exec (.sqWrite off data) (event s off bit) = .next (settle (event s off bit))) ∧
  (∀ off ∈ sqOffsets, sqGet State.reset off = (0, 0))

/-- R413, R317, R421: a 1 in CTX_ADMIN_GO starts the operation of CTX_ADMIN_OP in the tick of the write, and while one runs
it is ignored and sets collided; CFG_SWITCH_GO refuses a second switch; the aliases start neither. -/
def Obligations.W1pFieldsStartTheirAction : Prop :=
  (∀ (s : State) (data : Nat), WindowOpen s → data % 2 = 1 → data < 2 ^ 32 → s.regs.adminBusy = 0 → rwGet s rwAdminOp % 8 ≠ 0 →
    s.power.nap = false → s.power.entering = none →
    Settles (.regWrite wpAdminGo 4 data) s (fun v => v.regs.adminBusy = rwGet s rwAdminOp % 8 ∧
      v.regs.adminCtx = rwGet s rwAdminOp / 65536 ∧ v.ctxs = s.ctxs ∧ v.deck = s.deck)) ∧
  (∀ (s : State) (data : Nat), WindowOpen s → data % 2 = 1 → data < 2 ^ 32 → s.regs.adminBusy ≠ 0 →
    exec (.regWrite wpAdminGo 4 data) s = .next (settle (event s evAdmin 1))) ∧
  (∀ (s : State) (data : Nat), WindowOpen s → data % 2 = 1 → data < 2 ^ 32 → s.cfg.pending ≠ none →
    exec (.regWrite wpSwitchGo 4 data) s = .next (settle (event s evCfg 1))) ∧
  (∀ (s : State) (off data : Nat), WindowOpen s → off = wpAdminGo ∨ off = wpSwitchGo →
    exec (.setAliasWrite off data) s = .next (settle s) ∧ exec (.clearAliasWrite off data) s = .next (settle s) ∧
    exec (.toggleAliasWrite off data) s = .next (settle s))

namespace Sys2Proof.Machine

/-- The machine as a slow domain sees it: the access no longer outstanding, its measured figures drawn. -/
def slowBegun (s : State) : State := { s with regs := { s.regs with slowBusy := none }, free := s.free + 1 }

end Sys2Proof.Machine

open Sys2Proof Sys2Proof.Machine

/-- R416, R417: an access to SLOW_DATA acts at the domain and offset of SLOW_ADDR: a read is answered with the word, a good
access clears the error and advances the offset under autoinc, a failing one returns zero or is dropped, keeps the
offset and sets error, cause and slow_error; without an answer in 2,048 ticks it fails with cause 1. -/
def Obligations.SlowAccessesActAtTheirDomain : Prop :=
  (∀ (s : State) (tag since v : Nat), s.power.off = false → s.boot.phase ≠ 0 → s.regs.slowBusy = some (0, tag, since) →
    s.regs.parked = [] → slowRead (slowBegun s) (slowDomain s) (slowOffset s) = .word v →
    Settles (.slowDataRead tag) s (fun w => w.kidLink = (kidSend s (regData tag 0 v)).kidLink ∧ w.regs.slowBusy = none ∧
      w.regs.slowError = false ∧ w.regs.slowCause = 0 ∧
      (bitAt (rwGet s rwSlowAddr) 28 = false → w.regs.words = s.regs.words) ∧
      (∀ f, rwGet s rwSlowAddr = 0x10000000 + 0x1000000 * slowDomain s + f → f % 4 = 0 → f + 4 < 2 ^ 24 → slowDomain s < 4 →
        slowOffset w = f + 4 ∧ slowDomain w = slowDomain s))) ∧
  (∀ (s : State) (tag since c : Nat), s.power.off = false → s.boot.phase ≠ 0 → s.regs.slowBusy = some (0, tag, since) →
    s.regs.parked = [] → slowRead (slowBegun s) (slowDomain s) (slowOffset s) = .fail c →
    Settles (.slowDataRead tag) s (fun w => w.kidLink = (kidSend s (regData tag 0 0)).kidLink ∧ w.regs.slowBusy = none ∧
      w.regs.slowError = true ∧ w.regs.slowCause = c ∧ EventSet s w evReg 1 ∧ w.regs.words = s.regs.words)) ∧
  (∀ (s : State) (data since : Nat), s.power.off = false → s.boot.phase ≠ 0 → data < 2 ^ 32 →
    s.regs.slowBusy = some (2, data, since) → s.regs.parked = [] →
    (slowWrite (slowBegun s) (slowDomain s) (slowOffset s) data).2 = 0 →
    Settles (.slowDataWrite data) s (fun w => w.boot = (slowWrite (slowBegun s) (slowDomain s) (slowOffset s) data).1.boot ∧
      w.regs.slowBusy = none ∧ w.regs.slowError = false)) ∧
  (∀ (s : State) (data since c : Nat), s.power.off = false → s.boot.phase ≠ 0 → data < 2 ^ 32 →
    s.regs.slowBusy = some (2, data, since) → s.regs.parked = [] → c ≠ 0 →
    (slowWrite (slowBegun s) (slowDomain s) (slowOffset s) data).2 = c →
    Settles (.slowDataWrite data) s (fun w => w.boot = s.boot ∧ w.regs.slowBusy = none ∧ w.regs.slowError = true ∧
      w.regs.slowCause = c ∧ w.regs.words = s.regs.words)) ∧
  (∀ (s : State) (tag since : Nat), s.regs.slowBusy = some (0, tag, since) → s.regs.parked = [] → since + 2048 ≤ s.clock.ticks →
    s.power.off = false → Settles .slowAccessTimeout s (fun w => w.kidLink = (kidSend s (regData tag 0 0)).kidLink ∧
      w.regs.slowBusy = none ∧ w.regs.slowError = true ∧ w.regs.slowCause = 1 ∧ EventSet s w evReg 1 ∧
      w.regs.words = s.regs.words ∧ w.boot = s.boot))

/-! ### Links -/

/-- R299, R300: in RATE0 a good training set gives the lane's number, polarity and the far end's widths, and a good TS2
counts while anything else starts the lane's count again; the link is reversed when every detected lane sees lane number
n - 1 - i.  In EQ a good set gives the far transmitter's preset, this one takes the preset asked of it, and a preset of 0 to
15 or none is asked of the far one. -/
def Obligations.TrainingSetsAreRead : Prop :=
  (∀ (s : State) (port : Fin 9) (lane ty : Nat) (set b : List Byte) (inv : Bool) (c : Instr), linkPowered s port = true →
    lane < lanesOf port → (getLink s port).st = .rate0 → readSet set = some (inv, b) → setGood port ty .rate0 b = true →
    (c = .ts1 port lane set ∧ ty = 1 ∨ c = .ts2 port lane set ∧ ty = 2) →
    Answers c s (fun t => NMap.find? (getLink t port).seen lane = some (leAt b 5 1) ∧
      NMap.find? (getLink t port).polarity lane = some inv ∧ (getLink t port).farWidths = leAt b 6 1 ∧
      NMap.find? (getLink t port).ts2 lane = (if ty = 2 then some (NMap.getD (getLink s port).ts2 lane 0 + 1) else none) ∧
      (∀ k, k ≠ lane → NMap.find? (getLink t port).ts2 k = NMap.find? (getLink s port).ts2 k) ∧
      ((∀ k ∈ (getLink s port).detected, k = lane ∨ NMap.has (getLink s port).seen k = true) →
        ((getLink t port).reversed = true ↔ (getLink s port).detected ≠ [] ∧ ∀ k ∈ (getLink s port).detected,
          NMap.find? (getLink t port).seen k = some (lanesOf port - 1 - k))) ∧
      (getLink t port).st = .rate0 ∧ t = setLink { s with free := s.free + 1 } port (getLink t port))) ∧
  (∀ (s : State) (port : Fin 9) (lane ty : Nat) (set b : List Byte) (inv : Bool) (c : Instr), linkPowered s port = true →
    lane < lanesOf port → (getLink s port).st = .eq → readSet set = some (inv, b) → setGood port ty .eq b = true →
    (c = .ts1 port lane set ∧ ty = 1 ∨ c = .ts2 port lane set ∧ ty = 2) →
    Answers c s (fun t => NMap.find? (getLink t port).farPresets lane = some (leAt b 8 1) ∧
      NMap.find? (getLink t port).presets lane =
        (if leAt b 9 1 < 16 then some (leAt b 9 1) else NMap.find? (getLink s port).presets lane) ∧
      (∃ q, NMap.find? (getLink t port).presetAsks lane = some q ∧ (q < 16 ∨ q = 255)) ∧
      NMap.find? (getLink t port).polarity lane = some inv ∧ (getLink t port).seen = (getLink s port).seen ∧
      (getLink t port).st = .eq ∧ t = setLink { s with free := s.free + 1 } port (getLink t port))) ∧
  (∀ (s : State) (port : Fin 9) (lane ty : Nat) (set : List Byte) (c : Instr), linkPowered s port = true →
    lane < lanesOf port → (getLink s port).st = .rate0 →
    (readSet set = none ∨ ∃ inv b, readSet set = some (inv, b) ∧ setGood port ty .rate0 b = false) →
    (c = .ts1 port lane set ∧ ty = 1 ∨ c = .ts2 port lane set ∧ ty = 2) →
    Answers c s (fun t => NMap.find? (getLink t port).ts2 lane = none ∧ (getLink t port).seen = (getLink s port).seen ∧
      (getLink t port).farWidths = (getLink s port).farWidths ∧ (getLink t port).st = .rate0 ∧
      t = setLink { s with free := s.free + 1 } port (getLink t port)))

namespace Sys2Proof.Machine

/-- Frames that start afresh at ALIGN: one NORMAL frame of sequence 0 has gone out, which advertises the credits, and none has
been accepted (14 R300, R308). -/
abbrev FreshFrames (l : Link) : Prop :=
  l.txSeq = 1 ∧ l.rxSeq = 65535 ∧ l.alignOk = false ∧ l.alignSeq = some 0 ∧ l.crFar = [0, 0, 0, 0] ∧
  ∃ f, l.replay = [f] ∧ f.seq = 0 ∧ f.kind = 1 ∧ f.credits = l.crGiven ∧ f.hdrs = [] ∧ f.slots = []

/-- Frames that go on at ALIGN: what was unacknowledged stays, and a NORMAL frame of this ALIGN waits for its
acknowledgement (14 R307). -/
abbrev KeptFrames (l l1 : Link) : Prop :=
  l1.alignOk = false ∧ (∃ q, l1.alignSeq = some q ∧ ∃ f ∈ l1.replay, f.seq = q ∧ f.kind = 1) ∧ l.replay <+: l1.replay ∧
  l1.rxSeq = l.rxSeq

/-- The link of a port moved, and nothing else changed. -/
abbrev OnlyLink (s t : State) (p : Nat) : Prop := t = setLink s p (getLink t p)

end Sys2Proof.Machine

open Sys2Proof Sys2Proof.Machine

/-- R300, R301, R307, R315: a training state whose exit condition is met goes on to the next, with the widest width whose
lanes pass; after EQ frames start afresh at ALIGN, and the link is ACTIVE once a NORMAL frame was accepted in each
direction.  The pair of Nap or of Recovery goes from RATE0 to ALIGN and to Nap.  RETRAIN keeps the replay buffers, narrows to
the lanes that pass, and ends with an ALIGN of its own.  A state that passes its limit goes back to DETECT, and DOWN at the
fourth failure; a link that is DOWN tries again after 16,777,216 ticks; eight requests for one frame retrain it. -/
def Obligations.LinksTrain : Prop :=
  (∀ (s : State) (port : Fin 9) (lanes : List Nat), linkPowered s port = true → (getLink s port).st = .detect →
    (if port.val = 0 ∧ (getLink s port).course ≠ .recovery then 12 else 2) ≤ lanes.length →
    Answers (.trainingStateExit port lanes) s (fun t => (getLink t port).st = .rate0 ∧ (getLink t port).detected = lanes ∧
      (getLink t port).entered = s.clock.ticks ∧ (getLink t port).ts2 = [] ∧ OnlyLink s t port)) ∧
  (∀ (s : State) (port : Fin 9) (lanes good : List Nat) (w f : Nat), linkPowered s port = true →
    (getLink s port).st = .rate0 → (getLink s port).course ≠ .recovery → (getLink s port).course ≠ .napIn →
    good = lanes.filter (fun k => decide (16 ≤ NMap.getD (getLink s port).ts2 k 0)) →
    chooseWidth port (getLink s port).farWidths good = some (w, f) →
    Answers (.trainingStateExit port lanes) s (fun t => (getLink t port).st = .eq ∧ (getLink t port).width = w ∧
      (getLink t port).firstLane = f ∧ (getLink t port).detected = good ∧ OnlyLink s t port)) ∧
  (∀ (s : State) (port : Fin 9) (lanes : List Nat), linkPowered s port = true → (getLink s port).st = .rate0 →
    napPair (getLink s port) (lanes.filter (fun k => decide (16 ≤ NMap.getD (getLink s port).ts2 k 0))) = true →
    ((getLink s port).course = .recovery ∨ (getLink s port).course = .napIn) →
    Answers (.trainingStateExit port lanes) s (fun t => (getLink t port).st = .align ∧ (getLink t port).width = 2 ∧
      (getLink t port).napLink = true ∧ ((getLink s port).course = .recovery → FreshFrames (getLink t port)) ∧
      ((getLink s port).course = .napIn → KeptFrames (getLink s port) (getLink t port)) ∧ OnlyLink s t port)) ∧
  (∀ (s : State) (port : Fin 9) (lanes : List Nat) (w f : Nat), linkPowered s port = true → (getLink s port).st = .eq →
    chooseWidth port (getLink s port).farWidths (lanes.filter (getLink s port).detected.contains) = some (w, f) →
    Answers (.trainingStateExit port lanes) s (fun t => (getLink t port).st = .align ∧ (getLink t port).width = w ∧
      (getLink t port).firstLane = f ∧ (getLink t port).napLink = false ∧
      ((getLink s port).course = .napOut ∧ port.val = 0 → KeptFrames (getLink s port) (getLink t port)) ∧
      (¬((getLink s port).course = .napOut ∧ port.val = 0) → FreshFrames (getLink t port)) ∧ OnlyLink s t port)) ∧
  (∀ (s : State) (port : Fin 9) (lanes : List Nat), linkPowered s port = true →
    (getLink s port).st = .align ∨ (getLink s port).st = .retrain ∧ (getLink s port).course = .realign →
    (getLink s port).alignOk = true → (getLink s port).alignSeq = none →
    Settles (.trainingStateExit port lanes) s (fun v =>
      (getLink v port).st = (if (getLink s port).st = .align then
          (if (getLink s port).course = .napIn ∨ (getLink s port).course = .recovery then .nap else .active)
        else if (getLink s port).napLink = true then .nap else .active) ∧
      (getLink v port).failures = 0 ∧ (getLink v port).width = (getLink s port).width ∧
      (port.val = 0 → (getLink s port).width < 48 → (getLink v port).st = .active → bitAt (sqGet v evKid).1 1 = true) ∧
      (port.val ≠ 0 → EventSet s v evSpan 1) ∧ v.deck = s.deck ∧ v.sched = s.sched)) ∧
  (∀ (s : State) (port : Fin 9) (lanes : List Nat) (w f : Nat), linkPowered s port = true → (getLink s port).st = .retrain →
    (getLink s port).course ≠ .realign → (getLink s port).napLink = false →
    chooseWidth port (getLink s port).farWidths (lanes.filter (getLink s port).detected.contains) = some (w, f) →
    Answers (.trainingStateExit port lanes) s (fun t => (getLink t port).st = .retrain ∧
      (getLink t port).course = .realign ∧ (getLink t port).width = w ∧ (getLink t port).firstLane = f ∧
      KeptFrames (getLink s port) (getLink t port) ∧ OnlyLink s t port)) ∧
  (∀ (s : State) (port : Fin 9) (lanes : List Nat), linkPowered s port = true → (getLink s port).st = .retrain →
    (getLink s port).course ≠ .realign → (getLink s port).napLink = true → napPair (getLink s port) lanes = true →
    Answers (.trainingStateExit port lanes) s (fun t => (getLink t port).st = .retrain ∧
      (getLink t port).course = .realign ∧ KeptFrames (getLink s port) (getLink t port) ∧ OnlyLink s t port)) ∧
  (∀ (s : State) (port : Fin 9) (n : Nat), deadline (getLink s port) = some n → n ≤ s.clock.ticks →
    Answers (.trainingStateTimeout port) s (fun t =>
      (getLink t port).st = (if 3 ≤ (getLink s port).failures then .down else .detect) ∧
      (getLink t port).failures = (if 3 ≤ (getLink s port).failures then 0 else (getLink s port).failures + 1) ∧
      (getLink t port).replay = (getLink s port).replay ∧ (getLink t port).queue = (getLink s port).queue ∧
      (port.val = 0 → 3 ≤ (getLink s port).failures → EventSet s t evKid 2) ∧
      (port.val = 0 → (getLink s port).course = .napIn → t.kid.napStage = 1) ∧ t.deck = s.deck ∧ t.ctxs = s.ctxs)) ∧
  (∀ (s : State) (port : Fin 9), (getLink s port).st = .down → linkPowered s port = true →
    (if port.val = 0 then 1 else 3) ≤ s.boot.phase →
    (getLink s port).seriesStart + 16777216 ≤ s.clock.ticks → Answers (.linkDownRetry port) s (fun t =>
      (getLink t port).st = .detect ∧ (getLink t port).failures = 0 ∧ (getLink t port).seriesStart = s.clock.ticks ∧
      OnlyLink s t port)) ∧
  (∀ (s : State) (port : Fin 9), linkUp (getLink s port) = true → 8 ≤ (getLink s port).requests →
    Answers (.retrain port) s (fun t => (getLink t port).st = .retrain ∧ (getLink t port).requests = 0 ∧
      (getLink t port).course = .training ∧ (getLink t port).seriesStart = s.clock.ticks ∧
      (port.val = 0 → Counted s t ctKidRetrain 1 ∧ EventSet s t evKid 0 ∧ (getLink t port).replay = (getLink s port).replay ∧
        t.deck = s.deck) ∧
      (port.val ≠ 0 → EventSet s t evSpan 0) ∧
      (port.val ≠ 0 → (getLink s port).pulling = [] → (getLink t port).replay = (getLink s port).replay ∧ t.deck = s.deck)))

namespace Sys2Proof.Machine

/-- A frame that decodes and checks, carries no header and no data, and sets no reserved field (14 R303, R304). -/
abbrev EmptyFrame (p : Nat) (f : Frame) : Prop :=
  frameGood f = true ∧ frameReserved f.bytes (p != 0) = false ∧
  frameHeaders f.bytes (if p = 0 then 7 else 3) (if p = 0 then 16 else 32) = [] ∧ ∀ q ∈ frameSlots f.bytes, q.1 = 0 ∧ q.2.1 = 0

/-- A link that carries traffic, with nothing that waits to go out or to come in. -/
abbrev LinkReady (s : State) (p : Nat) : Prop :=
  linkUp (getLink s p) = true ∧ linkPowered s p = true ∧ (getLink s p).queue = [] ∧ (getLink s p).slots = [] ∧
  (getLink s p).asks = [] ∧ (getLink s p).pulling = [] ∧ (getLink s p).stale = []

/-- The frame is the next in sequence. -/
abbrev NextFrame (l : Link) (f : Frame) : Prop := leAt f.bytes 0 2 = (l.rxSeq + 1) % 65536

/-- Frames that the acknowledgement of a frame does not cover (14 R306). -/
def unacked (l : Link) (f : Frame) : List Sent := l.replay.filter (fun q => !(ackCovers (leAt f.bytes 2 2) q.seq))

/-- A frame was discarded: its replay is requested with the next frame that goes out, naming the last frame accepted, and it
is counted (14 R306, R316). -/
def ReplayAsked (s v : State) (p : Nat) : Prop :=
  (getLink v p).discarding = true ∧ (getLink v p).requests = (getLink s p).requests + 1 ∧
  (getLink v p).rxSeq = (getLink s p).rxSeq ∧
  ((getLink s p).replay.length < 64 → (getLink v p).replay = (getLink s p).replay ++ [newFrame (getLink s p) 2 [] [] none] ∧
    (p = 0 → pairValue v ctKidReplay = (s.kidLink.replayAsks + 1) % 2 ^ 64)) ∧
  (64 ≤ (getLink s p).replay.length → (getLink v p).replay = (getLink s p).replay ∧ (getLink v p).asks = [2])

/-- What no frame without contents touches. -/
abbrev FrameKept (s v : State) : Prop := v.deck = s.deck ∧ v.ctxs = s.ctxs ∧ v.sched = s.sched ∧ v.tables = s.tables

/-- The command that a header from the host carries (14 R309 to R312). -/
def carriedByHost (h : List Byte) : Option Instr :=
  let m := leAt h 1 1
  if 4096 ≤ leAt h 2 2 then none
  else if leAt h 0 1 = 0x05 ∧ (m = 4 ∨ m = 8) then some (.regRead (leAt h 4 4) m (leAt h 2 2))
  else if leAt h 0 1 = 0x06 ∧ (m = 4 ∨ m = 8) then some (.regWrite (leAt h 4 4) m (leAt h 8 8))
  else if leAt h 0 1 = 0x07 ∧ m = 0 then some (.doorbell (leAt h 4 4) (leAt h 8 8))
  else if leAt h 0 1 = 0x20 then some (.readDone (leAt h 2 2) m)
  else if leAt h 0 1 = 0x21 then some (.writeDone (leAt h 2 2) m)
  else none

/-- The command that a transaction of a peer is, with its data (16 R348). -/
def carriedBySpan (p : Fin 8) (h : SpanHdr) (data : List Byte) : Option Instr :=
  if h.opcode = 1 then some (.putRequest p h data)
  else if h.opcode = 2 then some (.getRequest p h)
  else if h.opcode = 3 then some (.atomicRequest p h data)
  else if h.opcode = 4 then some (.mergeRequest p h data)
  else if h.opcode = 0x20 ∧ data = [] then some (.putDone p h)
  else if h.opcode = 0x21 then some (.getData p h data)
  else if h.opcode = 0x22 then some (.atomicDone p h data)
  else if h.opcode = 0x23 ∧ data = [] then some (.mergeDone p h)
  else none

/-- An accepted frame of a port: good, without reserved fields, NORMAL and the next in sequence (14 R304, R306). -/
abbrev Accepted (s : State) (p : Nat) (f : Frame) : Prop :=
  linkUp (getLink s p) = true ∧ linkPowered s p = true ∧ frameGood f = true ∧ frameReserved f.bytes (p != 0) = false ∧
  leAt f.bytes 4 1 = 1 ∧ NextFrame (getLink s p) f

/-- A port's link has accepted a frame. -/
abbrev HasTaken (u : State) (p : Nat) (f : Frame) : Prop :=
  (getLink u p).rxSeq = leAt f.bytes 0 2 ∧ (getLink u p).discarding = false ∧ (getLink u p).requests = 0 ∧
  (getLink u p).crFar = creditsOf f.bytes

end Sys2Proof.Machine

open Sys2Proof Sys2Proof.Machine

/-- R304 to R306, R315: the next frame in sequence is accepted and its acknowledgement empties the replay buffer of the
frames it covers; a frame that fails or leaves a gap is discarded with every later one, and a replay is requested; a frame
that was already accepted is discarded; what an accepted frame carries acts in order, each header and each transaction as the
command it is; a replay request sends every frame after its acknowledgement again; a NAP_ACK lets
the replay buffers drain, and the drained pair trains for Nap. -/
def Obligations.FramesAreAccepted : Prop :=
  (∀ (s : State) (port : Fin 9) (f : Frame), LinkReady s port → EmptyFrame port f → leAt f.bytes 4 1 = 1 →
    NextFrame (getLink s port) f → (port.val = 0 → s.kid.napStage ≠ 3) → Settles (.normal port f) s (fun v =>
      (getLink v port).rxSeq = leAt f.bytes 0 2 ∧ (getLink v port).discarding = false ∧ (getLink v port).requests = 0 ∧
      (getLink v port).replay = unacked (getLink s port) f ∧ (getLink v port).crFar = creditsOf f.bytes ∧
      (getLink v port).st = (getLink s port).st ∧
      (port.val = 0 → Counted s v ctKidCorr f.corrected) ∧ (port.val ≠ 0 → Counted s v ctSpanCorr f.corrected) ∧
      FrameKept s v)) ∧
  (∀ (s : State) (port : Fin 9) (f : Frame), LinkReady s port → frameGood f = false → Settles (.normal port f) s (fun v =>
      ReplayAsked s v port ∧ (port.val = 0 → Counted s v ctKidUncorr f.uncorrectable) ∧
      (port.val ≠ 0 → Counted s v ctSpanUncorr f.uncorrectable) ∧ FrameKept s v)) ∧
  (∀ (s : State) (port : Fin 9) (f : Frame), LinkReady s port → frameGood f = true → leAt f.bytes 4 1 = 1 →
    ¬NextFrame (getLink s port) f → Settles (.normal port f) s (fun v => FrameKept s v ∧
      (ackCovers (getLink s port).rxSeq (leAt f.bytes 0 2) = true ∨ (getLink s port).discarding = true →
        getLink v port = getLink s port) ∧
      (ackCovers (getLink s port).rxSeq (leAt f.bytes 0 2) = false → (getLink s port).discarding = false →
        ReplayAsked s v port))) ∧
  (∀ (s : State) (port : Fin 9) (f : Frame), LinkReady s port → EmptyFrame port f → leAt f.bytes 4 1 = 2 →
    NextFrame (getLink s port) f → (port.val = 0 → s.kid.napStage ≠ 3) → Settles (.replayRequest port f) s (fun v =>
      (getLink v port).replay = unacked (getLink s port) f ∧
      (getLink v port).resent = (getLink s port).resent + (unacked (getLink s port) f).length ∧
      (getLink v port).rxSeq = leAt f.bytes 0 2 ∧ FrameKept s v)) ∧
  (∀ (s : State) (f : Frame), LinkReady s 0 → s.kidLink.st = .active → s.kid.napStage = 2 → EmptyFrame 0 f →
    leAt f.bytes 4 1 = 4 → NextFrame s.kidLink f → Settles (.napAck f) s (fun v => FrameKept s v ∧
      v.kidLink.replay = unacked s.kidLink f ∧ v.kidLink.holding = true ∧
      (unacked s.kidLink f = [] → v.kid.napStage = 4 ∧ v.kidLink.st = .rate0 ∧ v.kidLink.course = .napIn ∧
        v.kidLink.courseFrom = s.clock.ticks ∧ v.kidLink.ts2 = []) ∧
      (unacked s.kidLink f ≠ [] → v.kid.napStage = 3 ∧ v.kidLink.st = .active ∧ v.kid.napAskedAt = s.clock.ticks))) ∧
  (∀ (s : State) (f : Frame), LinkReady s 0 → s.kidLink.st = .active → s.kid.napStage = 3 → EmptyFrame 0 f →
    leAt f.bytes 4 1 = 1 → NextFrame s.kidLink f → Settles (.normal 0 f) s (fun v => FrameKept s v ∧
      v.kidLink.replay = unacked s.kidLink f ∧
      (unacked s.kidLink f = [] → v.kid.napStage = 4 ∧ v.kidLink.st = .rate0 ∧ v.kidLink.course = .napIn) ∧
      (unacked s.kidLink f ≠ [] → v.kid.napStage = 3 ∧ v.kidLink.st = .active))) ∧
  (∀ (s : State) (f : Frame), Accepted s 0 f → ∃ u, u = { s with regs := u.regs, kidLink := u.kidLink } ∧ HasTaken u 0 f ∧
    exec (.normal 0 f) s = .next (settle (napDrained
      ((frameSlots f.bytes).foldl hostSlot ((frameHeaders f.bytes 7 16).foldl hostHeader u))))) ∧
  (∀ (u : State) (h : List Byte) (c : Instr), carriedByHost h = some c → exec c u = .next (settle (hostHeader u h))) ∧
  (∀ (u : State) (tag i : Nat) (bs : List Byte) (a : Acc), NMap.find? u.kid.tags tag = some i →
    NMap.find? u.kid.accs i = some a → a.write = false → NMap.find? u.kidLink.partials tag = none → a.len ≤ bs.length →
    allZero (bs.drop a.len) = true → exec (.readData tag (bs.take a.len)) u = .next (settle (hostSlot u (2, tag, bs)))) ∧
  (∀ (s : State) (port : Fin 9) (f : Frame), port.val ≠ 0 → Accepted s port f →
    ∃ u, u = { s with regs := u.regs, spanLinks := u.spanLinks } ∧ HasTaken u port f ∧
      exec (.normal port f) s = .next (settle (spanFrame u (port - 1) f.bytes))) ∧
  (∀ (u : State) (p : Fin 8) (b h : List Byte) (r : SpanHdr), frameReserved b true = false → frameHeaders b 3 32 = [h] →
    parseSpanHdr h = some r → r.length ≤ 65536 → spanData r = 0 → (∀ q ∈ frameSlots b, q.1 = 0 ∧ q.2.1 = 0) →
    (getSpanLink u p).pulling = [] → (getSpanLink u p).stale = [] →
    spanFrame u p b = spanTake (setSpanLink u p (returnCredits (getSpanLink u p) [h] 0)) p r []) ∧
  (∀ (u : State) (p : Fin 8) (h : SpanHdr) (data : List Byte) (c : Instr), carriedBySpan p h data = some c →
    exec c u = .next (settle (spanTake u p h data)))

namespace Sys2Proof.Machine

/-- An open access over Kiduner: its tag, its number and what it is (14 R309). -/
abbrev OpenAt (s : State) (tag i : Nat) (a : Acc) : Prop :=
  NMap.find? s.kid.tags tag = some i ∧ NMap.find? s.kid.accs i = some a ∧ s.kid.waiting = []

end Sys2Proof.Machine

open Sys2Proof Sys2Proof.Machine

/-- R310, R312, R313, R314, R462: the data of a host's answer lands for the owner of the read, a shared line is kept unless a snoop
met its fill, and the tag is free; data of another length than was asked is dropped and counted; a failing status repeats a read of the device's own after 65,536 ticks; a WRITE_DONE is the acknowledgement of
its write; an answer whose tag is not open is dropped and counted; a snoop drops
its line and is answered with the address as given. -/
def Obligations.HostAnswersLand : Prop :=
  (∀ (s : State) (tag i id : Nat) (a : Acc) (it : Item) (data : List Byte), OpenAt s tag i a → a.write = false →
    a.len = data.length → a.owner = .item id → getItem s id = some it → Settles (.readData tag data) s (fun v =>
      NMap.find? v.kid.tags tag = none ∧ NMap.find? v.kid.accs i = none ∧ v.deck = s.deck ∧
      ∃ it', getItem v id = some it' ∧ memTake zeroByte it'.landed a.addr a.len = data ∧ it'.waiting = it.waiting - 1 ∧
        it'.st = it.st ∧ it'.op = it.op)) ∧
  (∀ (s : State) (tag i c r k : Nat) (a : Acc) (data : List Byte), OpenAt s tag i a → a.write = false →
    a.len = data.length → a.owner = .slot c r k → a.shared = true → (getRing s c r).isSome = true → i ∉ s.kid.snooped →
    s.kid.lines.length < 2 ^ 20 → Settles (.readData tag data) s (fun v =>
      NMap.find? v.kid.lines ((gLocal a.addr - hostBase) / 64) = some data ∧
      ∃ y, getRing v c r = some y ∧ y.waiting = 0 ∧ y.head = some data)) ∧
  (∀ (s : State) (tag i c r k : Nat) (a : Acc) (data : List Byte), OpenAt s tag i a → a.write = false →
    a.len = data.length → a.owner = .slot c r k → a.shared = true → (getRing s c r).isSome = true → i ∈ s.kid.snooped →
    Settles (.readData tag data) s (fun v => v.kid.lines = s.kid.lines ∧ i ∉ v.kid.snooped ∧
      ∃ y, getRing v c r = some y ∧ y.waiting = 0 ∧ y.head = some data)) ∧
  (∀ (s : State) (tag i : Nat) (a : Acc) (data : List Byte), OpenAt s tag i a → a.write = true ∨ a.len ≠ data.length →
    Settles (.readData tag data) s (fun v => Counted s v ctKidBad 1 ∧ EventSet s v evKid 3 ∧ v.kid = s.kid ∧
      v.deck = s.deck ∧ v.ctxs = s.ctxs)) ∧
  (∀ (s : State) (tag i c r k status : Nat) (a : Acc), OpenAt s tag i a → a.write = false → a.owner = .slot c r k →
    1 ≤ status → status ≤ 4 → Settles (.readDone tag status) s (fun v =>
      NMap.find? v.kid.accs i = some { a with st := .failed status (s.clock.ticks + 65536) } ∧
      NMap.find? v.kid.tags tag = none ∧ v.deck = s.deck ∧ v.ctxs = s.ctxs)) ∧
  (∀ (s : State) (tag i c r : Nat) (a : Acc) (y : Ring), OpenAt s tag i a → a.write = true → a.owner = .status c r →
    getRing s c r = some y → Settles (.writeDone tag 0) s (fun v =>
      getRing v c r = some { y with statusBusy := false } ∧ NMap.find? v.kid.tags tag = none ∧
      NMap.find? v.kid.accs i = none ∧ v.deck = s.deck)) ∧
  (∀ (s : State) (tag status : Nat) (data : List Byte) (c : Instr), NMap.find? s.kid.tags tag = none →
    c = .readData tag data ∨ c = .readDone tag status ∨ c = .writeDone tag status → Settles c s (fun v =>
      Counted s v ctKidBad 1 ∧ EventSet s v evKid 3 ∧ v.kid = s.kid ∧ v.deck = s.deck ∧ v.ctxs = s.ctxs)) ∧
  (∀ (s : State) (addr tag : Nat), s.power.off = false → s.boot.phase ≠ 0 → Answers (.snpInv addr tag) s (fun t =>
    NMap.find? t.kid.lines (addr / 64) = none ∧ (∀ l, l ≠ addr / 64 → NMap.find? t.kid.lines l = NMap.find? s.kid.lines l) ∧
    (∀ tg i a, NMap.find? s.kid.tags tg = some i → NMap.find? s.kid.accs i = some a → a.shared = true →
      (gLocal a.addr - hostBase) / 64 = addr / 64 → i ∈ t.kid.snooped) ∧ (∀ i ∈ s.kid.snooped, i ∈ t.kid.snooped) ∧
    t.kidLink = (kidSend s { hdr := kidHdr 0x23 0 tag 0 addr, data := [] }).kidLink ∧ t.kid.accs = s.kid.accs ∧
    t.deck = s.deck ∧ t.regs = s.regs))

/-- R462, R400, R220, R353: a failed access that is due is issued again, by the command of its owner, and is on its way; the
read of a descriptor that has timed out is given up; a request of the device's own that has timed out leaves its
descriptor at TIMEOUT. -/
def Obligations.AccessesAreRepeated : Prop :=
  (∀ (s : State) (i : Nat) (a : Acc) (c : Instr), accDue s i = some a →
    (c = .hostReadRetry i ∧ isDeviceRead a = true ∧ s.clock.ticks < a.first + accTimeout s a) ∨
    (c = .hostWriteRetry i ∧ isDeviceWrite a = true) ∨ (c = .backingWriteRetry i ∧ ∃ j, a.owner = .backing j) ∨
    (c = .outsideAccessRetry i ∧ ∃ id, a.owner = .item id ∨ a.owner = .itemPut id ∨ a.owner = .row id) →
    Settles c s (fun v => NMap.find? v.kid.accs i = some { a with st := .flying } ∧ v.deck = s.deck ∧ v.ctxs = s.ctxs ∧
      v.sched = s.sched ∧ v.regs = s.regs)) ∧
  (∀ (s : State) (i c r k : Nat) (a : Acc) (y : Ring), accDue s i = some a → a.owner = .slot c r k →
    a.first + accTimeout s a ≤ s.clock.ticks → getRing s c r = some y → Settles (.hostReadRetry i) s (fun v =>
      NMap.find? v.kid.accs i = none ∧ getRing v c r = some { y with head := some [] } ∧ v.deck = s.deck)) ∧
  (∀ (s : State) (i c r k : Nat) (a : Acc) (d : Desc), NMap.find? s.kid.accs i = some a → accLate s a = true →
    a.owner = .skipSignal c r k → getDesc s c r k = some d → overSpan s a = false → Settles (.deviceRequestTimeout i) s (fun v =>
      getDesc v c r k = some (worsen { d with waiting := 0 } 0x21) ∧ v.deck.mem = s.deck.mem))

/-! ### Span -/

namespace Sys2Proof.Machine

/-- A request of a peer to this device that passes the Tollgate's checks: the port works, no field is reserved, it is the
channel's next, its context exists and a window admits the access (16 R344, R352, R354). -/
abbrev Admitted (s : State) (port : Nat) (h : SpanHdr) (opcode right : Nat) : Prop :=
  spanLive s port = true ∧ requestBad h opcode = false ∧ h.dst = deviceId s ∧
  h.seq = ((NMap.getD s.span.ins (inKey h.src h.channel) spanFresh).applied + 1) % 2 ^ 32 ∧
  NMap.has s.ctxs h.context = true ∧ (admits s h right (if opcode = 3 then 8 else h.length)).isSome = true

/-- The packet that answers a request (16 R347, R350). -/
def answerOf (h : SpanHdr) (status : Nat) (data : List Byte) : Packet :=
  { hdr := spanHdrBytes (responseTo h (responseOp h.opcode) status data), data := data }

/-- The request was applied, and the answer is kept for duplicates (16 R352). -/
def AnsweredPeer (v : State) (h : SpanHdr) (status : Nat) (data : List Byte) : Prop :=
  (NMap.getD v.span.ins (inKey h.src h.channel) spanFresh).applied = h.seq ∧
  NMap.find? (NMap.getD v.span.ins (inKey h.src h.channel) spanFresh).responses h.seq = some (answerOf h status data)

/-- No block of the extent is bad or not yet filled. -/
abbrev SoundAt (s : State) (a n : Nat) : Prop := ∀ b ∈ blocksOf a n, badAt s (b * 64) = false

end Sys2Proof.Machine

open Sys2Proof Sys2Proof.Machine

/-- R344, R348, R350, R352: an admitted PUT writes its bytes and a GET answers with the bytes that are read; an ATOMIC
answers the old value and leaves the new one; a MERGE is checked record by record and answered OK; what no window admits
is DENIED, and a request of a context that does not exist UNMAPPED; a GET that meets a block with no good copy is UNCORRECTABLE; an
access to host memory goes over Kiduner and is answered after its effect; a duplicate is counted and not applied again,
and a request beyond the channel's next is dropped. -/
def Obligations.PeersAreServed : Prop :=
  (∀ (s : State) (port : Fin 8) (h : SpanHdr) (data : List Byte), Admitted s port h 1 1 → h.length = data.length →
    isDeck s h.address = true → SoundAt s (gLocal h.address) data.length →
    gLocal h.address + data.length ≤ 2 ^ 40 ∨ (2 ^ 40 ≤ gLocal h.address ∧ gLocal h.address + data.length ≤ 2 ^ 41) →
    SoundAt s (partnerOf (gLocal h.address)) data.length →
    Settles (.putRequest port h data) s (fun v => AnsweredPeer v h 0 [] ∧
      (∀ k < data.length, deckByteAt v (gLocal h.address + k) = data.getD k 0#8) ∧
      (∀ x, ¬(gLocal h.address ≤ x ∧ x < gLocal h.address + data.length) →
        ¬(partnerOf (gLocal h.address) ≤ x ∧ x < partnerOf (gLocal h.address) + data.length) →
        deckByteAt v x = deckByteAt s x) ∧ v.ctxs = s.ctxs ∧ v.sched = s.sched)) ∧
  (∀ (s : State) (port : Fin 8) (h : SpanHdr), Admitted s port h 2 0 → isDeck s h.address = true →
    SoundAt s (gLocal h.address) h.length → Settles (.getRequest port h) s (fun v =>
      AnsweredPeer v h 0 (deckRead s (gLocal h.address) h.length) ∧ v.deck = s.deck ∧ v.ctxs = s.ctxs ∧ v.sched = s.sched)) ∧
  (∀ (s : State) (port : Fin 8) (h : SpanHdr) (data : List Byte), Admitted s port h 3 2 → h.length = 16 →
    data.length = 16 → h.address % 8 = 0 → isDeck s h.address = true → gLocal h.address + 8 ≤ 2 ^ 41 →
    SoundAt s (gLocal h.address) 8 → SoundAt s (partnerOf (gLocal h.address)) 8 → s.heal.rebuilds = [] →
    Settles (.atomicRequest port h data) s (fun v => AnsweredPeer v h 0 (natLE (cellValue s h.address) 8) ∧
      cellValue v h.address = cellNew h.op (cellValue s h.address) (leAt data 0 8) (leAt data 8 8) % 2 ^ 64)) ∧
  (∀ (s : State) (port : Fin 8) (h : SpanHdr) (data : List Byte) (m : MergeQueue) (rs : List MergeRec),
    spanLive s port = true → requestBad h 4 = false → h.dst = deviceId s →
    h.seq = ((NMap.getD s.span.ins (inKey h.src h.channel) spanFresh).applied + 1) % 2 ^ 32 →
    NMap.has s.ctxs h.context = true → h.length = data.length → getQueue s h.context h.queue = some m →
    mergeRecords m h data = some rs → Settles (.mergeRequest port h data) s (fun v => AnsweredPeer v h 0 [] ∧
      getQueue v h.context h.queue =
        getQueue (rs.foldl (fun s r => mergeArrive s h.context h.queue r) s) h.context h.queue ∧ v.deck = s.deck)) ∧
  (∀ (s : State) (port : Fin 8) (h : SpanHdr), spanLive s port = true → requestBad h 2 = false → h.dst = deviceId s →
    h.seq = ((NMap.getD s.span.ins (inKey h.src h.channel) spanFresh).applied + 1) % 2 ^ 32 →
    (NMap.has s.ctxs h.context = false → Settles (.getRequest port h) s (fun v => AnsweredPeer v h 3 [] ∧ v.deck = s.deck)) ∧
    (NMap.has s.ctxs h.context = true → admits s h 0 h.length = none →
      Settles (.getRequest port h) s (fun v => AnsweredPeer v h 2 [] ∧ v.deck = s.deck))) ∧
  (∀ (s : State) (port : Fin 8) (h : SpanHdr) (data : List Byte), spanLive s port = true → requestBad h 3 = false →
    h.dst = deviceId s → h.length = data.length →
    h.seq = ((NMap.getD s.span.ins (inKey h.src h.channel) spanFresh).applied + 1) % 2 ^ 32 →
    NMap.has s.ctxs h.context = true →
    h.address % 8 ≠ 0 ∨ h.length ≠ 16 ∨ admits s h 2 8 = none ∨ isDeck s h.address = false →
    Settles (.atomicRequest port h data) s (fun v => AnsweredPeer v h 2 [] ∧ v.deck = s.deck)) ∧
  (∀ (s : State) (port : Fin 8) (h : SpanHdr) (b : Nat), Admitted s port h 2 0 → isDeck s h.address = true →
    b ∈ blocksOf (gLocal h.address) h.length → unreadable s (b * 64) = true →
    Settles (.getRequest port h) s (fun v => AnsweredPeer v h 4 [])) ∧
  (∀ (s : State) (port : Fin 8) (h : SpanHdr) (data : List Byte), Admitted s port h 1 1 → h.length = data.length →
    isDeck s h.address = false → Settles (.putRequest port h data) s (fun v => v.deck = s.deck ∧
      ∃ pg, NMap.find? v.kid.accs s.kid.nextAcc = some (accWrite s (.peer h pg) h.context h.address data))) ∧
  (∀ (s : State) (port : Fin 8) (h : SpanHdr), Admitted s port h 2 0 → isDeck s h.address = false →
    Settles (.getRequest port h) s (fun v => v.deck = s.deck ∧
      ∃ pg, NMap.find? v.kid.accs s.kid.nextAcc = some (accRead s (.peer h pg) h.context h.address h.length))) ∧
  (∀ (s : State) (port : Fin 8) (h : SpanHdr) (data : List Byte) (c : Instr) (op n : Nat), spanLive s port = true →
    requestBad h op = false → h.dst = deviceId s →
    (c = .putRequest port h data ∧ op = 1 ∧ h.length = data.length ∨ c = .getRequest port h ∧ op = 2 ∨
      c = .atomicRequest port h data ∧ op = 3 ∧ h.length = data.length ∨
      c = .mergeRequest port h data ∧ op = 4 ∧ h.length = data.length) →
    n = (NMap.getD s.span.ins (inKey h.src h.channel) spanFresh).applied → h.seq ≠ (n + 1) % 2 ^ 32 →
    Settles c s (fun v => v.deck = s.deck ∧ v.span.ins = s.span.ins ∧ v.ctxs = s.ctxs ∧
      ((n + 2 ^ 32 - h.seq % 2 ^ 32) % 2 ^ 32 < 64 → Counted s v ctSpanDup 1) ∧
      (64 ≤ (n + 2 ^ 32 - h.seq % 2 ^ 32) % 2 ^ 32 → Counted s v ctSpanBad 1 ∧ EventSet s v evSpan 2)))

/-- R353, R355, R351: a response ends its request and its owner hears, in any order; after SPAN_RESEND_TICKS every unanswered
request of the channel goes out again; a port that leaves ACTIVE says so, and its channels resend by the mapping in force;
the data of an interrupted PUT is written as far as it has come, and the request is not applied. -/
def Obligations.SpanRequestsEnd : Prop :=
  (∀ (s : State) (port : Fin 8) (h : SpanHdr) (q : SpanReq) (o : SpanOut) (a : Acc) (id : Nat) (it : Item) (data : List Byte)
    (c : Instr), spanLive s port = true → h.op = 0 → h.hops ≤ 12 → h.dst = deviceId s →
    NMap.find? s.span.outs (outKey h.src h.channel) = some o → o.waiting = [] →
    (c = .putDone port h ∧ h.opcode = 0x20 ∧ data = [] ∨ c = .getData port h data ∧ h.opcode = 0x21 ∧ data.length = q.hdr.length ∨
      c = .atomicDone port h data ∧ h.opcode = 0x22 ∧ data.length = 8 ∨ c = .mergeDone port h ∧ h.opcode = 0x23 ∧ data = []) →
    List.find? (fun r => r.seq == h.seq && r.hdr.opcode + 0x1F == h.opcode) o.open_ = some q →
    NMap.find? s.kid.accs q.acc = some a → a.owner = .itemMerge id → getItem s id = some it →
    Settles c s (fun v => NMap.find? v.kid.accs q.acc = none ∧
      (∃ o', NMap.find? v.span.outs (outKey h.src h.channel) = some o' ∧ o'.open_ = o.open_.filter (fun r => r.seq != h.seq)) ∧
      getItem v id = some { it with waiting := it.waiting - 1 } ∧ v.deck = s.deck)) ∧
  (∀ (s : State) (dst ch : Nat) (q : SpanReq) (o : SpanOut), ch < 8 → NMap.find? s.span.outs (outKey dst ch) = some o →
    q ∈ o.open_ → q.issued + rwGet s rwResend ≤ s.clock.ticks ∨ (getSpanLink s q.port).st ≠ .active →
    Answers (.spanResend dst ch) s (fun t =>
      Counted s t ctSpanResend (o.open_.filter (fun q => !((NMap.find? s.kid.accs q.acc).elim false (accLate s)))).length ∧
      (((NMap.find? s.kid.accs q.acc).elim false (accLate s)) = false → bitAt (sqGet t evSpan).1 3 = true) ∧
      (∃ o', NMap.find? t.span.outs (outKey dst ch) = some o' ∧ o'.open_.map (·.seq) = o.open_.map (·.seq) ∧
        o'.waiting = o.waiting ∧ ∀ r' ∈ o'.open_, r'.issued = s.clock.ticks ∧
          ∃ r ∈ o.open_, r'.seq = r.seq ∧ r'.hdr = r.hdr ∧ r'.data = r.data ∧ r'.acc = r.acc) ∧
      t.deck = s.deck ∧ t.kid = s.kid)) ∧
  (∀ (s : State) (port : Fin 8), (getSpanLink s port).st = .active → Answers (.spanPortDown port) s (fun t =>
    (getSpanLink t port).st = .retrain ∧ (getSpanLink t port).pulling = [] ∧ bitAt (sqGet t evSpan).1 0 = true ∧
    (∀ k o, NMap.find? t.span.outs k = some o → ∀ q ∈ o.open_, q.port ≠ port.val) ∧
    ((getSpanLink s port).pulling = [] → t.deck = s.deck ∧ t.kid = s.kid ∧ t.ctxs = s.ctxs))) ∧
  (∀ (s : State) (port : Fin 8) (h : SpanHdr) (d : List Byte) (rest : List (SpanHdr × List Byte)),
    (getSpanLink s port).st = .active → (getSpanLink s port).pulling = (h, d) :: rest → d ≠ [] → h.opcode = 1 →
    h.dst = deviceId s → h.seq = ((NMap.getD s.span.ins (inKey h.src h.channel) spanFresh).applied + 1) % 2 ^ 32 →
    NMap.has s.ctxs h.context = true → (admits s h 1 h.length).isSome = true → isDeck s h.address = true →
    gLocal h.address + d.length ≤ 2 ^ 40 ∨ (2 ^ 40 ≤ gLocal h.address ∧ gLocal h.address + d.length ≤ 2 ^ 41) →
    SoundAt s (gLocal h.address) d.length → SoundAt s (partnerOf (gLocal h.address)) d.length →
    Answers (.spanPortDown port) s (fun t => (∀ k < d.length, deckByteAt t (gLocal h.address + k) = d.getD k 0#8) ∧
      (∀ x, ¬(gLocal h.address ≤ x ∧ x < gLocal h.address + d.length) →
        ¬(partnerOf (gLocal h.address) ≤ x ∧ x < partnerOf (gLocal h.address) + d.length) →
        deckByteAt t x = deckByteAt s x) ∧ t.span.ins = s.span.ins ∧ (getSpanLink t port).pulling = []))

/-! ### Memory, NVMe and healing -/

/-- R369, R461: a write by the device puts its bytes there, in the device and mirrored regions in both places, and no other
byte of the Deck reads differently. -/
def Obligations.DeckWritesOnlyItsBytes : Prop :=
  ∀ (s : State) (a : Nat) (bs : List Byte), s.heal.rebuilds = [] →
    a + bs.length ≤ 2 ^ 40 ∨ (2 ^ 40 ≤ a ∧ a + bs.length ≤ 2 ^ 41) →
    (∀ k < bs.length, deckByteAt (deckWrite s a bs) (a + k) = bs.getD k 0#8) ∧
    (∀ x, ¬(a ≤ x ∧ x < a + bs.length) → ¬(partnerOf a ≤ x ∧ x < partnerOf a + bs.length) →
      deckByteAt (deckWrite s a bs) x = deckByteAt s x) ∧
    (a + bs.length ≤ (deckMap s).1 → (deckMap s).1 ≤ 2 ^ 40 →
      ∀ k < bs.length, deckRaw (deckWrite s a bs) (partnerOf (a + k)) = bs.getD k 0#8)

namespace Sys2Proof.Machine

/-- The patrol of a channel may read its next block: the device has left its first phases and is not in Nap or Off, and the
channel works and holds no unit that is still to be filled. -/
abbrev PatrolReady (s : State) (ch : Nat) : Prop :=
  ch < 512 ∧ s.power.off = false ∧ s.power.nap = false ∧ ch ∉ s.deck.lost ∧ 3 ≤ s.boot.phase ∧
  channelOf (scrubBlock s ch * 64) ∉ s.deck.unfilled ∧ ch ∉ s.deck.unfilled

end Sys2Proof.Machine

open Sys2Proof Sys2Proof.Machine

/-- R37, R43, R365, R366, R369, R370: a unit lands once its booked pair has come, and complete entries at the head of the
queue retire; a read corrects up to three bytes of a block; an
uncorrectable mirrored block takes its partner's bytes, and one that has no second source reads as zero and counts. -/
def Obligations.DeckReadsAreChecked : Prop :=
  (∀ (s : State) (pier entry block errs id : Nat) (e : QEntry) (q : QUnit), pier < 256 →
    (getPier s pier).queue[entry]? = some e → e.units.find? (fun u => !u.landed) = some q → (getPier s pier).item = some id →
    (getPier s pier).unbooked = [] → (getPier s pier).lost = false → s.trestle.on = true → running s = true →
    q.slot ≤ s.trestle.slot → errs ≤ 3 → (∀ k < 4, badAt s ((q.unit * 4 + k) * 64) = false) →
    Settles (.deckReadData pier entry block errs) s (fun v =>
      (getPier v pier).queue = ((getPier s pier).queue.mapIdx (fun j f => if j = entry then
          { f with units := f.units.map (fun u => if u.unit = q.unit then { u with landed := true } else u) } else f)).dropWhile
        (fun f => f.units.all (·.landed)) ∧
      (0 < errs → Counted s v ctDeckCorr 1) ∧ (errs = 0 → v.regs = s.regs) ∧ v.deck = s.deck ∧ v.sched = s.sched ∧
      v.ctxs = s.ctxs)) ∧
  (∀ (s : State) (pier entry block errs : Nat) (e : QEntry) (q : QUnit), pier < 256 →
    (getPier s pier).queue[entry]? = some e → e.units.find? (fun u => !u.landed) = some q → s.trestle.slot < q.slot →
    exec (.deckReadData pier entry block errs) s = .next s) ∧
  (∀ (s : State) (ch errs : Nat), PatrolReady s ch → scrubBlock s ch ∉ s.deck.bad → errs ≤ 3 →
    Settles (.patrolScrub ch errs) s (fun v =>
      NMap.getD v.deck.scrub ch 0 = (NMap.getD s.deck.scrub ch 0 + 1) % 2 ^ 26 ∧
      (0 < errs → Counted s v ctDeckCorr 1) ∧ (errs = 0 → v.regs = s.regs) ∧
      v.deck.bad = s.deck.bad ∧ v.deck.mem = s.deck.mem ∧ v.ctxs = s.ctxs)) ∧
  (∀ (s : State) (ch errs t : Nat), PatrolReady s ch → 4 ≤ errs → twinOf s (scrubBlock s ch * 64) = some t →
    badAt s t = false → Settles (.patrolScrub ch errs) s (fun v =>
      (∀ k < 64, deckByteAt v (scrubBlock s ch * 64 + k) = deckRaw s (t + k)) ∧ scrubBlock s ch ∉ v.deck.bad ∧
      Counted s v ctDeckUncorr 1 ∧ Counted s v ctMirrorFix 1 ∧ EventSet s v evDeck 0)) ∧
  (∀ (s : State) (ch errs : Nat), PatrolReady s ch → scrubBlock s ch ∈ s.deck.bad →
    twinOf s (scrubBlock s ch * 64) = none → regionOf s (scrubBlock s ch * 64) ≠ .copyPool →
    deckGroup s (scrubBlock s ch * 64) = none → Settles (.patrolScrub ch errs) s (fun v =>
      (∀ k < 64, deckByteAt v (scrubBlock s ch * 64 + k) = 0#8) ∧ Counted s v ctDeckUncorr 1 ∧
      Counted s v ctUnprotected 1 ∧ v.deck.mem = s.deck.mem))

/-- R382 to R384, R386: a channel or a stack that meets a loss condition is lost, its units are displaced and stay unfilled;
once no row group lies on it a channel is filled, and every byte that was written reads as it did; the plain region gives
up 4k − 128 GB. -/
def Obligations.ChannelsAreLostAndFilled : Prop :=
  (∀ (s : State) (ch : Nat) (cause : DeckCause), ch < 512 → s.power.off = false → ch ∉ s.deck.lost →
    (cause = .blocks ∧ 16 ≤ ((NMap.getD s.deck.errTicks ch []).filter (fun t => decide (now s < t + 1048576))).length) ∨
      (cause = .phy ∧ 1 ≤ NMap.getD s.deck.phyFails ch 0) ∨ (cause = .bootTest ∧ s.boot.phase = 2) →
    Settles (.channelLost ch cause) s (fun v => ch ∈ v.deck.lost ∧ ch ∈ v.deck.unfilled ∧
      NMap.has v.deck.displaced ch = true ∧ bitAt (sqGet v evDeck).1 1 = true)) ∧
  (∀ (s : State) (ch : Nat), ch < 512 → s.power.off = false → NMap.getD s.deck.phyFails ch 0 = 0 →
    exec (.channelLost ch .phy) s = .next { s with deck := { s.deck with phyFails := NMap.set s.deck.phyFails ch 1 } }) ∧
  (∀ (s : State) (st : Nat) (cause : DeckCause), st < 16 → s.power.off = false → st ∉ s.deck.stacksOut →
    (cause = .phy ∨ cause = .sensor ∨
      (cause = .channels ∧ 8 ≤ (s.deck.lost.filter (fun c => c / 32 == st)).length)) →
    Settles (.stackLost st cause) s (fun v => st ∈ v.deck.stacksOut ∧ (∀ k < 32, st * 32 + k ∈ v.deck.lost) ∧
      bitAt (sqGet v evDeck).1 2 = true)) ∧
  (∀ (s : State) (ch : Nat), ch < 512 → s.power.off = false → s.deck.unfilled.head? = some ch → groupsOn s ch = [] →
    Settles (.displacedFill ch) s (fun v => ch ∉ v.deck.unfilled ∧
      (∀ a, channelOf a = ch → a < reserveBase → NMap.has s.deck.mem a = true → deckByteAt v a = deckByteAt s a) ∧
      v.deck.lost = s.deck.lost ∧ v.sched = s.sched ∧ v.regs = s.regs)) ∧
  (∀ s : State, s.power.off = false → s.deck.withdrawn < 4 * s.deck.lost.length - 128 →
    Settles .plainWithdraw s (fun v => v.deck.withdrawn = 4 * s.deck.lost.length - 128 ∧
      bitAt (sqGet v evDeck).1 3 = true))

/-- R376 to R379, R400: a completion that passes the checks ends its command, and the data that landed reach its owner;
what is not admitted is dropped and counted; a command that times out counts, two of them reset the controller, and one
that does not come back is lost. -/
def Obligations.NvmeControllersServe : Prop :=
  (∀ (s : State) (port ctrl i id : Nat) (c : NvmeCtl) (entry got : List Byte) (a : Acc) (it : Item), port < 2 → ctrl < 16 →
    s.power.off = false → getCtl s (nvmeKey port ctrl) = c → c.life = .ready → entry.length = 16 →
    bitAt (leAt entry 14 2) 0 = c.phase → leAt entry 14 2 / 2 = 0 → leAt entry 10 2 = 1 → leAt entry 8 2 < 1024 →
    NMap.find? c.cmds (leAt entry 12 2) = some i → NMap.find? s.kid.accs i = some a → a.write = false →
    a.owner = .item id → getItem s id = some it → NMap.find? c.landing (leAt entry 12 2) = some got → got.length = a.len →
    Settles (.nvmeCompletion port ctrl 1 entry) s (fun v =>
      NMap.find? (getCtl v (nvmeKey port ctrl)).cmds (leAt entry 12 2) = none ∧
      (getCtl v (nvmeKey port ctrl)).cqHead = (c.cqHead + 1) % 1024 ∧ NMap.find? v.kid.accs i = none ∧
      (∃ it', getItem v id = some it' ∧ memTake zeroByte it'.landed a.addr a.len = got ∧ it'.waiting = it.waiting - 1) ∧
      v.deck = s.deck ∧ v.regs = s.regs)) ∧
  (∀ (s : State) (port ctrl : Nat) (c : NvmeCtl) (entry : List Byte), port < 2 → ctrl < 16 → s.power.off = false →
    getCtl s (nvmeKey port ctrl) = c → c.life = .ready → entry.length = 16 → bitAt (leAt entry 14 2) 0 = c.phase →
    NMap.find? c.cmds (leAt entry 12 2) = none → Answers (.nvmeCompletion port ctrl 1 entry) s (fun t =>
      Counted s t ctNvmeBad 1 ∧ (getCtl t (nvmeKey port ctrl)).cmds = c.cmds ∧ t.deck = s.deck ∧ t.kid = s.kid)) ∧
  (∀ (s : State) (port ctrl cid off i : Nat) (c : NvmeCtl) (data : List Byte) (a : Acc), port < 2 → ctrl < 16 →
    s.power.off = false → s.power.nap = false → getCtl s (nvmeKey port ctrl) = c → c.cqHead < 1024 →
    NMap.find? c.cmds cid = some i → NMap.find? s.kid.accs i = some a → a.write = false →
    off + data.length ≤ a.len → off + data.length ≤ 2 ^ 20 →
    Answers (.nvmeInboundRequest port ctrl true (dataBase cid + off) data.length data) s (fun t =>
      NMap.find? (getCtl t (nvmeKey port ctrl)).landing cid =
        some (slice (NMap.getD c.landing cid []) 0 off ++ data ++ (NMap.getD c.landing cid []).drop (off + data.length)) ∧
      (getCtl t (nvmeKey port ctrl)).cmds = c.cmds ∧ t.kid = s.kid ∧ t.deck = s.deck ∧ t.regs = s.regs)) ∧
  (∀ (s : State) (port ctrl addr : Nat) (data : List Byte), port < 2 → ctrl < 16 → s.power.off = false →
    s.power.nap = false → addr + data.length ≤ 65536 →
    exec (.nvmeInboundRequest port ctrl true addr data.length data) s = .next (bump s ctNvmeBad 1)) ∧
  (∀ (s : State) (i k : Nat) (a : Acc) (c : NvmeCtl), NMap.find? s.kid.accs i = some a →
    List.find? (fun p => p.2.cmds.any (fun q => q.2 == i)) s.nvme = some (k, c) → c.life = .ready → accLate s a = true →
    Answers (.nvmeCommandTimeout i) s (fun t => Counted s t ctNvmeTimeout 1 ∧ (getCtl t k).timeouts = c.timeouts + 1 ∧
      (getCtl t k).cmds = c.cmds ∧ t.deck = s.deck)) ∧
  (∀ (s : State) (port ctrl : Nat), port < 2 → ctrl < 16 → (getCtl s (nvmeKey port ctrl)).life = .ready →
    2 ≤ (getCtl s (nvmeKey port ctrl)).timeouts → Answers (.nvmeControllerReset port ctrl) s (fun t =>
      (getCtl t (nvmeKey port ctrl)).life = .resetting s.clock.ticks ∧ EventSet s t evDeck 4 ∧
      (getCtl t (nvmeKey port ctrl)).cmds = (getCtl s (nvmeKey port ctrl)).cmds ∧ t.deck = s.deck)) ∧
  (∀ (s : State) (port ctrl since : Nat), port < 2 → ctrl < 16 →
    (getCtl s (nvmeKey port ctrl)).life = .resetting since → s.clock.ticks < since + 16777216 →
    Answers (.nvmeControllerReady port ctrl) s (fun t => (getCtl t (nvmeKey port ctrl)).life = .ready ∧
      (getCtl t (nvmeKey port ctrl)).timeouts = 0 ∧
      (getCtl t (nvmeKey port ctrl)).cmds = (getCtl s (nvmeKey port ctrl)).cmds ∧ t.deck = s.deck ∧ t.regs = s.regs)) ∧
  (∀ (s : State) (port ctrl since : Nat), port < 2 → ctrl < 16 →
    (getCtl s (nvmeKey port ctrl)).life = .resetting since → since + 16777216 ≤ s.clock.ticks →
    Settles (.nvmeLost port ctrl) s (fun v => (getCtl v (nvmeKey port ctrl)).life = .lost ∧
      (getCtl v (nvmeKey port ctrl)).cmds = [] ∧ bitAt (sqGet v evDeck).1 5 = true))

/-- R388 to R394, R243, R414: a flagged run is replayed at the head of its queue on another Pier; a Pier that meets a loss
condition leaves service; a hub entry is reloaded and counted; a register value and a Parapet bank are restored; a unit
with three faults in 1,048,576 ticks, and a compute die at once, goes out of service. -/
def Obligations.UnitsAreHealed : Prop :=
  (∀ (s : State) (pier id : Nat) (it : Item), pier < 256 → running s = true → (getPier s pier).lost = false →
    (getPier s pier).item = some id → getItem s id = some it → it.handed = false →
    Settles (.parityFailure pier) s (fun v => Counted s v ctReplay 1 ∧ bitAt (sqGet v evHeal).1 0 = true ∧
      ∃ it', getItem v id = some it' ∧ it'.st = .ready ∧ it'.bufs = [] ∧ it'.accum = [] ∧ it'.landed = [] ∧
        it'.waiting = 0 ∧ pier ∈ it'.failedPiers ∧ it'.arrival < it.arrival ∧ it'.idx = it.idx ∧ it'.preds = it.preds)) ∧
  (∀ (s : State) (pier : Nat) (cause : PierCause), pier < 256 → s.power.off = false → (getPier s pier).lost = false →
    (cause = .scratchBank ∨ cause = .portCheck ∨ (cause = .selfTest ∧ s.boot.phase = 2) ∨ (cause = .flags ∧
      3 ≤ ((getPier s pier).flagTicks.filter (fun t => decide (s.clock.ticks < t + 1048576))).length)) →
    Settles (.pierLost pier cause) s (fun v => (getPier v pier).lost = true ∧ (getPier v pier).item = none ∧
      (getPier v pier).queue = [] ∧ bitAt (sqGet v evHeal).1 1 = true ∧
      ∀ c ∈ v.deck.pierMem, ¬(pier * scratchSize ≤ c.1 ∧ c.1 < (pier + 1) * scratchSize))) ∧
  (∀ (s : State) (unit : HubUnit) (ts : List Nat), s.power.off = false →
    ts = (NMap.getD s.heal.hubFaults (hubNumber unit) []).filter (fun t => decide (s.clock.ticks < t + 1048576)) →
    exec (.hubParityFailure unit) s = .next { s with
      heal := { s.heal with hubFaults := NMap.set s.heal.hubFaults (hubNumber unit) (ts ++ [s.clock.ticks]) } }) ∧
  (∀ (s : State) (off v : Nat), s.power.off = false → NMap.find? s.regs.copies off = some v →
    Settles (.configFix off) s (fun t => rwGet t off = v ∧ Counted s t ctConfigFix 1 ∧
      bitAt (sqGet t evHeal).1 4 = true ∧ t.deck = s.deck)) ∧
  (∀ (s : State) (parapet bank : Nat), parapet < 4 → bank < 16 → s.power.off = false →
    bankKey parapet bank ∉ s.heal.banksOut → parapet ∉ s.heal.diesOut →
    Answers (.parapetBankParity parapet bank) s (fun t =>
      NMap.getD (NMap.getD t.parapets parapet ParapetState.reset).entries bank [] =
        NMap.getD (NMap.getD s.parapets parapet ParapetState.reset).shadow bank [] ∧
      EventSet s t evSel 2 ∧ t.deck = s.deck ∧ t.sched = s.sched)) ∧
  (∀ (s : State) (d : Nat), d < 4 → s.power.off = false → d ∉ s.heal.enginesOut →
    Settles (.unitOut (.compEngine d)) s (fun v => d ∈ v.heal.enginesOut ∧ bitAt (sqGet v evHeal).1 1 = true) ∨
    Answers (.unitOut (.compEngine d)) s (fun t => t.heal.enginesOut = s.heal.enginesOut ∧
      (NMap.getD t.heal.engineFaults d []).length ≤ 2)) ∧
  (∀ (s : State) (d : Nat), d < 4 → s.power.off = false → d ∉ s.heal.diesOut →
    Settles (.unitOut (.die d)) s (fun v => d ∈ v.heal.diesOut ∧ d ∈ v.heal.enginesOut ∧
      (∀ b < 16, bankKey d b ∈ v.heal.banksOut) ∧ (∀ p < 64, (getPier v (d * 64 + p)).lost = true) ∧
      (∀ c < 128, d * 128 + c ∈ v.deck.lost)))

/-- R381, R395 to R399: a group with an uncorrectable block waits for its rebuild; a rebuild that is written ends and
counts; one whose sources failed twice loses its group; the audit reads the next backing copy, and goes on when the copy
passes. -/
def Obligations.GroupsAreRebuilt : Prop :=
  (∀ (s : State) (v g : Nat) (t : TDesc) (e : DEntry), running s = true → groupOf s v g = some (t, e) →
    inDeckTier e = true → (∃ b ∈ blocksOf (gLocal (locAddr s e.loc)) e.size, badAt s (b * 64) = true) →
    weightVer s v = none → stateVer s v = none → e.state ≠ gRebuilding → e.state ≠ gLost →
    (∀ p ∈ s.heal.rebuilds, ¬(p.2.ver = v ∧ p.2.group = g)) → migrationOf s v g = none →
    Settles (.rebuildStart v g) s (fun u => ∃ r, NMap.find? u.heal.rebuilds s.heal.nextJob = some r ∧ r.ver = v ∧
      r.group = g ∧ r.state = none ∧ r.written = false)) ∧
  (∀ (s : State) (i : Nat) (r : Rebuild), NMap.find? s.heal.rebuilds i = some r → r.running = true → r.fatal = none →
    r.written = true → r.waiting = 0 → s.heal.outOfService = false → s.power.off = false →
    Settles (.rebuildDone i) s (fun v => NMap.find? v.heal.rebuilds i = none ∧ Counted s v ctRebuild 1 ∧
      bitAt (sqGet v evHeal).1 2 = true)) ∧
  (∀ (s : State) (i kind loc : Nat) (r : Rebuild) (x : Version) (t : TDesc) (e : DEntry),
    NMap.find? s.heal.rebuilds i = some r → r.fatal = some (kind, loc) → r.state = none → getVer s r.ver = some x →
    groupOf s r.ver r.group = some (t, e) → e.state ≠ gLost → Settles (.groupLost i) s (fun v =>
      NMap.find? v.heal.rebuilds i = none ∧ Counted s v ctGroupLost 1 ∧ bitAt (sqGet v evHeal).1 3 = true)) ∧
  (∀ (s : State) (v g : Nat) (x : Version) (t : TDesc) (e : DEntry), running s = true → rwGet s rwAuditRate ≠ 0 →
    s.deck.audit.target = none → (auditList s)[s.deck.audit.pos % max 1 (auditList s).length]? = some (v, g) →
    getVer s v = some x → groupOf s v g = some (t, e) → e.state ≠ gLost → e.state ≠ gRebuilding →
    Settles .auditRead s (fun u => u.deck.audit.target = some (v, g) ∧
      u.deck.audit.asked = s.deck.audit.asked ++ [backingExtent s e] ∧ u.deck.mem = s.deck.mem ∧ u.ctxs = s.ctxs)) ∧
  (∀ (s : State) (v g : Nat) (t : TDesc) (e : DEntry) (b : List Byte), running s = true → rwGet s rwAuditRate ≠ 0 →
    s.deck.audit.target = some (v, g) → s.deck.audit.waiting = 0 → s.deck.audit.failed = false →
    groupOf s v g = some (t, e) →
    readFrame (memTake zeroByte s.deck.audit.frame (backingExtent s e).1 (backingExtent s e).2) t.tableId
      (fun n => n % 2 ^ 32 == g && decide (n / 2 ^ 32 ≤ t.version)) = some b →
    (e.dirty = true ∨ leafOf t.tableId g e.fmt e.stride b = e.leaf) →
    Answers .auditRead s (fun u => u.deck.audit.target = none ∧ u.deck.audit.pos = s.deck.audit.pos + 1 ∧
      u.deck.audit.frame = [] ∧ u.deck.mem = s.deck.mem ∧ (e.dirty = true → u.regs = s.regs) ∧
      (e.dirty = false → Counted s u ctDigest (leafHashed e.stride)) ∧ u.ctxs = s.ctxs))

/-! ### Rings and commands -/

namespace Sys2Proof.Machine

/-- Neither in Nap nor on the way there: a doorbell wakes nothing. -/
abbrev Awake (s : State) : Prop := s.power.nap = false ∧ s.power.entering = none

/-- A ring of a context. -/
abbrev RingAt (s : State) (c r : Nat) (x : Ctx) (y : Ring) : Prop := NMap.find? s.ctxs c = some x ∧ NMap.find? x.rings r = some y

/-- The ring has gone past the descriptor at its head (15 R334). -/
def PastHead (v : State) (c r : Nat) (y : Ring) : Prop :=
  ∃ y', getRing v c r = some y' ∧ y'.consumed = (y.consumed + 1) % 2 ^ 32 ∧ y'.head = none ∧ y'.arg = none ∧ y'.tail = y.tail

/-- The head descriptor is consumed, with this status and detail. -/
def Done (v : State) (c r : Nat) (y : Ring) (raw : List Byte) (status detail : Nat) : Prop :=
  PastHead v c r y ∧ ∃ d, getDesc v c r y.consumed = some d ∧ d.raw = raw ∧ d.status = some status ∧ d.detail = detail ∧
    d.created = false

/-- The head descriptor is consumed as a command that goes on running. -/
def Begun (v : State) (c r : Nat) (y : Ring) (raw : List Byte) : Prop :=
  PastHead v c r y ∧ ∃ d, getDesc v c r y.consumed = some d ∧ d.raw = raw ∧ d.status = none ∧ d.running = true

/-- The head of the ring is a command with this code that the common checks of 15 R329 let through, with its bytes. -/
abbrev Taken (s : State) (c r code : Nat) (named : List (Nat × Nat)) (need : List Byte → List Byte → Nat) (x : Ctx) (y : Ring)
    (raw arg : List Byte) : Prop :=
  RingAt s c r x y ∧ takeCommand s c r code named need = .go x raw arg ∧
  ∀ q ∈ y.descs, ¬(q.2.type = code ∧ q.2.running = true)

/-- The ring's first running command of this code. -/
abbrev RunsNow (s : State) (c r code i : Nat) (d : Desc) : Prop :=
  ∃ x y, RingAt s c r x y ∧ List.find? (fun q => q.2.type == code && q.2.running) y.descs = some (i, d) ∧
    NMap.find? y.descs i = some d ∧ d.status = none

/-- The command's descriptor has ended OK. -/
def Ended (v : State) (c r i : Nat) (d : Desc) : Prop :=
  getDesc v c r i = some { d with status := some 0, detail := 0, running := false }

/-- The context as it now is. -/
def CtxIs (v : State) (c : Nat) (P : Ctx → Prop) : Prop := ∃ x, NMap.find? v.ctxs c = some x ∧ P x

end Sys2Proof.Machine

open Sys2Proof Sys2Proof.Machine

/-- R322 to R325, R333 to R336: a doorbell that passes the checks moves its pointer, and one that does not is dropped and
counted, and a DOORBELL transaction acts as the row of its place in its context's page; the device fetches the next
descriptor, from the line cache when it is held; a changed status word, a trailer and a completion that are due are written;
a wake message goes out. -/
def Obligations.RingsAreServed : Prop :=
  (∀ (s : State) (c r value : Nat) (x : Ctx) (y : Ring), RingAt s c r x y → value < 2 ^ 32 →
    diff32 value y.consumed ≤ 2 ^ y.subLog → Settles (.submissionTail c r value) s (fun v =>
      getRing v c r = some { y with tail := value } ∧ SchedKept s v ∧ (Awake s → v.power = s.power) ∧
      (s.power.nap = true → s.power.entering = none → s.power.waking = none → x.st = .active →
        diff32 y.tail y.consumed < diff32 value y.consumed → v.power.waking = some s.clock.ticks))) ∧
  (∀ (s : State) (c r value : Nat) (x : Ctx) (y : Ring), RingAt s c r x y → value < 2 ^ 32 →
    2 ^ y.subLog < diff32 value y.consumed → Settles (.submissionTail c r value) s (fun v =>
      Counted s v ctBadDoorbell 1 ∧ EventSet s v evRing 0 ∧ v.ctxs = s.ctxs ∧ v.deck = s.deck)) ∧
  (∀ (s : State) (c r value : Nat) (x : Ctx) (y : Ring), RingAt s c r x y → value < 2 ^ 32 →
    diff32 value y.cqHead ≤ diff32 y.written y.cqHead → Settles (.completionHead c r value) s (fun v =>
      getRing v c r = some { y with cqHead := value, statusDirty := true } ∧ SchedKept s v)) ∧
  (∀ (s : State) (c r value : Nat) (x : Ctx) (y : Ring), RingAt s c r x y → value < 2 ^ 32 →
    diff32 y.written y.cqHead < diff32 value y.cqHead → Settles (.completionHead c r value) s (fun v =>
      Counted s v ctBadDoorbell 1 ∧ EventSet s v evRing 0 ∧ v.ctxs = s.ctxs ∧ v.deck = s.deck)) ∧
  (∀ (s : State) (c value which : Nat) (x : Ctx) (cmd : Instr), NMap.find? s.ctxs c = some x → value < 2 ^ 32 →
    (which = 0 ∧ cmd = .quarantineLogHead c value ∨ which = 1 ∧ cmd = .haltLogHead c value ∨
      which = 2 ∧ cmd = .eventTraceHead c value) →
    (diff32 value (ctxLog x which).head ≤ diff32 (ctxLog x which).acked (ctxLog x which).head → Settles cmd s (fun v =>
      CtxIs v c (fun x' => (ctxLog x' which).head = value ∧ x'.rings = x.rings) ∧ SchedKept s v)) ∧
    (diff32 (ctxLog x which).acked (ctxLog x which).head < diff32 value (ctxLog x which).head → Settles cmd s (fun v =>
      Counted s v ctBadDoorbell 1 ∧ EventSet s v evRing 0 ∧ v.ctxs = s.ctxs ∧ v.deck = s.deck))) ∧
  (∀ (s : State) (c r value : Nat) (cmd : Instr), NMap.find? s.ctxs c = none →
    (cmd = .submissionTail c r value ∨ cmd = .completionHead c r value ∨ cmd = .quarantineLogHead c value ∨
      cmd = .haltLogHead c value ∨ cmd = .eventTraceHead c value) → Settles cmd s (fun v =>
      Counted s v ctBadDoorbell 1 ∧ bitAt (sqGet v evRing).1 0 = true ∧ bitAt (sqGet v evRing).1 1 = true ∧
      v.ctxs = s.ctxs ∧ v.deck = s.deck)) ∧
  (∀ (s : State) (c r : Nat) (x : Ctx) (y : Ring) (bs : List Byte), RingAt s c r x y → mayFetch s x y = true →
    y.cacheable = true →
    NMap.find? s.kid.lines ((gLocal (y.subBase + (y.consumed % 2 ^ y.subLog) * 64) - hostBase) / 64) = some bs →
    Settles (.descriptorFetch c r) s (fun v => getRing v c r = some { y with head := some bs } ∧ SchedKept s v)) ∧
  (∀ (s : State) (c r : Nat) (x : Ctx) (y : Ring), RingAt s c r x y → mayFetch s x y = true → y.cacheable = false ∨
      NMap.find? s.kid.lines ((gLocal (y.subBase + (y.consumed % 2 ^ y.subLog) * 64) - hostBase) / 64) = none →
    Settles (.descriptorFetch c r) s (fun v => getRing v c r = some { y with waiting := 1 } ∧
      NMap.find? v.kid.accs s.kid.nextAcc =
        some { accRead s (.slot c r y.consumed) c (y.subBase + (y.consumed % 2 ^ y.subLog) * 64) 64 with
          shared := y.cacheable } ∧
      v.deck = s.deck ∧ v.sched = s.sched ∧ v.regs = s.regs)) ∧
  (∀ (s : State) (c r : Nat) (x : Ctx) (y : Ring), RingAt s c r x y → y.statusDirty = true → y.statusBusy = false →
    s.power.off = false → Settles (.statusWordWrite c r) s (fun v =>
      getRing v c r = some { y with gen := (y.gen + 1) % 2 ^ 32, statusDirty := false, statusBusy := true } ∧
      NMap.find? v.kid.accs s.kid.nextAcc = some (accWrite s (.status c r) c y.statusAddr (statusBytes s x y)) ∧
      v.deck = s.deck ∧ v.sched = s.sched ∧ v.regs = s.regs)) ∧
  (∀ (s : State) (c r : Nat) (x : Ctx) (y : Ring) (d : Desc), RingAt s c r x y → NMap.find? y.descs y.written = some d →
    entryDue d = true → d.closeDue = false → d.trailerDue = false → d.lostGroups.drop d.lostSent = [] → s.heal.outOfService = false →
    s.power.off = false → Settles (.completionWrite c r) s (fun v =>
      getDesc v c r y.written = some { d with entrySent := true } ∧
      (∃ i a, NMap.find? v.kid.accs i = some a ∧ a.owner = .completion c r y.written ∧ a.write = true ∧
        a.addr = y.cqBase + (y.written % 2 ^ y.cqLog) * 32 ∧ a.data = completionBytes s y y.written d) ∧
      SchedKept s v)) ∧
  (∀ (s : State) (c r : Nat) (x : Ctx) (y : Ring) (d : Desc), RingAt s c r x y → NMap.find? y.descs y.written = some d →
    entryDue d = true → d.closeDue = false → d.trailerDue = true → s.heal.outOfService = false → s.power.off = false →
    Settles (.completionWrite c r) s (fun v => getDesc v c r y.written =
        some { d with trailerDue := false, trailerDone := isDeck s (leAt d.raw 24 8) } ∧
      (isDeck s (leAt d.raw 24 8) = false → NMap.find? v.kid.accs s.kid.nextAcc = some (accWrite s (.trailer c r y.written) c
        (leAt d.raw 24 8) (trailerBytes (chainImage s c d.chain) d (d.status.getD 0)))) ∧ v.sched = s.sched)) ∧
  (∀ (s : State) (c r i : Nat) (x : Ctx) (y : Ring), RingAt s c r x y → y.wake = some i →
    Answers (.msgWake c r) s (fun t => getRing t c r = some { y with wake := none } ∧
      t.kidLink = pump { s.kidLink with queue := s.kidLink.queue ++
        [{ hdr := kidHdr 8 0 0 1 (c + r * 2 ^ 16 + i * 2 ^ 32), data := [] }] } ∧ t.deck = s.deck ∧ t.regs = s.regs)) ∧
  (∀ (s : State) (c r value : Nat) (x : Ctx) (y : Ring), RingAt s c r x y → WindowOpen s → c < 65536 → r < 16 →
    value < 2 ^ 32 → diff32 value y.consumed ≤ 2 ^ y.subLog →
    Settles (.doorbell (0x10000000 + 4096 * c + 8 * r) value) s (fun v =>
      getRing v c r = some { y with tail := value } ∧ SchedKept s v ∧ (Awake s → v.power = s.power))) ∧
  (∀ (s : State) (c r value : Nat), WindowOpen s → c < 65536 → r < 16 →
    exec (.doorbell (0x10000000 + 4096 * c + 8 * r) value) s = exec (.submissionTail c r value) s ∧
    exec (.doorbell (0x10000000 + 4096 * c + 8 * r + 0x80) value) s = exec (.completionHead c r value) s ∧
    exec (.doorbell (0x10000000 + 4096 * c + 0x100) value) s = exec (.quarantineLogHead c value) s ∧
    exec (.doorbell (0x10000000 + 4096 * c + 0x108) value) s = exec (.haltLogHead c value) s ∧
    exec (.doorbell (0x10000000 + 4096 * c + 0x110) value) s = exec (.eventTraceHead c value) s)

/-- R76 to R78, R87, R61, R62, R245 to R251: the commands over chains, flows, ranges and tensors.  One that passes its
checks consumes its slot and changes the context as it says; a chain image with a bad byte names it; removing, closing
and destroying go on running, and end once nothing uses what they name. -/
def Obligations.ContextsChangeByCommands : Prop :=
  (∀ (s : State) (c r : Nat) (x : Ctx) (y : Ring) (raw img : List Byte), Taken s c r 2 [(32, 33)] imageLen x y raw img →
    leAt raw 32 2 < 4096 → NMap.has x.chains (leAt raw 32 2) = false →
    (∀ b, imageBad img = some b → Settles (.chainInstall c r) s (fun v => Done v c r y raw 0x10 (0x80000000 + b) ∧
      CtxIs v c (fun z => z.chains = x.chains) ∧ v.deck = s.deck)) ∧
    (imageBad img = none → x.landing + (List.range (chainBufs img)).foldl (fun a i => a + chainBufSize img i) 0 ≤ 2 ^ 20 →
      Settles (.chainInstall c r) s (fun v => Done v c r y raw 0 0 ∧
        CtxIs v c (fun z => NMap.find? z.chains (leAt raw 32 2) = some { image := img, removing := false } ∧
          z.tensors = x.tensors) ∧ v.deck = s.deck ∧ v.sched = s.sched))) ∧
  (∀ (s : State) (c r : Nat) (x : Ctx) (y : Ring) (raw arg : List Byte) (ch : Chain), Taken s c r 3 [(32, 33)] noArg x y raw arg →
    leAt raw 32 2 < 4096 → NMap.find? x.chains (leAt raw 32 2) = some ch → ch.removing = false →
    Settles (.chainRemove c r) s (fun v => Begun v c r y raw ∧
      CtxIs v c (fun z => NMap.find? z.chains (leAt raw 32 2) = some { ch with removing := true }) ∧ v.deck = s.deck)) ∧
  (∀ (s : State) (c r i : Nat) (d : Desc), RunsNow s c r 3 i d → chainLive s c (leAt d.raw 32 2) = false →
    Settles (.chainRemove c r) s (fun v => Ended v c r i d ∧
      CtxIs v c (fun z => NMap.find? z.chains (leAt d.raw 32 2) = none) ∧ v.deck = s.deck)) ∧
  (∀ (s : State) (c r : Nat) (x : Ctx) (y : Ring) (raw arg : List Byte), Taken s c r 4 [(32, 36)] noArg x y raw arg →
    leAt raw 32 4 < 2 ^ 20 → NMap.has s.sched.flows (leAt raw 32 4) = false →
    leAt raw 36 1 = 0 ∨ (12 ≤ leAt raw 36 1 ∧ leAt raw 36 1 ≤ 16) → Settles (.flowOpen c r) s (fun v =>
      Done v c r y raw 0 0 ∧ (∃ f, NMap.find? v.sched.flows (leAt raw 32 4) = some f ∧ f.next = 0 ∧ f.release = 0 ∧
        f.ctx = c ∧ f.ring = r ∧ f.draining = false ∧ f.wlog = (if leAt raw 36 1 = 0 then 12 else leAt raw 36 1)) ∧
      v.sched.items = s.sched.items ∧ v.deck = s.deck)) ∧
  (∀ (s : State) (c r : Nat) (x : Ctx) (y : Ring) (raw arg : List Byte) (f : Flow), Taken s c r 5 [(32, 35)] noArg x y raw arg →
    NMap.find? s.sched.flows (leAt raw 32 4) = some f → f.ctx = c → f.ring = r → f.draining = false →
    Settles (.flowClose c r) s (fun v => Begun v c r y raw ∧
      NMap.find? v.sched.flows (leAt raw 32 4) = some { f with draining := true } ∧ v.deck = s.deck)) ∧
  (∀ (s : State) (c r i : Nat) (d : Desc) (f : Flow), RunsNow s c r 5 i d →
    NMap.find? s.sched.flows (leAt d.raw 32 4) = some f → f.release = f.next → Settles (.flowClose c r) s (fun v =>
      Ended v c r i d ∧ NMap.find? v.sched.flows (leAt d.raw 32 4) = none ∧ v.deck = s.deck)) ∧
  (∀ (s : State) (c r : Nat) (x : Ctx) (y : Ring) (raw arg : List Byte),
    Taken s c r 6 [(32, 36), (40, 55)] noArg x y raw arg → leAt raw 36 1 < 8 → leAt raw 48 8 ≠ 2 ^ 64 - 1 →
    NMap.has x.ranges (leAt raw 32 4) = false → localBad (gLocal (leAt raw 40 8)) (leAt raw 48 8) = false →
    (isOwn s (leAt raw 40 8) = true → gLocal (leAt raw 40 8) < deckTop →
      bitAt (leAt raw 36 1) 2 = false ∧ deckReachable s (gLocal (leAt raw 40 8)) (leAt raw 48 8) = true) →
    (isOwn s (leAt raw 40 8) = true → ¬ gLocal (leAt raw 40 8) < deckTop →
      inHostWindow s (gLocal (leAt raw 40 8) - hostBase) (leAt raw 48 8) = true) → Settles (.rangeAdd c r) s (fun v =>
      Done v c r y raw 0 0 ∧ CtxIs v c (fun z => NMap.find? z.ranges (leAt raw 32 4) = some
        { base := leAt raw 40 8, len := leAt raw 48 8, read := bitAt (leAt raw 36 1) 0, write := bitAt (leAt raw 36 1) 1,
          pageable := bitAt (leAt raw 36 1) 2 }) ∧ v.deck = s.deck)) ∧
  (∀ (s : State) (c r : Nat) (x : Ctx) (y : Ring) (raw arg : List Byte), Taken s c r 7 [(32, 35)] noArg x y raw arg →
    NMap.has x.ranges (leAt raw 32 4) = true → (∀ p ∈ x.tensors, p.2.range ≠ leAt raw 32 4) →
    Settles (.rangeRemove c r) s (fun v => Done v c r y raw 0 0 ∧
      CtxIs v c (fun z => NMap.find? z.ranges (leAt raw 32 4) = none ∧ z.tensors = x.tensors) ∧ v.deck = s.deck)) ∧
  (∀ (s : State) (c r : Nat) (x : Ctx) (y : Ring) (raw arg : List Byte) (rg : Range),
    Taken s c r 8 [(32, 35)] (argOf 128) x y raw arg → tensorInvalid arg = none → leAt raw 32 4 < x.tensorTable →
    NMap.has x.tensors (leAt raw 32 4) = false → NMap.find? x.ranges (parseTensor arg).range = some rg →
    gDev (parseTensor arg).base = gDev rg.base → rg.base ≤ (parseTensor arg).view.lo →
    (parseTensor arg).view.lo + (parseTensor arg).view.span ≤ rg.base + rg.len →
    ((parseTensor arg).read = true → rg.read = true) → ((parseTensor arg).write = true → rg.write = true) →
    ((parseTensor arg).write = true → selfOverlap (parseTensor arg) = false) → Settles (.tensorCreate c r) s (fun v =>
      Done v c r y raw 0 0 ∧ CtxIs v c (fun z => NMap.find? z.tensors (leAt raw 32 4) = some (parseTensor arg)) ∧
      v.deck = s.deck)) ∧
  (∀ (s : State) (c r : Nat) (x : Ctx) (y : Ring) (raw arg : List Byte) (t : Tensor), Taken s c r 9 [(32, 35)] noArg x y raw arg →
    leAt raw 32 4 < x.tensorTable → NMap.find? x.tensors (leAt raw 32 4) = some t → t.dying = false →
    Settles (.tensorDestroy c r) s (fun v => Begun v c r y raw ∧
      CtxIs v c (fun z => NMap.find? z.tensors (leAt raw 32 4) = some { t with dying := true }) ∧ v.deck = s.deck)) ∧
  (∀ (s : State) (c r i : Nat) (d : Desc), RunsNow s c r 9 i d → tensorLive s c (leAt d.raw 32 4) = false →
    Settles (.tensorDestroy c r) s (fun v => Ended v c r i d ∧
      CtxIs v c (fun z => NMap.find? z.tensors (leAt d.raw 32 4) = none) ∧ v.deck = s.deck))

/-- R115, R202, R238, R264 to R271, R330: the commands over merge queues, Parapet sets, the sample cache, streams and
halts.  One that passes its checks consumes its slot and changes the context as it says; destroying a queue or a set and
resuming a halt go on running, and end once nothing uses what they name; an arm of a busy slot is refused. -/
def Obligations.EnginesAreCommanded : Prop :=
  (∀ (s : State) (c r : Nat) (x : Ctx) (y : Ring) (raw b : List Byte), Taken s c r 0x11 [(32, 34)] (queueNeed true) x y raw b →
    leAt raw 34 1 = 1 → leAt raw 32 2 < 1024 → NMap.has x.queues (leAt raw 32 2) = false → createBad b = none →
    createRefused s x b = none → Settles (.mergeQueueCreate c r) s (fun v => Done v c r y raw 0 0 ∧
      CtxIs v c (fun z => NMap.find? z.queues (leAt raw 32 2) = some (newQueue s x b)) ∧ v.deck = s.deck)) ∧
  (∀ (s : State) (c r : Nat) (x : Ctx) (y : Ring) (raw arg : List Byte) (m : MergeQueue), Taken s c r 0x11 [(32, 34)] noArg x y raw arg →
    leAt raw 34 1 = 2 → leAt raw 32 2 < 1024 → NMap.find? x.queues (leAt raw 32 2) = some m → m.dying = false →
    Settles (.mergeQueueDestroy c r) s (fun v => Begun v c r y raw ∧
      getQueue v c (leAt raw 32 2) = some { m with dying := true } ∧ v.deck = s.deck)) ∧
  (∀ (s : State) (c r i : Nat) (d : Desc), RunsNow s c r 0x11 i d → queueLive s c (leAt d.raw 32 2) = false →
    Settles (.mergeQueueDestroy c r) s (fun v => Ended v c r i d ∧ getQueue v c (leAt d.raw 32 2) = none ∧ v.deck = s.deck)) ∧
  (∀ (s : State) (c r : Nat) (x : Ctx) (y : Ring) (raw b : List Byte) (m : MergeQueue),
    Taken s c r 0x11 [(32, 34), (36, 39)] (queueNeed false) x y raw b → leAt raw 34 1 = 3 → leAt raw 32 2 < 1024 →
    NMap.find? x.queues (leAt raw 32 2) = some m → m.rows = true → m.dying = false → m.toApply ≤ leAt raw 36 4 →
    setBad s x m b = none → Settles (.mergeQueueSet c r) s (fun v => Done v c r y raw 0 0 ∧
      getQueue v c (leAt raw 32 2) = some { m with params := m.params ++ [optOf b (leAt raw 36 4)] } ∧ v.deck = s.deck)) ∧
  (∀ (s : State) (c r : Nat) (x : Ctx) (y : Ring) (raw arg : List Byte) (k : ParaSet),
    Taken s c r 0x12 [(32, 36), (40, 43)] noArg x y raw arg → leAt raw 33 1 = 1 → paraSetBad raw = none →
    k = { parapet := leAt raw 34 1, bankLog2 := leAt raw 35 1, firstBank := leAt raw 36 1, flow := leAt raw 40 4,
          dying := false } →
    NMap.has x.sets (leAt raw 32 1) = false → banksTaken s k = false → Settles (.parapetSetCreate c r) s (fun v =>
      Done v c r y raw 0 0 ∧ CtxIs v c (fun z => NMap.find? z.sets (leAt raw 32 1) = some k) ∧
      (∀ b ∈ setBanks k, bankEntries v k.parapet b = []) ∧ v.deck = s.deck)) ∧
  (∀ (s : State) (c r : Nat) (x : Ctx) (y : Ring) (raw arg : List Byte) (k : ParaSet),
    Taken s c r 0x12 [(32, 36), (40, 43)] noArg x y raw arg → leAt raw 33 1 = 2 → paraSetBad raw = none →
    NMap.find? x.sets (leAt raw 32 1) = some k → k.dying = false → Settles (.parapetSetDestroy c r) s (fun v =>
      Begun v c r y raw ∧ CtxIs v c (fun z => NMap.find? z.sets (leAt raw 32 1) = some { k with dying := true }) ∧
      v.parapets = s.parapets ∧ v.deck = s.deck)) ∧
  (∀ (s : State) (c r i : Nat) (d : Desc) (x : Ctx) (k : ParaSet), RunsNow s c r 0x12 i d → NMap.find? s.ctxs c = some x →
    NMap.find? x.sets (leAt d.raw 32 1) = some k → setLive s c (leAt d.raw 32 1) = false →
    Settles (.parapetSetDestroy c r) s (fun v => Ended v c r i d ∧
      CtxIs v c (fun z => NMap.find? z.sets (leAt d.raw 32 1) = none) ∧
      (∀ b ∈ setBanks k, bankEntries v k.parapet b = []) ∧ v.deck = s.deck)) ∧
  (∀ (s : State) (c r : Nat) (x : Ctx) (y : Ring) (raw arg : List Byte), Taken s c r 0x10 [(32, 43)] noArg x y raw arg →
    Settles (.cacheInvalidate c r) s (fun v => Done v c r y raw 0 0 ∧ CtxIs v c (fun z =>
      (leAt raw 32 8 = 0 → z.cache = []) ∧ ∀ e ∈ x.cache, leAt raw 32 8 ≠ 0 →
        (e ∈ z.cache ↔ e.dataset ≠ leAt raw 32 8 ∨ leAt raw 40 4 < e.generation)) ∧ v.deck = s.deck)) ∧
  (∀ (s : State) (c r : Nat) (x : Ctx) (y : Ring) (raw arg : List Byte) (dst : TView),
    Taken s c r 0x0A [(32, 32)] (argOf 64) x y raw arg → leAt raw 32 1 < 64 →
    (NMap.has x.streams (leAt raw 32 1) = true → Settles (.streamArm c r) s (fun v => Done v c r y raw 0x13 0 ∧
      EventSet s v evStream 3 ∧ CtxIs v c (fun z => z.streams = x.streams))) ∧
    (NMap.has x.streams (leAt raw 32 1) = false → streamBad s x arg = none → streamView x arg 4 = some dst →
      streamBlocks dst arg ≠ 0 → Settles (.streamArm c r) s (fun v => Begun v c r y raw ∧ CtxIs v c (fun z =>
        ∃ t, NMap.find? z.streams (leAt raw 32 1) = some t ∧ t.desc = arg ∧ t.ring = r ∧ t.idx = y.consumed ∧
          t.delivered = 0 ∧ t.next = 0 ∧ t.blocks = [] ∧ t.halt = none) ∧ v.deck = s.deck))) ∧
  (∀ (s : State) (c r : Nat) (x : Ctx) (y : Ring) (raw arg : List Byte) (h : Halt), Taken s c r 0x0B [(32, 35)] noArg x y raw arg →
    NMap.find? x.halts (leAt raw 32 4) = some h → h.resumable = true → h.running = none → h.cancelled = false →
    h.stream = true → Settles (.streamResume c r) s (fun v => Begun v c r y raw ∧
      CtxIs v c (fun z => NMap.find? z.halts (leAt raw 32 4) = some { h with running := some (r, y.consumed) }) ∧
      v.deck = s.deck)) ∧
  (∀ (s : State) (c r i : Nat) (d : Desc) (x : Ctx) (h : Halt), RunsNow s c r 0x0B i d → NMap.find? s.ctxs c = some x →
    NMap.find? x.halts (leAt d.raw 32 4) = some h → h.stream = false → h.waiting = 0 → h.fault = [] →
    h.cancelled = false → h.denied = false → h.phase = 2 → h.running = some (r, i) →
    Settles (.streamResume c r) s (fun v => Ended v c r i d ∧
      CtxIs v c (fun z => NMap.find? z.halts (leAt d.raw 32 4) = none) ∧ EventSet s v evStream 1 ∧ v.deck = s.deck)) ∧
  (∀ (s : State) (c r : Nat) (x : Ctx) (y : Ring) (raw arg : List Byte) (h : Halt), Taken s c r 0x0C [(32, 35)] noArg x y raw arg →
    NMap.find? x.halts (leAt raw 32 4) = some h → h.cancelled = false →
    (haltQuiet x h = true → Settles (.streamCancel c r) s (fun v => Done v c r y raw 0 0 ∧ CtxIs v c (fun z =>
      NMap.find? z.halts (leAt raw 32 4) = none ∧ (h.stream = true → NMap.find? z.streams h.which = none)) ∧
      EventSet s v evStream 2)) ∧
    (haltQuiet x h = false → Settles (.streamCancel c r) s (fun v => Begun v c r y raw ∧
      CtxIs v c (fun z => NMap.find? z.halts (leAt raw 32 4) = some { h with cancelled := true }))))

/-- R194, R196, R198, R199, R220: MIGRATE asks for a migration, which starts when a place is free; TABLE_SWITCH puts a
version in its slot, at once or until the version before is retired; VERSION_COMMIT closes a training version, and ends
once its COMMIT block is acknowledged. -/
def Obligations.TablesAreCommanded : Prop :=
  (∀ (s : State) (c r set v0 : Nat) (x : Ctx) (y : Ring) (raw arg : List Byte) (ver : Version) (t : TDesc) (e : DEntry),
    Taken s c r 0xF [(32, 36), (40, 43), (48, 55)] noArg x y raw arg → tableNamed s x raw = .ok (set, v0, ver) →
    t = tdesc s ver.desc → leAt raw 40 4 < t.groups → leAt raw 48 8 / 2 ^ 62 ≠ 3 → e = dentry s t (leAt raw 40 4) →
    locationOk s c x (leAt raw 48 8) e.size = true → groupOf s v0 (leAt raw 40 4) = some (t, e) →
    e.state = gResident ∨ e.state = gTail → sharedGroup s v0 (leAt raw 40 4) = false → ver.retired = false → s.heal.rebuilds = [] →
    s.tables.migrations = [] →
    Settles (.migrate c r) s (fun v => Begun v c r y raw ∧ ∃ m, NMap.find? v.tables.migrations s.heal.nextJob = some m ∧
      m.ver = v0 ∧ m.group = leAt raw 40 4 ∧ m.old = e.loc ∧ m.target = leAt raw 48 8 ∧ m.phase = 1 ∧ m.prior = e.state)) ∧
  (∀ (s : State) (c r set : Nat) (x : Ctx) (y : Ring) (raw arg : List Byte),
    Taken s c r 0xD [(32, 36), (40, 47)] noArg x y raw arg → leAt raw 32 4 < x.tensorTable →
    tableSetAt s x (leAt raw 32 4) = some set → commitOf s set (leAt raw 36 1) = none → y.waiting = 0 →
    leAt raw 40 8 % 256 = 0 → leAt raw 40 8 + 256 ≤ deckTop →
    switchBad s c x ((currentVer s set (leAt raw 36 1)).map (·.2)) (leAt raw 40 8) = false → y.memFail = false →
    (∀ g ∈ freshExtents s (tdesc s (leAt raw 40 8)), g ∈ y.asked) → freshUnreadable s (tdesc s (leAt raw 40 8)) = false →
    Settles (.tableSwitch c r) s (fun v =>
      (currentVer s set (leAt raw 36 1) = none → Done v c r y raw 0 0) ∧
      (currentVer s set (leAt raw 36 1) ≠ none → Begun v c r y raw) ∧
      ∃ n, getVer v s.tables.nextVer = some n ∧ n.setBase = set ∧ n.slot = leAt raw 36 1 ∧ n.desc = leAt raw 40 8 ∧
        n.current = true ∧ n.retired = false ∧ n.ctx = c)) ∧
  (∀ (s : State) (c r set v0 : Nat) (x : Ctx) (y : Ring) (raw b : List Byte) (ver : Version),
    Taken s c r 0xE [(32, 36), (40, 43)] commitNeed x y raw b → (∀ p ∈ s.tables.commits, ¬(p.2.ctx = c ∧ p.2.ring = r)) →
    tableNamed s x raw = .ok (set, v0, ver) → commitOf s set (leAt raw 36 1) = none →
    commitBad s c x set (leAt raw 36 1) b = none → lateApplies s c (commitQueues b) (leAt raw 40 4) = [] →
    (startedPast s c (commitQueues b) (leAt raw 40 4) = true → Settles (.versionCommit c r) s (fun v =>
      Done v c r y raw 0x10 0xFFFFFFFF ∧ v.tables = s.tables ∧ v.deck = s.deck ∧ v.sched = s.sched)) ∧
    (startedPast s c (commitQueues b) (leAt raw 40 4) = false → Settles (.versionCommit c r) s (fun v => Begun v c r y raw ∧ (∃ m, NMap.find? v.tables.commits s.heal.nextJob = some m ∧
      m.ver = v0 ∧ m.step = leAt raw 40 4 ∧ m.queues = commitQueues b ∧ m.phase = 0 ∧ m.newVer = s.tables.nextVer) ∧
      v.deck = s.deck ∧ v.sched = s.sched))) ∧
  (∀ (s : State) (c r job : Nat) (m : Commit) (ver : Version) (d : Desc),
    List.find? (fun p => p.2.ctx == c && p.2.ring == r) s.tables.commits = some (job, m) → m.phase = 2 →
    getVer s m.ver = some ver → s.heal.outOfService = false → s.power.off = false →
    (∀ x, NMap.find? s.ctxs c = some x → ∀ f ∈ x.journal.frames, f.2.block = m.block → f.2.kind = 2 → f.2.acked = true) →
    getDesc s c r m.idx = some d → d.status = none → Settles (.versionCommit c r) s (fun v =>
      NMap.find? v.tables.commits job = none ∧
      (∃ d', getDesc v c r m.idx = some d' ∧ d'.status = some (if d.lostGroups = [] then 0 else 0x30) ∧ d'.running = false) ∧
      v.deck = s.deck))

/-- R59, R68 to R70, R326 to R328, R462: an accepted SUBMIT creates its items together, in sequence order, all Pending; a
failed check gives its status; a dependence that is not consumed makes the ring wait, until the outside timeout; a full
context blocks its ring or refuses; a slot that could not be read is TIMEOUT. -/
def Obligations.SubmitsCreateItems : Prop :=
  (∀ (s : State) (c r : Nat) (x : Ctx) (y : Ring) (raw img : List Byte) (deps : List (Nat × Nat × Bool)) (cmd : Instr),
    RingAt s c r x y → y.head = some raw → x.st = .active → x.closing = false → running s = true → raw ≠ [] →
    leAt raw 0 1 = 1 → submitPlan s c r x y raw = .create img deps → heldForBlocked s c r x = false →
    (cmd = .submit c r ∧ y.blocked = none ∨ cmd = .blockedRingAccept c r ∧ y.blocked.isSome = true) →
    (∀ p ∈ s.sched.items, p.1 < s.sched.nextItem) → Settles cmd s (fun v => PastHead v c r y ∧
      (∃ d, getDesc v c r y.consumed = some d ∧ d.raw = raw ∧ d.created = true ∧ d.n = leAt raw 8 4 ∧
        d.firstItem = s.sched.nextItem ∧ d.status = none) ∧
      (∀ i < leAt raw 8 4, ∃ it, getItem v (s.sched.nextItem + i) = some it ∧ it.st = .pending ∧ it.ctx = c ∧ it.ring = r ∧
        it.idx = y.consumed ∧ it.index = i ∧ it.chain = leAt raw 4 2 ∧ it.flow = some (leAt raw 12 4) ∧
        it.prio = leAt raw 2 1 ∧ it.preds = deps ∧
        it.seq = (((NMap.find? s.sched.flows (leAt raw 12 4)).map (·.next)).getD 0 + i) % 2 ^ 32) ∧
      v.sched.nextItem = s.sched.nextItem + leAt raw 8 4)) ∧
  (∀ (s : State) (c r st k : Nat) (x : Ctx) (y : Ring) (raw : List Byte), RingAt s c r x y → y.head = some raw →
    x.st = .active → x.closing = false → running s = true → y.blocked = none →
    (raw = [] ∧ st = 0x21 ∧ k = 0xFFFFFFFF) ∨ (raw ≠ [] ∧ leAt raw 0 1 = 1 ∧ submitPlan s c r x y raw = .done st k ∧ st ≠ 0x14) →
    Settles (.submit c r) s (fun v => Done v c r y raw st k ∧ v.sched = s.sched ∧ v.deck = s.deck ∧
      (st ≠ 0x14 → v.regs = s.regs))) ∧
  (∀ (s : State) (c r : Nat) (x : Ctx) (y : Ring) (raw : List Byte), RingAt s c r x y → y.head = some raw →
    x.st = .active → x.closing = false → running s = true → y.blocked = none → raw ≠ [] → leAt raw 0 1 = 1 →
    submitPlan s c r x y raw = .wait →
    (y.depSince = none → Answers (.submit c r) s (fun t => getRing t c r = some { y with depSince := some s.clock.ticks } ∧
      t.sched = s.sched ∧ t.deck = s.deck)) ∧
    (∀ t, y.depSince = some t → t + x.timeout ≤ s.clock.ticks → Settles (.dependenceTimeout c r) s (fun v =>
      Done v c r y raw 0x21 0 ∧ v.sched = s.sched ∧ v.deck = s.deck))) ∧
  (∀ (s : State) (c r : Nat) (x : Ctx) (y : Ring) (raw : List Byte), RingAt s c r x y → y.head = some raw →
    x.st = .active → x.closing = false → running s = true → y.blocked = none → raw ≠ [] → leAt raw 0 1 = 1 →
    submitPlan s c r x y raw = .full → heldForBlocked s c r x = false → Settles (.submit c r) s (fun v =>
      (x.backPressure = true → (∃ k, getRing v c r = some { y with blocked := some k, statusDirty := true }) ∧
        bitAt (sqGet v evSched).1 2 = true) ∧
      (x.backPressure = false → Done v c r y raw 0x14 0 ∧ bitAt (sqGet v evSched).1 1 = true) ∧
      v.sched = s.sched ∧ v.deck = s.deck))

/-- R35, R317, R320, R321: CREATE reads its block and makes the context ACTIVE with its tables zero, or refuses it; DESTROY
closes a context, and it is FREE once everything of it has ended; PAUSE and RESUME save it and let it go on. -/
def Obligations.ContextsAreAdministered : Prop :=
  (∀ s : State, adminRuns s 1 = true → 4 ≤ s.boot.phase → NMap.has s.ctxs s.regs.adminCtx = false → s.regs.adminDue = false →
    s.regs.adminBytes = none → s.regs.adminAsked = 0 → adminAddr s % 64 = 0 → areaOk s (adminAddr s) 768 false = true →
    Settles .create s (fun v => v.regs.adminAsked = 1 ∧ NMap.find? v.kid.accs s.kid.nextAcc =
      some (accRead s .admin 0 (gAddr (deviceId s) (adminAddr s)) 768) ∧ v.ctxs = s.ctxs ∧ v.deck = s.deck)) ∧
  (∀ (s : State) (b : List Byte), adminRuns s 1 = true → 4 ≤ s.boot.phase → NMap.has s.ctxs s.regs.adminCtx = false →
    s.regs.adminDue = false → s.regs.adminBytes = some b → Settles .create s (fun v =>
      (blockOk b = false → v.regs.adminStatus = 0x10 ∧ v.ctxs = s.ctxs) ∧
      (blockOk b = true → blockPlaces s s.regs.adminCtx b = true → blockFits s b = true →
        v.regs.adminStatus = 0 ∧ NMap.find? v.ctxs s.regs.adminCtx = some (newCtx s b)) ∧
      v.regs.adminBusy = 0 ∧ EventSet s v evAdmin 0 ∧ v.deck = s.deck ∧ v.sched = s.sched)) ∧
  (∀ (s : State) (x : Ctx), adminRuns s 2 = true → NMap.find? s.ctxs s.regs.adminCtx = some x →
    (x.closing = false → Answers .destroy s (fun t => NMap.find? t.ctxs s.regs.adminCtx = some { x with closing := true } ∧
      t.sched = s.sched ∧ t.deck = s.deck)) ∧
    (x.closing = true → runningOf s s.regs.adminCtx = false → (∀ p ∈ s.sched.items, p.2.ctx ≠ s.regs.adminCtx) →
      x.streams = [] → x.halts = [] →
      (∀ q ∈ x.rings, q.2.written = q.2.consumed ∧ ∀ d ∈ q.2.descs, d.2.entrySent = true) →
      Settles .destroy s (fun v => NMap.find? v.ctxs s.regs.adminCtx = none ∧
        (∀ f ∈ v.sched.flows, f.2.ctx ≠ s.regs.adminCtx) ∧ v.regs.adminStatus = 0 ∧ v.regs.adminBusy = 0 ∧
        EventSet s v evAdmin 0 ∧ v.deck.mem = s.deck.mem))) ∧
  (∀ (s : State) (x : Ctx), adminRuns s 3 = true → NMap.find? s.ctxs s.regs.adminCtx = some x → s.regs.adminImage = [] →
    areaOk s (adminAddr s) (4096 * max 1 (rwGet s rwAdminLen)) true = true →
    (x.st = .active → x.draining = false → Answers .pause s (fun t =>
      CtxIs t s.regs.adminCtx (fun z => z.st = .paused ∧ z.saves = [] ∧ z.chains = x.chains ∧
        ∀ q ∈ z.rings, q.2.statusDirty = true) ∧ SchedKept s t)) ∧
    (x.st = .paused → pauseSettled s s.regs.adminCtx x = true →
      rwGet s rwAdminLen < (saveBytes s s.regs.adminCtx x).length / 4096 → Settles .pause s (fun v =>
        v.regs.adminStatus = 0x11 ∧ v.regs.imageLen = (saveBytes s s.regs.adminCtx x).length / 4096 ∧
        v.ctxs = s.ctxs ∧ v.deck = s.deck)) ∧
    (x.st = .paused → pauseSettled s s.regs.adminCtx x = true →
      (saveBytes s s.regs.adminCtx x).length / 4096 ≤ rwGet s rwAdminLen →
      isDeck s (gAddr (deviceId s) (adminAddr s)) = true → Settles .pause s (fun v => v.regs.adminStatus = 0 ∧
        CtxIs v s.regs.adminCtx (fun z => z.st = .paused ∧ ∃ sv, z.saves = x.saves ++ [sv] ∧
          sv.bytes = saveBytes s s.regs.adminCtx x ∧ sv.key = saveKey s x ∧
          sv.items = s.sched.items.filter (fun p => p.2.ctx == s.regs.adminCtx) ∧
          sv.flows = s.sched.flows.filter (fun f => f.2.ctx == s.regs.adminCtx) ∧ sv.queues = x.queues ∧
          sv.streams = x.streams ∧ sv.sets = x.sets) ∧
        (s.heal.rebuilds = [] → gLocal (gAddr (deviceId s) (adminAddr s)) + (saveBytes s s.regs.adminCtx x).length ≤ 2 ^ 40 →
          deckRead v (gLocal (gAddr (deviceId s) (adminAddr s))) (saveBytes s s.regs.adminCtx x).length =
            saveBytes s s.regs.adminCtx x) ∧
        v.sched = s.sched))) ∧
  (∀ (s : State) (x : Ctx), adminRuns s 4 = true → NMap.find? s.ctxs s.regs.adminCtx = some x → x.st = .paused →
    imageBytes x ≠ 0 → s.regs.adminDue = false → s.regs.adminImage = [] → areaOk s (adminAddr s) (imageBytes x) true = true →
    isDeck s (gAddr (deviceId s) (adminAddr s)) = true →
    Settles .resume s (fun v =>
      (∀ sv, saveOf x (deckRead s (gLocal (gAddr (deviceId s) (adminAddr s))) (imageBytes x)) = some sv →
        saveKey s x = sv.key → v.regs.adminStatus = 0 ∧
          CtxIs v s.regs.adminCtx (fun z => z.st = .active ∧ z.saves = [] ∧ z.queues = x.queues) ∧
          (∀ k it cur, NMap.find? sv.items k = some it → getItem s k = some cur →
            getItem v k = some { it with gate := it.gate || cur.gate, hit := it.hit || cur.hit, waiting := cur.waiting,
                                         landed := cur.landed })) ∧
      (∀ sv, saveOf x (deckRead s (gLocal (gAddr (deviceId s) (adminAddr s))) (imageBytes x)) = some sv →
        saveKey s x ≠ sv.key → v.regs.adminStatus = 0x10 ∧ v.ctxs = s.ctxs ∧ v.sched = s.sched) ∧
      (saveOf x (deckRead s (gLocal (gAddr (deviceId s) (adminAddr s))) (imageBytes x)) = none →
        v.regs.adminStatus = 0x10 ∧ v.ctxs = s.ctxs ∧ v.sched = s.sched) ∧
      v.regs.adminBusy = 0 ∧ EventSet s v evAdmin 0)) ∧
  (∀ (s : State) (x : Ctx), adminRuns s 4 = true → NMap.find? s.ctxs s.regs.adminCtx = some x →
    x.st = .active ∨ x.saves = [] → Answers .resume s (fun t => t.regs.adminStatus = 0x10 ∧ t.regs.adminBusy = 0 ∧
      t.ctxs = s.ctxs ∧ t.sched = s.sched ∧ t.deck = s.deck))

/-! ### Work items -/

namespace Sys2Proof.Machine

/-- No parity failure marks the run of the item (18 R388). -/
abbrev Unflagged (s : State) (id : Nat) : Prop := (pierOf s id).elim false (fun p => (getPier s p).flagged) = false

/-- The item as it now is. -/
def ItemIs (v : State) (id : Nat) (P : Item → Prop) : Prop := ∃ b, getItem v id = some b ∧ P b

/-- The item has committed, and its Pier is free. -/
def Committed (s v : State) (id : Nat) (P : Item → Prop) : Prop :=
  ItemIs v id (fun b => b.st = .committed ∧ b.bufs = [] ∧ b.landed = [] ∧ P b) ∧
  ∀ p, pierOf s id = some p → (getPier v p).item = none

/-- Every block of the Deck is good and filled. -/
abbrev Sound (s : State) : Prop := s.deck.bad = [] ∧ s.deck.unfilled = []

/-- An address of the Deck that one of these writes stores to, or whose mirror it stores to (17 R369). -/
def StoresTo (s : State) (ws : List (Nat × List Byte)) (a : Nat) : Prop :=
  ∃ w ∈ ws, isDeck s w.1 = true ∧ ((gLocal w.1 ≤ a ∧ a < gLocal w.1 + w.2.length) ∨
    (partnerOf (gLocal w.1) ≤ a ∧ a < partnerOf (gLocal w.1) + w.2.length))

/-- Of a sound Deck, no byte outside what these writes store to reads differently. -/
def OnlyStores (s v : State) (ws : List (Nat × List Byte)) : Prop :=
  Sound s → ∀ a, ¬ StoresTo s ws a → deckByteAt v a = deckByteAt s a

/-- An operator's dst bytes cut over the segments of its tensor, and its other writes. -/
def resWrites (i : OpIn) (r : OpRes) : List (Nat × List Byte) :=
  (if refKind (opRef i.op 3) = 1 then i.view.elim [] (fun v => zipSegments v.segments (v.spread r.out)) else []) ++ r.writes

/-- The result passes its checks, fits its chain buffer, and the item's budget affords its charge (04 R64, 05 R84). -/
abbrev Affordable (s : State) (it : Item) (o : List Byte) (r : OpRes) : Prop :=
  r.bad = false ∧ r.noop = false ∧ it.charge + r.cost ≤ it.budget ∧
  (refKind (opRef o 3) = 2 → r.out.length ≤ chainBufSize (itemImage s it) (refIndex (opRef o 3)))

/-- The operator ran: the item goes on to its next operator with the charge, the skip runs, the counters, and the chain
buffer or accumulators that the result gives; the runs of a tensor or of the accumulators are kept for later readers. -/
def RanTo (v : State) (id : Nat) (it : Item) (i : OpIn) (r : OpRes) : Prop :=
  ItemIs v id (fun b => b.st = it.st ∧ b.op = it.op + 1 ∧ b.charge = it.charge + r.cost ∧ b.runs = r.runs ∧
    b.outRuns = (if opOut i.op then r.runs else it.outRuns) ∧ b.counters = addCounters it.counters r.counters ∧
    b.accum = r.accum.getD it.accum ∧
    b.bufs = (if refKind (opRef i.op 3) = 2 then NMap.set it.bufs (refIndex (opRef i.op 3)) ⟨r.out, r.runs⟩
      else if refKind (opRef i.op 3) = 4 ∨ i.view.isSome = true then
        NMap.set it.bufs (runsKey (opRef i.op 3)) ⟨[], r.runs⟩
      else it.bufs))

/-- The operators that give a result at once: command, opcode and result. -/
def plainOps (id : Nat) : List (Instr × Nat × (State → Ctx → Item → OpIn → OpRes)) := [
  (.project id, 0x08, fun _ _ _ i => projectOp i), (.filter id, 0x09, fun _ _ _ i => filterOp i),
  (.hash id, 0x0A, fun _ _ _ i => hashOp i), (.bucket id, 0x0B, fun _ _ _ i => bucketOp i),
  (.cross id, 0x0C, fun _ _ _ i => crossOp i), (.norm id, 0x0D, fun _ _ _ i => normOp i),
  (.clip id, 0x0E, fun _ _ _ i => clipOp i), (.partition id, 0x10, fun _ _ _ i => partitionOp i),
  (.joinProbe id, 0x12, fun _ _ _ i => probeOp i), (.groupAgg id, 0x13, fun _ _ _ i => groupOp i),
  (.sort id, 0x18, fun s x it i => withWork i x (sortOp (itemImage s it) i)),
  (.unique id, 0x19, fun s x it i => withWork i x (uniqueOp (itemImage s it) i)),
  (.topk id, 0x1A, fun _ _ _ i => topkOp i), (.selMerge id, 0x1B, fun _ _ _ i => selMergeOp i),
  (.countMatch id, 0x1C, fun s x _ i => countMatchOp s x i), (.convert id, 0x28, fun _ _ _ i => convertOp i),
  (.quant id, 0x29, fun _ _ _ i => quantOp i), (.storeFused id, 0x31, fun _ _ _ i => storeOp i),
  (.compress id, 0x38, fun _ _ _ i => compressOp i), (.decompress id, 0x39, fun _ x _ i => decompressOp x i),
  (.digest id, 0x3A, fun _ _ _ i => digestOp i)]

end Sys2Proof.Machine

open Sys2Proof Sys2Proof.Machine

/-- R26, R53 to R55, R57, R58, R60 to R67, R71 to R73, R93, R94: the head of the ready queue runs on a free Pier from its
first operator; a clean run commits and passes its outcome on; an item is released in its turn, and the last one decides
its descriptor's status; what passes its budget or its timeout commits as a skip; gates, waits and signals let a chain go
on; and a context's slice ends and begins. -/
def Obligations.SchedulerRuns : Prop :=
  (∀ (s : State) (pier id : Nat) (it : Item), pier < 256 → readyHead s = some (id, it) → getItem s id = some it →
    running s = true → pierFree s pier = true → pierSuits s it.failedPiers pier = true → streamOutranks s it.prio = false →
    Settles (.dispatch pier) s (fun v => (getPier v pier).item = some id ∧ ItemIs v id (fun b =>
      b.st = .running ∧ b.op = 0 ∧ b.charge = 0 ∧ b.bufs = [] ∧ b.accum = [] ∧ b.seq = it.seq ∧ b.idx = it.idx))) ∧
  (∀ (s : State) (id : Nat) (it : Item) (d : Desc), getItem s id = some it → runEnded s id it = true → running s = true →
    (outputRuns s it).length ≤ 64 → it.skip = none → it.cacheFill = [] → it.logs = [] → s.tables.joinPending = [] →
    getDesc s it.ctx it.ring it.idx = some d → Settles (.itemCommit id) s (fun v => Committed s v id (fun b => b.skip = none) ∧
      ∃ d', getDesc v it.ctx it.ring it.idx = some d' ∧ d'.committed = d.committed + 1 ∧
        NMap.find? d'.released it.index = some { skipped := false, runs := outputRuns s it })) ∧
  (∀ (s : State) (flow id : Nat) (f : Flow) (it : Item), NMap.find? s.sched.flows flow = some f →
    List.find? (fun p => p.2.flow == some flow && p.2.seq == f.release) s.sched.items = some (id, it) → it.st = .committed →
    s.heal.outOfService = false → s.power.off = false → Settles (.release flow) s (fun v => getItem v id = none ∧
      (∃ g, NMap.find? v.sched.flows flow = some g ∧ g.release = (f.release + 1) % 2 ^ 32 ∧ g.next = f.next) ∧
      ∀ d, getDesc s it.ctx it.ring it.idx = some d → ∃ d', getDesc v it.ctx it.ring it.idx = some d' ∧
        d'.itemsDone = d.itemsDone + 1 ∧ (d.itemsDone + 1 ≠ d.n → d'.status = d.status) ∧
        (d.itemsDone + 1 = d.n → d.status = none → d'.status = some (finalStatus d)))) ∧
  (∀ (s : State) (id : Nat) (it : Item), getItem s id = some it → it.st = .running → it.overBudget = true →
    Settles (.itemBudgetSkip id) s (fun v => Committed s v id (fun b => b.skip = some .own) ∧
      ((getDesc s it.ctx it.ring it.idx).isSome = true → bitAt (sqGet v evSched).1 3 = true))) ∧
  (∀ (s : State) (id : Nat) (it : Item), getItem s id = some it → timeoutDue s id it = true →
    Settles (.outsideTimeout id) s (fun v => ItemIs v id (fun b => b.st = .committed ∧ b.skip = some .timeout) ∧
      bitAt (sqGet v evSched).1 4 = true)) ∧
  (∀ (s : State) (id r : Nat) (it : Item), getItem s id = some it → it.recordOver = some r → it.st = .running →
    Answers (.recordBudgetQuarantine id) s (fun t =>
      getItem t id = some { it with recordOver := none, lateRecords := it.lateRecords ++ [r] } ∧ t.deck = s.deck ∧
      t.ctxs = s.ctxs ∧ t.regs = s.regs)) ∧
  (∀ (s : State) (c : Nat) (x : Ctx), NMap.find? s.ctxs c = some x → (x.draining = true ∨
      (x.resident = true ∧ x.pinned = false ∧ scratchShort s = true ∧ x.sliceStart + x.slice ≤ s.clock.ticks)) →
    (runningOf s c = true → Answers (.sliceBoundary c) s (fun t => CtxIs t c (fun z => z = { x with draining := true }) ∧
      t.regs = s.regs ∧ t.deck = s.deck ∧ t.sched = s.sched)) ∧
    (runningOf s c = false → Settles (.sliceBoundary c) s (fun v => CtxIs v c (fun z => z.draining = false ∧ z.resident = false ∧
      z.chains = x.chains ∧ ∀ p < 256, memTake zeroByte (NMap.getD z.swap p []) 0 x.reservation =
        memTake zeroByte s.deck.pierMem (reservationBase p) x.reservation) ∧
      v.sched.lastOut = c ∧ v.sched.items = s.sched.items ∧ v.deck = s.deck))) ∧
  (∀ (s : State) (c : Nat) (x : Ctx), nextInTurn s = some (c, x) → residentBytes s + x.reservation ≤ 2 ^ 20 → running s = true →
    Settles .swapIn s (fun v => CtxIs v c (fun z => z.resident = true ∧ z.sliceStart = s.clock.ticks) ∧
      (∀ p < 256, memTake zeroByte v.deck.pierMem (reservationBase p) x.reservation =
        memTake zeroByte (NMap.getD x.swap p []) 0 x.reservation) ∧
      v.sched = s.sched ∧ v.deck.mem = s.deck.mem)) ∧
  (∀ s : State, (slicing s = true → s.sched.slicing = false → EventSet s (noteSlicing s) evSched 5) ∧
    (slicing s = false ∨ s.sched.slicing = true → (noteSlicing s).regs = s.regs) ∧ (noteSlicing s).sched.slicing = slicing s ∧
    (settle s).sched.slicing = slicing (settle s)) ∧
  (∀ (s : State) (id : Nat) (it : Item), getItem s id = some it → it.st = .pending → it.gate = false →
    opCode (chainOp (itemImage s it) 0) = 0x49 → leAt (chainOp (itemImage s it) 0) 24 1 = 1 →
    leAt (chainOp (itemImage s it) 0) 32 8 ≤ s.clock.count →
    Settles (.launchGateOpen id) s (fun v => getItem v id = some { it with gate := true })) ∧
  (∀ (s : State) (id : Nat) (it : Item), getItem s id = some it → it.hit = true →
    (it.st = .pending → Settles (.cellWaitRelease id) s (fun v =>
      getItem v id = some { it with gate := true, hit := false } ∧ v.deck = s.deck)) ∧
    (it.st = .running → opCode (itemOp s it) = 0x49 → Settles (.cellWaitRelease id) s (fun v =>
      getItem v id = some { it with hit := false, waitSince := none, op := it.op + 1, charge := it.charge + 8, lookups := [] } ∧
      v.deck = s.deck))) ∧
  (∀ (s : State) (id : Nat) (it : Item), getItem s id = some it → opEnabled s it 0x49 = true →
    it.charge + 8 ≤ it.budget → opCount (itemOp s it) ≠ 0 → (it.op = 0 ∨
      (leAt (itemOp s it) 24 1 = 1 ∧ leAt (itemOp s it) 32 8 ≤ s.clock.count) ∨
      (leAt (itemOp s it) 24 1 = 2 ∧ it.waitSince = none ∧ leAt (itemOp s it) 32 8 ≤ cellValue s (leAt (itemOp s it) 40 8))) →
    Settles (.wait id) s (fun v => getItem v id = some { it with
        op := it.op + 1, charge := it.charge + 8, waitSince := none, lookups := [] } ∧ v.deck = s.deck ∧ v.ctxs = s.ctxs)) ∧
  (∀ (s : State) (id : Nat) (it : Item), getItem s id = some it → opEnabled s it 0x49 = true → opCount (itemOp s it) = 0 →
    it.charge + 4 ≤ it.budget → Settles (.wait id) s (fun v => getItem v id = some { it with
        op := it.op + 1, charge := it.charge + 4, waitSince := none, lookups := [] } ∧ v.deck = s.deck ∧ v.ctxs = s.ctxs)) ∧
  (∀ (s : State) (id a : Nat) (it : Item), getItem s id = some it → opEnabled s it 0x48 = true → it.waiting = 0 →
    it.charge + 16 ≤ it.budget → opCount (itemOp s it) ≠ 0 → it.signals.contains it.op = false → Unflagged s id →
    a = leAt (itemOp s it) 40 8 → isDeck s a = true → a % 8 = 0 → gLocal a + 8 ≤ 2 ^ 41 → Sound s → s.heal.rebuilds = [] →
    Settles (.signal id) s (fun v => ItemIs v id (fun b => b.op = it.op + 1 ∧ b.charge = it.charge + 16 ∧
        b.signals = it.signals ++ [it.op] ∧ b.waiting = 0) ∧
      cellValue v a = cellNew (if leAt (itemOp s it) 24 1 = 1 then 1 else 3) (cellValue s a) (leAt (itemOp s it) 32 8) 0 % 2 ^ 64 ∧
      OnlyStores s v [(a, zeros 8)]))

/-- 05 R83 to R91 with 07, 08, 11 and 13: a plain operator whose operands are here, whose result is sound and whose charge
the budget affords gives its result: bytes for dst, a charge, skip runs and counters.  A result for a chain buffer leaves
the Deck, the contexts and every other item alone; one for a tensor writes the tensor's own bytes and its work area's, and
no other byte of the Deck. -/
def Obligations.OperatorsGiveTheirResults : Prop :=
  ∀ (s t : State) (id code : Nat) (c : Instr) (f : State → Ctx → Item → OpIn → OpRes) (x : Ctx) (it : Item) (i : OpIn) (r : OpRes),
    (c, code, f) ∈ plainOps id → takeOp s id code = .go t x it i → r = f t x it i → Affordable t it i.op r →
    Settles c s (fun v => RanTo v id it i r ∧ v.clock = s.clock ∧ OnlyStores s v (resWrites i r) ∧
      (Sound s → ∀ j, j ≠ id → getItem v j = getItem s j) ∧
      (resWrites i r = [] → v.deck = s.deck ∧ v.ctxs = s.ctxs ∧ v.kid = s.kid ∧ v.tables = s.tables ∧
        (r.events = [] → r.bumps = [] → v.regs = t.regs)) ∧
      (∀ a bs, resWrites i r = [(a, bs)] → isDeck s a = true → Sound s →
        gLocal a + bs.length ≤ 2 ^ 40 ∨ (2 ^ 40 ≤ gLocal a ∧ gLocal a + bs.length ≤ 2 ^ 41) →
        ∀ k < bs.length, deckByteAt v (gLocal a + k) = bs.getD k 0#8))

/-- R99 to R114, R144, R237 to R242, R253 to R257, R356 to R358: PUT and GET move their bytes, ATOMIC hands its entries over
and then writes the answers, COPY_LAYOUT and JOIN_BUILD give their results, a decode gives its rows, with quarantined
records as skipped positions, and PARAPET_UPDATE hands its updates to the Parapet, which applies them. -/
def Obligations.TransfersDecodesAndUpdates : Prop :=
  (∀ (s t : State) (id : Nat) (x : Ctx) (it : Item) (i : OpIn) (m : Move), takeOp s id 0x40 = .go t x it i →
    moveOf t x it i = some m → (i.src0.gone = true ∨ i.count ≤ i.src0.bytes.length) → it.charge + moveCost i ≤ it.budget →
    Settles (.put id) s (fun v => ItemIs v id (fun b => b.op = it.op + 1 ∧ b.charge = it.charge + moveCost i ∧ b.runs = [] ∧
        b.bufs = it.bufs ∧ b.st = it.st) ∧
      OnlyStores s v (transferWrites m.dst m.zero m.runs m.data 0 m.count) ∧
      (Sound s → ∀ w ∈ transferWrites m.dst m.zero m.runs m.data 0 m.count, w.2 ≠ [] → isDeck s w.1 = false →
        ∃ n a, NMap.find? v.kid.accs n = some a ∧ a.owner = .itemPut id ∧ a.write = true ∧ a.addr = w.1 ∧ a.data = w.2))) ∧
  (∀ (s t : State) (id : Nat) (x : Ctx) (it : Item) (i : OpIn), takeOp s id 0x41 = .go t x it i →
    (∀ w, sourceView s x it (opRef i.op 0) = some w → viewMissing s it.asked w = []) → i.count ≤ i.src0.bytes.length →
    Affordable t it i.op (getRes t x it i) → Settles (.get id) s (fun v => RanTo v id it i (getRes t x it i) ∧
      OnlyStores s v (resWrites i (getRes t x it i)))) ∧
  (∀ (s t : State) (id : Nat) (x : Ctx) (it : Item) (i : OpIn), takeOp s id 0x42 = .go t x it i →
    (it.handed = false → (i.src0.gone = true ∨ 32 * i.count ≤ i.src0.bytes.length) →
      (∀ e ∈ atomicEntries i, atomicBad t x e.2 = false) → it.charge + atomicCost i ≤ it.budget → it.waiting = 0 →
      Unflagged t id → Settles (.atomic id) s (fun v =>
        ItemIs v id (fun b => b.handed = true ∧ b.op = it.op ∧ b.charge = it.charge ∧ b.bufs = it.bufs) ∧
        ∀ p e, atomicEntries i = [(p, e)] → isDeck s (leAt e 0 8) = true → gLocal (leAt e 0 8) + 8 ≤ 2 ^ 41 → Sound s →
          s.heal.rebuilds = [] → cellValue v (leAt e 0 8) =
            cellNew (leAt i.op 24 1) (cellValue s (leAt e 0 8)) (leAt e 8 8) (leAt e 16 8) % 2 ^ 64 ∧
          ItemIs v id (fun b => b.answers = [(p, cellValue s (leAt e 0 8))]))) ∧
    (∀ r : OpRes, r = { out := (if i.src0.gone then [] else (List.range i.count).filter i.keep).flatMap (fun p =>
        natLE (NMap.getD it.answers p 0) 8), cost := atomicCost i } → it.handed = true → it.waiting = 0 →
      Affordable t it i.op r → Settles (.atomic id) s (fun v => RanTo v id it i r ∧ OnlyStores s v (resWrites i r)))) ∧
  (∀ (s t : State) (id : Nat) (x : Ctx) (it : Item) (i : OpIn) (r : OpRes), takeOp s id 0x30 = .go t x it i →
    copyNeeds t it i = [] → r = copyOp (sourceView t x it (opRef i.op 0)) (oldCodes t it i) i → Affordable t it i.op r →
    Settles (.copyLayout id) s (fun v => RanTo v id it i r ∧ OnlyStores s v (resWrites i r))) ∧
  (∀ (s t : State) (id : Nat) (x : Ctx) (it : Item) (i : OpIn), takeOp s id 0x11 = .go t x it i →
    Affordable t it i.op (joinBuildRes it i) → Settles (.joinBuild id) s (fun v => RanTo v id it i (joinBuildRes it i) ∧
      OnlyStores s v (resWrites i (joinBuildRes it i)))) ∧
  (∀ (s : State) (id code : Nat) (irc : Bool) (c : Instr) (it : Item) (x : Ctx) (seg prog : Operand) (p : Program) (r : DecAcc)
      (o out : List Byte) (at_ : Nat),
    (c = .decodeAvro id ∧ irc = false ∧ code = 0x01 ∨ c = .decodeIrc id ∧ irc = true ∧ code = 0x02) →
    getItem s id = some it → itemCtx s it = some x → opEnabled s it code = true → readsLanded s id = true → o = itemOp s it →
    opCount o ≠ 0 → wantsDigest s it = false → readOperand s x it o 0 = (seg, []) → readOperand s x it o 1 = (prog, []) →
    segmentBad seg.bytes (opCount o) (((tensorView x (opRef o 2) it.index).map (·.span)).getD 0) irc = false →
    bitAt (leAt o 25 1) 0 = false → readProgram irc (leAt o 32 8) prog.bytes = some p →
    at_ = ((tensorView x (opRef o 2) it.index).map (·.lo)).getD 0 + leAt seg.bytes 0 8 → isDeck s at_ = true →
    r = decodeSegment irc (decodeAsk s x it o seg.bytes) p (extentBytes s it.landed at_ (leAt seg.bytes 8 4)) →
    r.overAt = none → r.overBudget = false → (decodedRuns (opCount o) r).length ≤ 64 → out = decodeOut p (opMode o == 1) r.rows → it.charge + r.charge ≤ it.budget →
    (refKind (opRef o 3) = 2 → out.length ≤ chainBufSize (itemImage s it) (refIndex (opRef o 3))) →
    Settles c s (fun v => ItemIs v id (fun b => b.op = it.op + 1 ∧ b.charge = it.charge + r.charge ∧
      (opOut o = true → b.outRuns = decodedRuns (opCount o) r) ∧
      b.cacheFill = it.cacheFill ++ (if bitAt (leAt o 25 1) 1 = true then [cacheBytes
        (decodeKey (decodeAsk s x it o seg.bytes) o code seg.bytes prog.bytes) (decodedRuns (opCount o) r) r.charge out] else []) ∧
      b.quarantined = it.quarantined + (decodedRuns (opCount o) r).foldl (fun a q => a + q.2) 0 ∧
      b.logs = it.logs ++ r.quars.map (quarEntry s it code (leAt seg.bytes 16 8) (leAt seg.bytes 24 8)) ∧
      (refKind (opRef o 3) = 2 → (NMap.find? b.bufs (refIndex (opRef o 3))).map (·.bytes) = some out)))) ∧
  (∀ (s t : State) (id : Nat) (x : Ctx) (it : Item) (i : OpIn) (k : ParaSet), takeOp s id 0x1D = .go t x it i →
    NMap.find? x.sets (leAt i.op 24 1) = some k → applyingOf s k.parapet id = none →
    (leAt i.op 26 1 = 4 ∨ i.src0.gone = true ∨ i.count * paraKeyBytes i.op ≤ i.src0.bytes.length) → it.waiting = 0 →
    Unflagged t id → it.charge + paraCost k (updatesOf i) (paraUnits i (updatesOf i).length) ≤ it.budget →
    Settles (.parapetUpdate id) s (fun v => applyingOf v k.parapet id = some (updatesOf i) ∧
      ItemIs v id (fun b => b.handed = true ∧ b.op = it.op ∧
        b.charge = it.charge + paraCost k (updatesOf i) (paraUnits i (updatesOf i).length)) ∧
      (∀ b, bankEntries v k.parapet b = bankEntries s k.parapet b) ∧ v.deck = s.deck ∧ v.ctxs = s.ctxs)) ∧
  (∀ (s : State) (id : Nat) (x : Ctx) (it : Item) (k : ParaSet) (us : List (Nat × List Byte)), getItem s id = some it →
    itemCtx s it = some x → NMap.find? x.sets (leAt (itemOp s it) 24 1) = some k → applyingOf s k.parapet id = some us →
    it.st = .running → opCode (itemOp s it) = 0x1D → earlierApplied s it (leAt (itemOp s it) 24 1) = true →
    s.power.off = false → Settles (.parapetApply id) s (fun v => applyingOf v k.parapet id = none ∧
      ItemIs v id (fun b => b.op = it.op + 1 ∧ b.charge = it.charge ∧ b.st = .running ∧ b.runs = []) ∧
      (∀ b, bankEntries v k.parapet b = bankEntries (applyAll k us s).1 k.parapet b) ∧ Counted s v ctUpdates us.length ∧
      (refKind (opRef (itemOp s it) 3) ≠ 1 → v.deck = s.deck ∧ v.ctxs = s.ctxs)))

namespace Sys2Proof.Machine

/-- The stream in a slot. -/
def StreamIs (v : State) (c k : Nat) (t : Stream) : Prop := (NMap.find? v.ctxs c).bind (fun z => NMap.find? z.streams k) = some t

/-- A Pier takes up block `n` of a stream (12 R268). -/
structure BlockStarts (s : State) (c k pier n : Nat) (x : Ctx) (t : Stream) (src dst : TView) : Prop where
  unit : pier < 256
  isCtx : NMap.find? s.ctxs c = some x
  isStream : NMap.find? x.streams k = some t
  isSrc : streamView x t.desc 0 = some src
  isDst : streamView x t.desc 4 = some dst
  idle : ∀ b ∈ t.blocks, b.pier = pier → b.done = true
  next : streamNext s c x t = some n
  runs : running s = true
  free : pierFree s pier = true
  fresh : ∀ b ∈ t.blocks, b.index ≠ n
  suits : pierSuits s [] pier = true
  first : streamOutranks s (leAt t.desc 15 1) = false
  head : ∀ h, readyHead s = some h → h.2.prio ≤ leAt t.desc 15 1

/-- An extent of the Deck, the entry of a version's group and the version's descriptor lie apart, below the stripes' upper
half. -/
def Apart (s : State) (ver : Nat) (t : TDesc) (g a n : Nat) : Prop :=
  ∃ y, getVer s ver = some y ∧ t = tdesc s y.desc ∧ y.desc + 256 ≤ 2 ^ 40 ∧ t.dir + 64 * g + 64 ≤ 2 ^ 40 ∧
    intersects (a, a + n) (t.dir + 64 * g, t.dir + 64 * g + 64) = false ∧
    intersects (a, a + n) (y.desc, y.desc + 256) = false ∧
    intersects (t.dir + 64 * g, t.dir + 64 * g + 64) (y.desc, y.desc + 256) = false

end Sys2Proof.Machine

open Sys2Proof Sys2Proof.Machine

/-- R182 to R193, R207 to R219: a gather whose rows are all here gives what R183 to R186 make of them; a SCATTER_MERGE sends
its records and counts; a ROW_APPLY places its rows for the copy that follows its clean run, which puts each row into its
group, marks its key, and commits the item. -/
def Obligations.EmbeddingsAreReadAndUpdated : Prop :=
  (∀ (s t : State) (id code : Nat) (pooled hw : Bool) (c : Instr) (x : Ctx) (it : Item) (i : OpIn) (part : LookPart) (set : Nat)
      (rs : List RowAt),
    (c = .gather id ∧ pooled = false ∧ code = 0x20 ∨ c = .gatherPool id ∧ pooled = true ∧ code = 0x21) →
    takeOp s id code = .go t x it i → leAt i.op 26 2 ≠ 0 → (pooled = true → leAt i.op 28 4 ≠ 0) →
    (pooled = true ∨ leAt i.op 25 1 ≠ 1) → i.src0.gone = false → parseLookup i.src0.bytes i.index = some (part, hw) →
    handleBase t x (refIndex (opRef i.op 1)) = some set → gatherWrong t i pooled (itemPins t it) set part hw = false →
    rs = ((List.range part.distinct.length).zip part.distinct).map (fun q =>
      entryRow t x it (itemPins t it) set false q.1 q.2) →
    rowsFirst (keepLookups t id it (itemPins t it) set part.distinct rs) id rs = none →
    (∀ v g, RowAt.lost v g ∉ rs) → Affordable t it i.op (gatherRes i pooled part rs) →
    Settles c s (fun v => RanTo v id it i (gatherRes i pooled part rs))) ∧
  (∀ (s t : State) (id : Nat) (hw : Bool) (x : Ctx) (it : Item) (i : OpIn) (part : LookPart) (set : Nat) (rs : List RowAt),
    takeOp s id 0x20 = .go t x it i → leAt i.op 26 2 ≠ 0 → leAt i.op 25 1 = 1 → i.src0.gone = false →
    parseLookup i.src0.bytes i.index = some (part, hw) → handleBase t x (refIndex (opRef i.op 1)) = some set →
    gatherWrong t i false (itemPins t it) set part hw = false →
    rs = ((List.range part.distinct.length).zip part.distinct).map (fun q =>
      entryRow t x it (itemPins t it) set true q.1 q.2) →
    rowsFirst (keepLookups t id it (itemPins t it) set part.distinct rs) id rs = none →
    it.charge + (ceilDiv part.distinct.length 16 + (if i.src0.kind = 1 ∨ i.src0.kind = 3 then
      unitsOf (16 * part.distinct.length) + unitsOf (8 * part.positions.length) + unitsOf (4 * part.weights.length) else 0) +
      (rs.map (fun r => match r with | .here _ _ _ _ _ _ true => rowUnits r | _ => 0)).sum) ≤ it.budget →
    refKind (opRef i.op 3) = 0 → Settles (.gather id) s (fun v => ItemIs v id (fun b => b.op = it.op + 1 ∧ b.bufs = it.bufs) ∧
      v.deck = s.deck ∧ CtxIs v it.ctx (fun z => ∀ e ∈ z.stage, e ∈ x.stage ∨
        ∃ w g td de row bs, RowAt.here w g td de row bs true ∈ rs ∧ e.table = td.tableId ∧ e.version = td.version ∧
          e.row = row ∧ e.bytes = bs))) ∧
  (∀ (s t : State) (id : Nat) (x : Ctx) (it : Item) (i : OpIn) (m : MergeQueue) (base : Nat) (part : LookPart) (hw : Bool),
    takeOp s id 0x22 = .go t x it i → leAt i.op 28 2 ≠ 0 → leAt i.op 36 4 ≠ 0 →
    NMap.find? x.queues (leAt i.op 30 2) = some m → handleBase t x (refIndex (opRef i.op 1)) = some base →
    i.src0.gone = false → parseLookup i.src0.bytes (i.index / 2 ^ bitsAt (leAt i.op 25 1) 0 3) = some (part, hw) →
    scatterWrong i m part hw = false → Affordable t it i.op (scatterWork t i m base part).2 →
    refKind (opRef i.op 3) = 0 → Settles (.scatterMerge id) s (fun v => RanTo v id it i (scatterWork t i m base part).2 ∧
      v.deck = s.deck ∧ ∀ r ∈ (scatterWork t i m base part).1, CtxIs v it.ctx (fun z =>
        r.seq ∈ NMap.getD z.sentData (sentKey (leAt i.op 40 4) r.queue r.owner) []))) ∧
  (∀ (s t u : State) (id set : Nat) (x : Ctx) (it : Item) (i : OpIn) (m : MergeQueue) (d : Desc) (f : FinalStep)
      (rows : List (Nat × RowAt × Option RowAt)) (ws : List KeyWork),
    takeOp s id 0x23 = .go t x it i → NMap.find? x.queues (leAt i.op 24 2) = some m →
    getDesc t it.ctx it.ring it.idx = some d → handleBase t x (refIndex (opRef i.op 1)) = some set →
    NMap.find? m.finals (leAt i.op 28 4) = some f → ceilDiv (applyKeys d f).length (max 1 d.n) ≤ i.count →
    u = modDesc t it.ctx it.ring it.idx (fun y => { y with keys := some (applyKeys d f) }) →
    rows = applyRows u x it d m set (applyMine d f i.index) →
    rowsFirst u id (rows.flatMap (fun q => q.2.1 :: q.2.2.toList)) = none →
    (applyMine d f i.index).all (recordAcked x m f) = true → ws = applyWorks id it i m f rows →
    ws.flatMap (·.lost) = [] → Affordable t it i.op (worksRes ws) → refKind (opRef i.op 3) = 0 →
    Settles (.rowApply id) s (fun v => RanTo v id it i (worksRes ws) ∧ slotsOf v id = (ws.flatMap (·.slots)).filter (fun z => z.item == id) ∧
      v.deck = s.deck)) ∧
  (∀ (s : State) (id : Nat) (it : Item) (z : ApplySlot) (t : TDesc) (e : DEntry) (m : MergeQueue) (f : FinalStep) (x : Ctx) (a : Nat),
    getItem s id = some it → slotsOf s id = [z] → it.st = .running → chainDone s it = true → Unflagged s id → running s = true →
    it.waiting = 0 → z.kind = 0 → groupOf s z.ver (z.key / 4096) = some (t, e) → e.state = gResident → e.inherited = false →
    a = locAddr s e.loc + z.key % 4096 * e.stride → isDeck s a = true → Sound s → s.heal.rebuilds = [] →
    gLocal a + z.row.length ≤ 2 ^ 40 → (z.sat = 0 ∨ Apart s z.ver t (z.key / 4096) (gLocal a) z.row.length) →
    getQueue s z.ctx z.queue = some m → NMap.find? m.finals z.step = some f → m.toApply = z.step → z.key ∉ f.marked →
    (∃ q ∈ f.values, q.1 ≠ z.key ∧ q.1 ∉ f.marked) → NMap.find? s.ctxs it.ctx = some x → x.traceMask = 0 → it.logs = [] →
    it.cacheFill = [] → s.tables.joinPending = [] → it.skip = none → (outputRuns s it).length ≤ 64 →
    Settles (.applySlotCopy id) s (fun v => Committed s v id (fun b => b.skip = none) ∧ slotsOf v id = [] ∧
      Counted s v ctApplyRows 1 ∧ (∀ k < z.row.length, deckByteAt v (gLocal a + k) = z.row.getD k 0#8) ∧
      (z.sat ≠ 0 → ∃ e', groupOf v z.ver (z.key / 4096) = some (t, e') ∧ e'.sat = min (e.sat + z.sat) 0xFFFFFFFF) ∧
      ∃ m' f', getQueue v z.ctx z.queue = some m' ∧ NMap.find? m'.finals z.step = some f' ∧ f'.marked = f.marked ++ [z.key]))

/-- R194 to R200: once no row write is on its way a migration copies its group; at the flip one entry write names the new
place and state, and the migration counts; its old place is freed after the last read; one whose target fails is
abandoned.  A version that nothing pins is retired, and the command that replaced it ends. -/
def Obligations.TablesMove : Prop :=
  (∀ (s : State) (i n : Nat) (m : Migration), NMap.find? s.tables.migrations i = some m → m.phase = 1 → s.power.off = false →
    n = (groupOf s m.ver m.group).elim 0 (fun q => q.2.size) → writesTo s (locAddr s m.old) n = false →
    (isDeck s (locAddr s m.old) = true → Answers (.migrationDrainDone i) s (fun t =>
      NMap.find? t.tables.migrations i = some { m with phase := 2, since := s.clock.ticks } ∧ t.deck = s.deck ∧ t.kid = s.kid)) ∧
    (isDeck s (locAddr s m.old) = false → Settles (.migrationDrainDone i) s (fun v =>
      NMap.find? v.tables.migrations i = some { m with phase := 2, since := s.clock.ticks, waiting := (pieces (locAddr s m.old) n).length } ∧
      v.deck = s.deck))) ∧
  (∀ (s u : State) (i : Nat) (m : Migration) (t : TDesc) (e : DEntry), s.tables.migrations = [(i, m)] → m.phase = 2 → m.waiting = 0 →
    m.failed = false → m.held = [] → m.after = none → s.power.off = false → s.heal.rebuilds = [] → Sound s →
    groupOf s m.ver m.group = some (t, e) → isDeck s (locAddr s m.target) = true →
    u = deckWrite s (gLocal (locAddr s m.target)) (migrationBytes s m e.size) → groupOf u m.ver m.group = some (t, e) →
    holders u m.ver m.group = [m.ver] → t.dir + 64 * m.group + 64 ≤ 2 ^ 40 → Settles (.migrationFlip i) s (fun v =>
      deckRead v (t.dir + 64 * m.group) 64 = entryBytes { e with loc := m.target, state := gResident } ∧
      NMap.find? v.tables.migrations i = some { m with phase := 4, frame := [] } ∧
      Counted s v (if m.inward then ctMigIn else ctMigOut) 1 ∧
      ∀ c r k d, m.by_ = some (c, r, k) → getDesc s c r k = some d → d.status = none → Ended v c r k d)) ∧
  (∀ (s : State) (i n : Nat) (m : Migration), NMap.find? s.tables.migrations i = some m → m.phase = 4 →
    n = (groupOf s m.ver m.group).elim 0 (fun q => q.2.size) → readsFrom s (locAddr s m.old) n = false →
    Settles (.migrationFree i) s (fun v => NMap.find? v.tables.migrations i = none ∧
      ((∀ p ∈ s.tables.migrations, p.2.phase ≠ 0) → v.deck = s.deck ∧ v.kid = s.kid ∧
        (m.old / 2 ^ 62 ≠ 0 → ∀ y, getVer s m.ver = some y →
          getVer v m.ver = some { y with freeTail := y.freeTail ++ [(m.old, n)] })))) ∧
  (∀ (s : State) (i : Nat) (m : Migration) (t : TDesc) (e : DEntry), NMap.find? s.tables.migrations i = some m → m.phase = 2 →
    m.failed = true → groupOf s m.ver m.group = some (t, e) → Settles (.migrationAbandon i) s (fun v =>
      NMap.find? v.tables.migrations i = none ∧ bitAt (sqGet v evEmb).1 1 = true ∧
      (m.asked ≠ [] → Sound s → Counted s v ctMigAbandoned 1))) ∧
  (∀ (s : State) (w : Nat) (x : Version), getVer s w = some x → x.current = false → x.retired = false → pinned s w = false →
    Settles (.versionRetire w) s (fun v => EventSet s v evEmb 4 ∧
      (∀ c ∈ v.ctxs, ∀ e ∈ c.2.stage, ¬(e.table = x.tableId ∧ e.version = x.version)) ∧
      ((∃ p ∈ s.tables.migrations, p.2.ver = w ∧ p.2.phase ≠ 0) → getVer v w = some { x with retired := true }) ∧
      ((∀ p ∈ s.tables.migrations, ¬(p.2.ver = w ∧ p.2.phase ≠ 0)) →
        getVer v w = some { x with retired := true, by_ := none } ∧
        ∀ c r k d, x.by_ = some (c, r, k) → getDesc s c r k = some d → d.status = none → Ended v c r k d))) ∧
  (∀ (s : State) (w : Nat) (x : Version), getVer s w = some x → x.current = false → x.retired = true → pinned s w = false →
    Settles (.versionRetire w) s (fun v => v.deck = s.deck ∧
      ((∃ p ∈ s.tables.migrations, p.2.ver = w ∧ p.2.phase ≠ 0) → v = s) ∧
      ((∀ p ∈ s.tables.migrations, ¬(p.2.ver = w ∧ p.2.phase ≠ 0)) → getVer v w = some { x with by_ := none } ∧
        ∀ c r k d, x.by_ = some (c, r, k) → getDesc s c r k = some d → d.status = none → Ended v c r k d)))

/-- R262, R263, R267 to R270: the next block of a stream goes to a free Pier, which writes it where its source lies in the
Deck; one whose charge is over the item budget writes nothing and counts as quarantined (log entry 177); a block that is
written is delivered, and the last one ends the arm, whose completion frees the slot; a page fault halts a stream or a transfer
at a block, with an open halt. -/
def Obligations.StreamsMove : Prop :=
  (∀ (s : State) (c k pier n : Nat) (x : Ctx) (t : Stream) (src dst : TView), BlockStarts s c k pier n x t src dst →
    (blockCharge src dst t.desc n ≤ x.itemBudget → Settles (.streamBlockDispatch c k pier) s (fun v =>
      (∃ t', StreamIs v c k t' ∧ t'.next = max t.next (n + 1) ∧ t'.delivered = t.delivered ∧
        ∃ b ∈ t'.blocks, b.index = n ∧ b.pier = pier ∧
          b.written = (streamNoop src dst t.desc || (blockReads s src dst t.desc n).isEmpty)) ∧
      (streamNoop src dst t.desc = true → bitAt x.traceMask 5 = false → OnlyStores s v []) ∧
      (streamNoop src dst t.desc = false → blockReads s src dst t.desc n = [] → bitAt x.traceMask 5 = false →
        ∀ b : Block, b.index = n → b.landed = [] → OnlyStores s v (blockWrites s src dst t.desc b)))) ∧
    (x.itemBudget < blockCharge src dst t.desc n → ∀ y, getRing s c t.ring = some y →
      Settles (.streamBlockDispatch c k pier) s (fun v => (∃ t', StreamIs v c k t' ∧ t'.next = max t.next (n + 1) ∧
        t'.delivered = t.delivered ∧ ∃ b ∈ t'.blocks, b.index = n ∧ b.pier = pier ∧ b.written = true ∧ b.waiting = 0) ∧
        (∃ y', getRing v c t.ring = some y' ∧ y'.quarantined = (y.quarantined + 1) % 2 ^ 64) ∧ EventSet s v evSched 3 ∧
        (bitAt x.traceMask 5 = false → v.deck = s.deck)))) ∧
  (∀ (s : State) (c k : Nat) (x : Ctx) (t : Stream) (b : Block) (dst : TView), s.power.off = false →
    s.heal.outOfService = false → NMap.find? s.ctxs c = some x → NMap.find? x.streams k = some t → t.blocks = [b] →
    b.index = t.delivered → b.written = true → b.waiting = 0 → b.fault = [] → t.denied = false → t.ended = none →
    streamView x t.desc 4 = some dst → leAt t.desc 40 8 = 0 → t.cellBusy = false →
    (t.delivered + 1 ≠ streamBlocks dst t.desc → Settles (.streamBlockDelivered c k) s (fun v =>
      StreamIs v c k { t with blocks := [], delivered := t.delivered + 1 } ∧
      Counted s v ctBlocks 1 ∧ SchedKept s v ∧ (bitAt x.traceMask 6 = false → v.deck = s.deck))) ∧
    (∀ d, t.delivered + 1 = streamBlocks dst t.desc → t.halt = none → getDesc s c t.ring t.idx = some d → d.status = none →
      Settles (.streamBlockDelivered c k) s (fun v =>
        (∃ t', StreamIs v c k t' ∧ t'.ended = some (t.ring, t.idx) ∧ t'.blocks = [] ∧ t'.delivered = t.delivered + 1) ∧
        Ended v c t.ring t.idx d ∧ Counted s v ctBlocks 1))) ∧
  (∀ (s : State) (tag n c r j : Nat) (a : Acc) (x : Ctx), OpenAt s tag n a → a.write = true → a.owner = .completion c r j →
    NMap.find? s.ctxs c = some x → Settles (.writeDone tag 0) s (fun v => CtxIs v c (fun z =>
      z.streams = x.streams.filter (fun t => t.2.ended != some (r, j))))) ∧
  (∀ (s : State) (c k : Nat) (x : Ctx) (t : Stream) (b : Block) (d : Desc), s.power.off = false →
    s.heal.outOfService = false → NMap.find? s.ctxs c = some x → NMap.find? x.streams k = some t → t.blocks = [b] →
    b.fault ≠ [] → b.waiting = 0 → b.done = false → t.denied = false → leAt t.desc 40 8 = 0 → t.halt = none →
    t.armDone = false → getDesc s c t.ring t.idx = some d → d.status = none → Settles (.pageFault (.stream c k)) s (fun v =>
      ∃ n h, CtxIs v c (fun z => NMap.find? z.halts n = some h ∧
          ∃ t', NMap.find? z.streams k = some t' ∧ t'.halt = some n ∧ t'.armDone = true ∧ t'.next = b.index ∧ t'.blocks = []) ∧
        h.stream = true ∧ h.which = k ∧ h.block = b.index ∧ Counted s v ctHalts 1 ∧ bitAt (sqGet v evStream).1 0 = true ∧
        getDesc v c t.ring t.idx = some { d with status := some 0x22, detail := n, running := false })) ∧
  (∀ (s : State) (id k : Nat) (x : Ctx) (it : Item) (i : OpIn) (m : Move), s.power.off = false → s.heal.outOfService = false →
    getItem s id = some it → itemCtx s it = some x → it.st = .running → it.fault ≠ [] → it.waiting = 0 → it.halted = none →
    (∃ p, pierOf s id = some p ∧ (getPier s p).flagged = false) → haltedOp s x it = (k, i) → moveOf s x it i = some m →
    (firstFault m.src m.dst it.fault).1 = 0 → slotsOf s id = [] → it.skip = none → Settles (.pageFault (.item id)) s (fun v =>
      ∃ n h, CtxIs v it.ctx (fun z => NMap.find? z.halts n = some h) ∧ h.stream = false ∧ h.which = k ∧ h.block = 0 ∧
        ItemIs v id (fun b => b.st = .committed ∧ b.halted = some n) ∧ bitAt (sqGet v evStream).1 0 = true))

/-- R202 to R206, R211 to R213: a record that passes the checks is stored, one that was stored before counts as a
duplicate, and one that no queue takes is dropped; a step that is whole is finalised, into its tensor or into the journal;
a frame whose writes have completed is acknowledged, after a Flush where its namespace has a volatile write cache, and journal
space behind a commit is freed. -/
def Obligations.MergeQueuesRun : Prop :=
  (∀ (s : State) (c q : Nat) (m : MergeQueue) (r : MergeRec), s.power.off = false → getQueue s c q = some m → r.src ∈ m.sources →
    r.step = m.next ∨ r.step = m.next + 1 → r.close = false → r.key < m.keyLimit → r.fmt ∈ mergeFmts →
    r.payload.length = m.elems * elemBytes r.fmt → (r.keyed = true ∨ m.rows = false) →
    (seenRec (stepOf m r.step) r.src r.seq = false → (stepOf m r.step).recs.length < m.cap →
      Settles (.mergeRecord c q r) s (fun v => (∃ m', getQueue v c q = some m' ∧ m'.next = m.next ∧ m'.finals = m.finals ∧
        (stepOf m' r.step).recs = (stepOf m r.step).recs ++
          [{ src := r.src, key := r.key, seq := r.seq, fmt := r.fmt, payload := r.payload }]) ∧
        v.deck = s.deck ∧ v.regs = s.regs ∧ v.sched = s.sched)) ∧
    (seenRec (stepOf m r.step) r.src r.seq = true → Settles (.mergeRecord c q r) s (fun v =>
      Counted s v ctMergeDup 1 ∧ v.ctxs = s.ctxs ∧ v.deck = s.deck ∧ v.sched = s.sched))) ∧
  (∀ (s : State) (c q : Nat) (r : MergeRec), s.power.off = false → getQueue s c q = none →
    Settles (.mergeRecord c q r) s (fun v => Counted s v ctMergeDrop 1 ∧ EventSet s v evMerge 0 ∧ v.ctxs = s.ctxs ∧
      v.deck = s.deck ∧ v.sched = s.sched)) ∧
  (∀ (s : State) (c q : Nat) (m : MergeQueue), getQueue s c q = some m → s.power.off = false →
    stepWhole m (stepOf m m.next) = true →
    (m.rows = false → Settles (.stepFinalise c q) s (fun v =>
      (∃ m', getQueue v c q = some m' ∧ m'.next = m.next + 1 ∧ m'.steps = NMap.erase m.steps m.next) ∧ v.sched = s.sched ∧
      ∀ x b bs, NMap.find? s.ctxs c = some x → handleBase s x m.dense = some b → s.heal.rebuilds = [] →
        bs = (List.range m.keyLimit).flatMap (fun k => packCodes m.ufmt (mergedCodes m (keyRecs (stepOf m m.next) k)).1) →
        b + bs.length ≤ 2 ^ 40 ∨ (2 ^ 40 ≤ b ∧ b + bs.length ≤ 2 ^ 41) →
        ∀ j < bs.length, deckByteAt v (b + j) = bs.getD j 0#8)) ∧
    (m.rows = true → stepKeys (stepOf m m.next) ≠ [] → Settles (.stepFinalise c q) s (fun v =>
      ∃ z m' f, NMap.find? v.ctxs c = some z ∧ NMap.find? z.queues q = some m' ∧ m'.next = m.next + 1 ∧
        NMap.find? m'.finals m.next = some f ∧ f.marked = [] ∧ f.params = paramsAt m m.next ∧
        f.version = producedVersion m m.next ∧ f.values = (stepKeys (stepOf m m.next)).map (fun k =>
          (k, (mergedCodes m (keyRecs (stepOf m m.next) k)).1)) ∧
        ∃ j ∈ z.journal.frames, j.2.kind = 1 ∧ j.2.queue = q ∧ j.2.step = m.next))) ∧
  (∀ (s : State) (c k : Nat) (x : Ctx) (f : JFrame), NMap.find? s.ctxs c = some x → NMap.find? x.journal.frames k = some f →
    f.sent = true → f.acked = false → f.waiting = 0 →
    (f.flushing = true → Answers (.journalFrameAck c k) s (fun t =>
      CtxIs t c (fun z => NMap.find? z.journal.frames k = some { f with acked := true } ∧ z.queues = x.queues) ∧
      Counted s t ctJournal f.len ∧ t.deck = s.deck ∧ t.sched = s.sched)) ∧
    (f.flushing = false → if flushesFrames x.journal.base = true then Settles (.journalFrameAck c k) s (fun v =>
      CtxIs v c (fun z => NMap.find? z.journal.frames k = some { f with flushing := true, waiting := 1 } ∧
        z.queues = x.queues) ∧
      (∃ a, NMap.find? v.kid.accs s.kid.nextAcc = some a ∧ a.owner = .journal c k ∧ a.write = true ∧ a.data = [] ∧
        a.addr = locAddr s x.journal.base) ∧ v.deck = s.deck ∧ v.sched = s.sched)
      else Answers (.journalFrameAck c k) s (fun t =>
        CtxIs t c (fun z => NMap.find? z.journal.frames k = some { f with acked := true } ∧ z.queues = x.queues) ∧
        Counted s t ctJournal f.len ∧ t.deck = s.deck ∧ t.sched = s.sched))) ∧
  (∀ (s : State) (c : Nat) (x : Ctx), NMap.find? s.ctxs c = some x → reclaimable x ≠ [] →
    Settles (.journalSpaceFreed c) s (fun v => CtxIs v c (fun z => (∀ k ∈ reclaimable x, NMap.find? z.journal.frames k = none) ∧
      (∀ k, k ∉ reclaimable x → (NMap.find? z.journal.frames k).isSome = (NMap.find? x.journal.frames k).isSome) ∧
      z.queues = x.queues) ∧ v.sched = s.sched ∧ v.deck = s.deck))

/-- R122: the hash values that a compatible part produces. -/
def Obligations.HashVectors : Prop :=
  hashNat [] 0 = 0xD323A975939FF94A ∧ hashNat (zeros 8) 0 = 0x6967682AF009E84B ∧ hashNat [1#8] 0 = 0x71330FDDECB4AB76
end

