-- ==== Sys2Proof/Laws/Maps.lean ====
section
/-!
SUPPORT. The sparse maps and the byte memory: reading after writing, and the canonical form kept by every update.
-/

namespace Sys2Proof.Machine

open Sys2Proof

variable {α : Type}

/-! ### Keys in order -/

/-- Every key of the map is above `k`. -/
def NMap.above (k : Nat) (m : NMap α) : Prop := ∀ p ∈ m, k < p.1

theorem sorted_cons (k : Nat) (v : α) (m : NMap α) :
    NMap.sorted ((k, v) :: m) = true ↔ NMap.above k m ∧ NMap.sorted m = true := by
  induction m generalizing k v with
  | nil => simp [NMap.sorted, NMap.above]
  | cons p m ih =>
    obtain ⟨a, w⟩ := p
    simp only [NMap.sorted, Bool.and_eq_true, decide_eq_true_eq]
    constructor
    · rintro ⟨h1, h2⟩
      refine ⟨?_, h2⟩
      intro q hq
      rcases List.mem_cons.1 hq with rfl | hq
      · exact h1
      · exact Nat.lt_trans h1 (((ih a w).1 h2).1 q hq)
    · rintro ⟨h1, h2⟩
      exact ⟨h1 (a, w) (by simp), h2⟩

theorem sorted_tail (p : Nat × α) (m : NMap α) (h : NMap.sorted (p :: m) = true) : NMap.sorted m = true :=
  ((sorted_cons p.1 p.2 m).1 h).2

theorem mem_set (m : NMap α) (i : Nat) (x : α) (q : Nat × α) (h : q ∈ NMap.set m i x) : q = (i, x) ∨ q ∈ m := by
  induction m with
  | nil => simpa [NMap.set] using h
  | cons p m ih =>
    obtain ⟨k, v⟩ := p
    simp only [NMap.set] at h
    split at h
    · simpa using h
    · split at h
      · rcases List.mem_cons.1 h with h | h
        · exact .inl h
        · exact .inr (List.mem_cons_of_mem _ h)
      · rcases List.mem_cons.1 h with h | h
        · exact .inr (by simp [h])
        · rcases ih h with h | h
          · exact .inl h
          · exact .inr (List.mem_cons_of_mem _ h)

theorem mem_erase (m : NMap α) (i : Nat) (q : Nat × α) (h : q ∈ NMap.erase m i) : q ∈ m := by
  induction m with
  | nil => simp [NMap.erase] at h
  | cons p m ih =>
    obtain ⟨k, v⟩ := p
    simp only [NMap.erase] at h
    split at h
    · exact List.mem_cons_of_mem _ (ih h)
    · rcases List.mem_cons.1 h with h | h
      · simp [h]
      · exact List.mem_cons_of_mem _ (ih h)

theorem sorted_set (m : NMap α) (i : Nat) (x : α) (h : NMap.sorted m = true) : NMap.sorted (NMap.set m i x) = true := by
  induction m with
  | nil => rfl
  | cons p m ih =>
    obtain ⟨k, v⟩ := p
    obtain ⟨ha, ht⟩ := (sorted_cons k v m).1 h
    simp only [NMap.set]
    split
    · rename_i hlt
      refine (sorted_cons i x _).2 ⟨?_, h⟩
      intro q hq
      rcases List.mem_cons.1 hq with rfl | hq
      · exact hlt
      · exact Nat.lt_trans hlt (ha q hq)
    · split
      · rename_i heq
        subst heq
        exact (sorted_cons i x m).2 ⟨ha, ht⟩
      · rename_i h1 h2
        refine (sorted_cons k v _).2 ⟨?_, ih ht⟩
        intro q hq
        rcases mem_set m i x q hq with rfl | hq
        · exact by omega
        · exact ha q hq

theorem sorted_erase (m : NMap α) (i : Nat) (h : NMap.sorted m = true) : NMap.sorted (NMap.erase m i) = true := by
  induction m with
  | nil => rfl
  | cons p m ih =>
    obtain ⟨k, v⟩ := p
    obtain ⟨ha, ht⟩ := (sorted_cons k v m).1 h
    simp only [NMap.erase]
    split
    · exact ih ht
    · exact (sorted_cons k v _).2 ⟨fun q hq => ha q (mem_erase m i q hq), ih ht⟩

/-! ### Reading after writing -/

theorem find_above (m : NMap α) (k i : Nat) (h : NMap.above k m) (hi : i ≤ k) : NMap.find? m i = none := by
  induction m with
  | nil => rfl
  | cons p m ih =>
    obtain ⟨a, v⟩ := p
    have := h (a, v) (by simp)
    simp only [NMap.find?]
    rw [if_neg (by simp at this; omega)]
    exact ih (fun q hq => h q (by simp [hq]))

@[simp] theorem find_set_same (m : NMap α) (i : Nat) (x : α) : NMap.find? (NMap.set m i x) i = some x := by
  induction m with
  | nil => simp [NMap.set, NMap.find?]
  | cons p m ih =>
    obtain ⟨k, v⟩ := p
    simp only [NMap.set]
    split
    · simp [NMap.find?]
    · split
      · simp [NMap.find?]
      · rename_i h1 h2
        simp only [NMap.find?]
        rw [if_neg (by omega)]
        exact ih

theorem find_set_other (m : NMap α) (i j : Nat) (x : α) (h : j ≠ i) : NMap.find? (NMap.set m i x) j = NMap.find? m j := by
  induction m with
  | nil => simp [NMap.set, NMap.find?, Ne.symm h]
  | cons p m ih =>
    obtain ⟨k, v⟩ := p
    simp only [NMap.set]
    split
    · simp [NMap.find?, Ne.symm h]
    · split
      · rename_i h1 h2
        subst h2
        simp [NMap.find?, Ne.symm h]
      · simp only [NMap.find?]
        split
        · rfl
        · exact ih

theorem find_erase_other (m : NMap α) (i j : Nat) (h : j ≠ i) : NMap.find? (NMap.erase m i) j = NMap.find? m j := by
  induction m with
  | nil => rfl
  | cons p m ih =>
    obtain ⟨k, v⟩ := p
    simp only [NMap.erase, NMap.find?]
    split
    · rename_i hk
      subst hk
      rw [if_neg (Ne.symm h)]
      exact ih
    · simp only [NMap.find?]
      split
      · rfl
      · exact ih

@[simp] theorem find_erase_same (m : NMap α) (i : Nat) : NMap.find? (NMap.erase m i) i = none := by
  induction m with
  | nil => rfl
  | cons p m ih =>
    obtain ⟨k, v⟩ := p
    simp only [NMap.erase]
    split
    · exact ih
    · simp only [NMap.find?]
      rename_i hk
      rw [if_neg hk]
      exact ih

theorem find_modify (m : NMap α) (i j : Nat) (f : α → α) :
    NMap.find? (NMap.modify m i f) j = if j = i then (NMap.find? m i).map f else NMap.find? m j := by
  unfold NMap.modify
  split
  · rename_i v hv
    split
    · rename_i h
      subst h
      simp [hv]
    · rename_i h
      exact find_set_other m i j _ h
  · rename_i hv
    split
    · rename_i h
      subst h
      simp [hv]
    · rfl

/-! ### Byte memory -/

/-- Listed bytes differ from what an unlisted address reads as. -/
theorem mem_wf_iff (d : Nat → Byte) (m : Mem) : Memory.wf d m = true ↔ NMap.sorted m = true ∧ ∀ c ∈ m, c.2 ≠ d c.1 := by
  simp [Memory.wf, List.all_eq_true]

theorem memSet_wf (d : Nat → Byte) (m : Mem) (a : Nat) (b : Byte) (h : Memory.wf d m = true) :
    Memory.wf d (memSet d m a b) = true := by
  obtain ⟨hs, hd⟩ := (mem_wf_iff d m).1 h
  unfold memSet
  split
  · exact (mem_wf_iff d _).2 ⟨sorted_erase m a hs, fun c hc => hd c (mem_erase m a c hc)⟩
  · rename_i hne
    refine (mem_wf_iff d _).2 ⟨sorted_set m a b hs, fun c hc => ?_⟩
    rcases mem_set m a b c hc with rfl | hc
    · exact hne
    · exact hd c hc

theorem memPut_wf (d : Nat → Byte) (bs : List Byte) (m : Mem) (a : Nat) (h : Memory.wf d m = true) :
    Memory.wf d (memPut d m a bs) = true := by
  induction bs generalizing m a with
  | nil => exact h
  | cons b bs ih => exact ih _ _ (memSet_wf d m a b h)

theorem memGet_memSet (d : Nat → Byte) (m : Mem) (a k : Nat) (b : Byte) :
    memGet d (memSet d m a b) k = if k = a then b else memGet d m k := by
  unfold memGet memSet NMap.getD
  split
  · rename_i hb
    split
    · rename_i hk
      subst hk
      simp [hb]
    · rename_i hk
      rw [find_erase_other m a k hk]
  · split
    · rename_i hk
      subst hk
      simp
    · rename_i hk
      rw [find_set_other m a k b hk]

/-- A byte that consecutive bytes were written over, and every other byte. -/
theorem memGet_memPut (d : Nat → Byte) (bs : List Byte) (m : Mem) (a k : Nat) :
    memGet d (memPut d m a bs) k =
      if a ≤ k ∧ k < a + bs.length then bs.getD (k - a) 0#8 else memGet d m k := by
  induction bs generalizing m a with
  | nil =>
    simp only [memPut, List.length_nil]
    rw [if_neg (by omega)]
  | cons b bs ih =>
    simp only [memPut]
    rw [ih, memGet_memSet d m a k b]
    simp only [List.length_cons]
    by_cases hk : k = a
    · subst hk
      rw [if_neg (by omega), if_pos rfl, if_pos (by omega)]
      simp
    · by_cases h1 : a + 1 ≤ k ∧ k < a + 1 + bs.length
      · rw [if_pos h1, if_pos (by omega)]
        obtain ⟨n, hn⟩ : ∃ n, k - a = n + 1 := ⟨k - a - 1, by omega⟩
        rw [hn, show k - (a + 1) = n by omega]
        simp
      · rw [if_neg h1, if_neg hk, if_neg (by omega)]

end Sys2Proof.Machine
end

