-- ==== Sys2Proof/Laws/Keeps.lean ====
section
/-!
SUPPORT. What every command keeps (`Keeps`) and what every command but a cold reset keeps (`Runs`), as relations between
a state and a later one; how they pass through a record update and a fold.  The files beside this one give one lemma per
operation.
-/

namespace Sys2Proof.Machine

open Sys2Proof

/-- The Deck's bytes are in canonical form. -/
def DeckOk (s : State) : Prop := Memory.wf (deckDefault s) s.deck.mem = true

/-- Kept by every command: the canonical form of the Deck, the commands that wait, every fuse bit that is blown, and the
free values not yet used. -/
structure Keeps (s t : State) : Prop where
  mem : DeckOk s → DeckOk t
  pending : t.pending = s.pending
  fuses : ∀ a i, (fuseAt s a).toNat.testBit i = true → (fuseAt t a).toNat.testBit i = true
  free : s.free ≤ t.free

/-- Keystone, timing, the Trestle, the Parapets, the pads, the fuses and the package in force are as they were. -/
structure Still (s t : State) : Prop where
  clock : t.clock = s.clock
  timing : t.timing = s.timing
  trestle : t.trestle = s.trestle
  parapets : t.parapets = s.parapets
  pads : t.pads = s.pads
  fuses : t.boot.fuses = s.boot.fuses
  package : t.cfg.package = s.cfg.package

/-- Kept by every command that is no cold reset: what is out of service stays so.  With `k` the parts of `Still` are kept
as well: so for every command that has nothing to do with them. -/
structure Runs (k : Bool) (s t : State) : Prop where
  keeps : Keeps s t
  still : k = true → Still s t
  out : s.heal.outOfService = true → t.heal.outOfService = true
  chans : ∀ c ∈ s.deck.lost, c ∈ t.deck.lost
  stks : ∀ c ∈ s.deck.stacksOut, c ∈ t.deck.stacksOut
  piers : ∀ p, (getPier s p).lost = true → (getPier t p).lost = true

theorem keeps_refl (s : State) : Keeps s s := ⟨id, rfl, fun _ _ h => h, Nat.le_refl _⟩

theorem keeps_trans {s t u : State} (h : Keeps s t) (k : Keeps t u) : Keeps s u :=
  ⟨fun m => k.mem (h.mem m), k.pending.trans h.pending, fun a i b => k.fuses a i (h.fuses a i b),
    Nat.le_trans h.free k.free⟩

theorem still_refl (s : State) : Still s s := ⟨rfl, rfl, rfl, rfl, rfl, rfl, rfl⟩

theorem still_trans {s t u : State} (h : Still s t) (j : Still t u) : Still s u :=
  ⟨j.clock.trans h.clock, j.timing.trans h.timing, j.trestle.trans h.trestle, j.parapets.trans h.parapets,
    j.pads.trans h.pads, j.fuses.trans h.fuses, j.package.trans h.package⟩

theorem runs_refl (k : Bool) (s : State) : Runs k s s :=
  ⟨keeps_refl s, fun _ => still_refl s, id, fun _ h => h, fun _ h => h, fun _ h => h⟩

theorem runs_trans {k : Bool} {s t u : State} (h : Runs k s t) (j : Runs k t u) : Runs k s u :=
  ⟨keeps_trans h.keeps j.keeps, fun e => still_trans (h.still e) (j.still e), fun m => j.out (h.out m),
    fun c m => j.chans c (h.chans c m), fun c m => j.stks c (h.stks c m), fun p m => j.piers p (h.piers p m)⟩

/-- An update that touches none of the parts that `Runs` speaks of. -/
theorem runs_mk {k : Bool} {s u : State} (h : Runs k s u)
    {a5 a6 a7 a8 a9 a10 a12 a14 a16 a18 c2 c3 c4 c5 c6 d2 d4 d5 d8 d9 d10 d11 d12 d13 d14 d15 d16
      e2 e3 e4 e5 e6 e7 e8 e9 e10 e11 e12 e13
      b1 b2 b4 b5 b6 b7 b8 b9 b10 b11 b12 b13 b14 b15 b16 b17 b18 b19 b20} :
    Runs k s (State.mk u.clock u.timing u.piers u.trestle a5 a6 a7 a8 a9 a10
      (DeckState.mk u.deck.mem d2 u.deck.gen d4 d5 u.deck.lost u.deck.stacksOut d8 d9 d10 d11 d12 d13 d14 d15 d16)
      a12 (Heal.mk u.heal.outOfService e2 e3 e4 e5 e6 e7 e8 e9 e10 e11 e12 e13) a14 u.parapets a16
      (CfgState.mk u.cfg.package c2 c3 c4 c5 c6) a18
      (Boot.mk b1 b2 u.boot.fuses b4 b5 b6 b7 b8 b9 b10 b11 b12 b13 b14 b15 b16 b17 b18 b19 b20) u.pads
      u.free u.pending) :=
  ⟨⟨h.keeps.mem, h.keeps.pending, h.keeps.fuses, h.keeps.free⟩, fun e => ⟨(h.still e).clock, (h.still e).timing, (h.still e).trestle, (h.still e).parapets,
    (h.still e).pads, (h.still e).fuses, (h.still e).package⟩, h.out, h.chans,
    h.stks, h.piers⟩

/-- The same where free values are used as well. -/
theorem runs_more {k : Bool} {s u : State} (h : Runs k s u) {n : Nat}
    {a5 a6 a7 a8 a9 a10 a12 a14 a16 a18 c2 c3 c4 c5 c6 d2 d4 d5 d8 d9 d10 d11 d12 d13 d14 d15 d16
      e2 e3 e4 e5 e6 e7 e8 e9 e10 e11 e12 e13
      b1 b2 b4 b5 b6 b7 b8 b9 b10 b11 b12 b13 b14 b15 b16 b17 b18 b19 b20} :
    Runs k s (State.mk u.clock u.timing u.piers u.trestle a5 a6 a7 a8 a9 a10
      (DeckState.mk u.deck.mem d2 u.deck.gen d4 d5 u.deck.lost u.deck.stacksOut d8 d9 d10 d11 d12 d13 d14 d15 d16)
      a12 (Heal.mk u.heal.outOfService e2 e3 e4 e5 e6 e7 e8 e9 e10 e11 e12 e13) a14 u.parapets a16
      (CfgState.mk u.cfg.package c2 c3 c4 c5 c6) a18
      (Boot.mk b1 b2 u.boot.fuses b4 b5 b6 b7 b8 b9 b10 b11 b12 b13 b14 b15 b16 b17 b18 b19 b20) u.pads
      (u.free + n) u.pending) :=
  ⟨⟨h.keeps.mem, h.keeps.pending, h.keeps.fuses, Nat.le_trans h.keeps.free (Nat.le_add_right _ _)⟩, fun e => ⟨(h.still e).clock, (h.still e).timing, (h.still e).trestle, (h.still e).parapets,
    (h.still e).pads, (h.still e).fuses, (h.still e).package⟩, h.out, h.chans,
    h.stks, h.piers⟩

/-- An update of a command that may touch the parts of `Still`. -/
theorem moves_mk {s u : State} (h : Runs false s u)
    {a1 a2 a4 a5 a6 a7 a8 a9 a10 a12 a14 a15 a16 a17 a18 a20 d2 d4 d5 d8 d9 d10 d11 d12 d13 d14 d15 d16
      e2 e3 e4 e5 e6 e7 e8 e9 e10 e11 e12 e13
      b1 b2 b4 b5 b6 b7 b8 b9 b10 b11 b12 b13 b14 b15 b16 b17 b18 b19 b20} :
    Runs false s (State.mk a1 a2 u.piers a4 a5 a6 a7 a8 a9 a10
      (DeckState.mk u.deck.mem d2 u.deck.gen d4 d5 u.deck.lost u.deck.stacksOut d8 d9 d10 d11 d12 d13 d14 d15 d16)
      a12 (Heal.mk u.heal.outOfService e2 e3 e4 e5 e6 e7 e8 e9 e10 e11 e12 e13) a14 a15 a16 a17 a18
      (Boot.mk b1 b2 u.boot.fuses b4 b5 b6 b7 b8 b9 b10 b11 b12 b13 b14 b15 b16 b17 b18 b19 b20) a20
      u.free u.pending) :=
  ⟨⟨h.keeps.mem, h.keeps.pending, h.keeps.fuses, h.keeps.free⟩, fun e => (by cases e), h.out, h.chans,
    h.stks, h.piers⟩

/-- The same where free values are used as well. -/
theorem moves_more {s u : State} (h : Runs false s u) {n : Nat}
    {a1 a2 a4 a5 a6 a7 a8 a9 a10 a12 a14 a15 a16 a17 a18 a20 d2 d4 d5 d8 d9 d10 d11 d12 d13 d14 d15 d16
      e2 e3 e4 e5 e6 e7 e8 e9 e10 e11 e12 e13
      b1 b2 b4 b5 b6 b7 b8 b9 b10 b11 b12 b13 b14 b15 b16 b17 b18 b19 b20} :
    Runs false s (State.mk a1 a2 u.piers a4 a5 a6 a7 a8 a9 a10
      (DeckState.mk u.deck.mem d2 u.deck.gen d4 d5 u.deck.lost u.deck.stacksOut d8 d9 d10 d11 d12 d13 d14 d15 d16)
      a12 (Heal.mk u.heal.outOfService e2 e3 e4 e5 e6 e7 e8 e9 e10 e11 e12 e13) a14 a15 a16 a17 a18
      (Boot.mk b1 b2 u.boot.fuses b4 b5 b6 b7 b8 b9 b10 b11 b12 b13 b14 b15 b16 b17 b18 b19 b20) a20
      (u.free + n) u.pending) :=
  ⟨⟨h.keeps.mem, h.keeps.pending, h.keeps.fuses, Nat.le_trans h.keeps.free (Nat.le_add_right _ _)⟩, fun e => (by cases e), h.out, h.chans,
    h.stks, h.piers⟩

theorem runs_fst {k : Bool} {α : Type} {s a : State} {x : State × α} {b : α} (hx : x = (a, b)) (h : Runs k s x.1) : Runs k s a := by
  rw [hx] at h
  exact h

theorem runs_snd {k : Bool} {α : Type} {s b : State} {x : α × State} {a : α} (hx : x = (a, b)) (h : Runs k s x.2) : Runs k s b := by
  rw [hx] at h
  exact h

theorem runs_ite {k : Bool} {c : Prop} [Decidable c] {s u v : State} (hu : c → Runs k s u) (hv : ¬c → Runs k s v) :
    Runs k s (if c then u else v) := by
  split
  · exact hu ‹_›
  · exact hv ‹_›

theorem runs_cut {k : Bool} {s v w : State} (hv : Runs k s v) (hw : Runs k s v → Runs k s w) : Runs k s w := hw hv

/-- A fold over steps that each keep it. -/
theorem runs_foldl {k : Bool} {β : Type} {s u : State} (h : Runs k s u) (xs : List β) (f : State → β → State)
    (hf : ∀ v x, Runs k s v → Runs k s (f v x)) : Runs k s (xs.foldl f u) := by
  induction xs generalizing u with
  | nil => exact h
  | cons x xs ih => exact ih (hf u x h)

/-- A change to a Pier that leaves it lost where it was lost. -/
theorem setPier_runs {k : Bool} {s u : State} (h : Runs k s u) (p : Nat) (x : Pier)
    (hx : (getPier u p).lost = true → x.lost = true) : Runs k s (setPier u p x) := by
  refine ⟨⟨h.keeps.mem, h.keeps.pending, h.keeps.fuses, h.keeps.free⟩, fun e => ⟨(h.still e).clock, (h.still e).timing,
    (h.still e).trestle, (h.still e).parapets, (h.still e).pads, (h.still e).fuses, (h.still e).package⟩, h.out, h.chans,
    h.stks, ?_⟩
  intro q hq
  have h1 := h.piers q hq
  by_cases hp : q = p
  · subst hp
    simpa [getPier, setPier, NMap.getD] using hx h1
  · simpa [getPier, setPier, NMap.getD, find_set_other _ p q x hp] using h1

/-- What holds for `Still` commands holds without it. -/
theorem runs_weaken {k : Bool} {s t : State} (h : Runs k s t) : Runs false s t :=
  ⟨h.keeps, fun e => (by cases e), h.out, h.chans, h.stks, h.piers⟩

/-- A step's outcome keeps it, if it is a next state. -/
def RunsOut (k : Bool) (s : State) (o : Host.Outcome State Fault Refusal) : Prop := ∀ t, o = .next t → Runs k s t

theorem runsOut_cut {k : Bool} {s v : State} {o : Host.Outcome State Fault Refusal} (hv : Runs k s v) (hw : Runs k s v → RunsOut k s o) :
    RunsOut k s o := hw hv

theorem runsOut_ok {k : Bool} {s u : State} (h : Runs k s u) : RunsOut k s (ok u) := by
  rintro t ht
  cases ht
  exact h

theorem runsOut_fault {k : Bool} {s : State} (f : Fault) : RunsOut k s (.fault f) := by
  rintro t ht
  cases ht

end Sys2Proof.Machine
end

