-- ==== Sys2Proof/Laws/RunsCore.lean ====
section
/-!
SUPPORT. What the shared operations: counters and events, memory, rings and outside accesses, tables keep.
-/

namespace Sys2Proof.Machine

open Sys2Proof

set_option linter.tactic.unusedName false

/-! ### Flags -/

theorem rwStore_runs {ks : Bool} {s₀ u₀ : State} (h₀ : Runs ks s₀ u₀) (off : Nat) (v : Nat) :
    Runs ks s₀ (rwStore u₀ off v) := by
  unfold rwStore
  repeat' first
    | with_reducible assumption
    | (extract_lets +onlyGivenNames x; refine runs_cut (v := x) ?_ ?_; dsimp -zeta only [x]; clear x; rotate_left; intro _; clear_value x)
    | extract_lets +onlyGivenNames x | split | apply runs_mk

theorem event_runs {ks : Bool} {s₀ u₀ : State} (h₀ : Runs ks s₀ u₀) (off : Nat) (bit : Nat) :
    Runs ks s₀ (event u₀ off bit) := by
  unfold event
  repeat' first
    | with_reducible assumption
    | (extract_lets +onlyGivenNames x; refine runs_cut (v := x) ?_ ?_; dsimp -zeta only [x]; clear x; rotate_left; intro _; clear_value x)
    | extract_lets +onlyGivenNames x | apply runs_mk

theorem sqClear_runs {ks : Bool} {s₀ u₀ : State} (h₀ : Runs ks s₀ u₀) (off : Nat) (w : Nat) :
    Runs ks s₀ (sqClear u₀ off w) := by
  unfold sqClear
  repeat' first
    | with_reducible assumption
    | (extract_lets +onlyGivenNames x; refine runs_cut (v := x) ?_ ?_; dsimp -zeta only [x]; clear x; rotate_left; intro _; clear_value x)
    | extract_lets +onlyGivenNames x | split | apply runs_mk

theorem bump_runs {ks : Bool} {s₀ u₀ : State} (h₀ : Runs ks s₀ u₀) (off : Nat) (n : Nat) :
    Runs ks s₀ (bump u₀ off n) := by
  unfold bump
  repeat' first | with_reducible assumption | extract_lets +onlyGivenNames x | apply runs_mk

theorem takeFree_runs {ks : Bool} {s₀ u₀ : State} (h₀ : Runs ks s₀ u₀) : Runs ks s₀ (takeFree u₀).2 :=
  ⟨⟨h₀.keeps.mem, h₀.keeps.pending, h₀.keeps.fuses, Nat.le_succ_of_le h₀.keeps.free⟩, (fun e => ⟨(h₀.still e).clock, (h₀.still e).timing, (h₀.still e).trestle,
    (h₀.still e).parapets, (h₀.still e).pads, (h₀.still e).fuses, (h₀.still e).package⟩), h₀.out, h₀.chans, h₀.stks, h₀.piers⟩

/-! ### Ops -/

theorem noteBlockError_runs {ks : Bool} {s₀ u₀ : State} (h₀ : Runs ks s₀ u₀) (ch : Nat) :
    Runs ks s₀ (noteBlockError u₀ ch) := by
  unfold noteBlockError
  repeat' first
    | with_reducible assumption | (with_reducible intro _; try dsimp -zeta only)
    | (extract_lets +onlyGivenNames x; refine runs_cut (v := x) ?_ ?_; dsimp -zeta only [x]; clear x; rotate_left; intro _; clear_value x)
    | extract_lets +onlyGivenNames x | apply runs_mk

theorem countBad_runs {ks : Bool} {s₀ u₀ : State} (h₀ : Runs ks s₀ u₀) (b : Nat) : Runs ks s₀ (countBad u₀ b) := by
  unfold countBad
  repeat' first
    | with_reducible assumption | with_reducible apply event_runs | with_reducible apply bump_runs
    | with_reducible apply noteBlockError_runs

theorem readPartly_runs {ks : Bool} {s₀ u₀ : State} (h₀ : Runs ks s₀ u₀) (a : Nat) (n : Nat) :
    Runs ks s₀ (readPartly u₀ a n) := by
  unfold readPartly
  repeat' first
    | with_reducible assumption | (with_reducible intro _; try dsimp -zeta only) | with_reducible apply countBad_runs
    | (with_reducible refine runs_foldl ?_ _ _ (fun v x hv => ?_); rotate_left; try dsimp -zeta only) | split

theorem putMem_runs {ks : Bool} {s₀ u₀ : State} (h₀ : Runs ks s₀ u₀) (a : Nat) (bs : List Byte) (d2 d4 d5 d8 d9 d10 d11 d12 d13 d14 d15 d16) :
    Runs ks s₀ { u₀ with
      deck := DeckState.mk (memPut (deckDefault u₀) u₀.deck.mem a bs) d2 u₀.deck.gen d4 d5 u₀.deck.lost
        u₀.deck.stacksOut d8 d9 d10 d11 d12 d13 d14 d15 d16 } :=
  ⟨⟨fun m => memPut_wf _ bs _ a (h₀.keeps.mem m), h₀.keeps.pending, h₀.keeps.fuses, h₀.keeps.free⟩, (fun e => ⟨(h₀.still e).clock, (h₀.still e).timing, (h₀.still e).trestle,
    (h₀.still e).parapets, (h₀.still e).pads, (h₀.still e).fuses, (h₀.still e).package⟩), h₀.out, h₀.chans,
    h₀.stks, h₀.piers⟩

theorem healBlocks_runs {ks : Bool} {s₀ u₀ : State} (h₀ : Runs ks s₀ u₀) (a n : Nat) : Runs ks s₀ (healBlocks u₀ a n) := by
  unfold healBlocks
  refine runs_foldl h₀ _ _ (fun v b hv => ?_)
  split
  · extract_lets whole old q s1
    have h1 : Runs ks s₀ s1 := putMem_runs hv _ _ _ _ _ _ _ _ _ _ _ _ _ _
    clear_value s1
    split
    · exact bump_runs h1 _ _
    · exact h1
  · exact hv

theorem deckCopy_runs {ks : Bool} {s₀ u₀ : State} (h₀ : Runs ks s₀ u₀) (a : Nat) (bs : List Byte) : Runs ks s₀ (deckCopy u₀ a bs) :=
  putMem_runs (healBlocks_runs h₀ a bs.length) a bs _ _ _ _ _ _ _ _ _ _ _ _

theorem deckPut_runs {ks : Bool} {s₀ u₀ : State} (h₀ : Runs ks s₀ u₀) (a : Nat) (bs : List Byte) :
    Runs ks s₀ (deckPut u₀ a bs) := by
  unfold deckPut
  repeat' first
    | with_reducible assumption | with_reducible apply readPartly_runs | with_reducible apply deckCopy_runs
    | (extract_lets +onlyGivenNames x; refine runs_cut (v := x) ?_ ?_; dsimp -zeta only [x]; clear x; rotate_left; intro _; clear_value x)
    | extract_lets +onlyGivenNames x

theorem deckWriteParts_runs {ks : Bool} {s₀ u₀ : State} (h₀ : Runs ks s₀ u₀) (own : Owner) (a : Nat) (bs : List Byte) :
    Runs ks s₀ (deckWriteParts u₀ own a bs) := by
  unfold deckWriteParts
  repeat' first
    | with_reducible assumption | (with_reducible intro _; try dsimp -zeta only) | with_reducible apply deckPut_runs
    | (with_reducible refine runs_foldl ?_ _ _ (fun v x hv => ?_); rotate_left; try dsimp -zeta only)
    | (extract_lets +onlyGivenNames x; refine runs_cut (v := x) ?_ ?_; dsimp -zeta only [x]; clear x; rotate_left; intro _; clear_value x)
    | extract_lets +onlyGivenNames x | split | apply runs_mk

theorem freeHeld_runs {ks : Bool} {s₀ u₀ : State} (h₀ : Runs ks s₀ u₀) (p : Owner → Bool) :
    Runs ks s₀ (freeHeld u₀ p) := by
  unfold freeHeld
  repeat' first
    | with_reducible assumption | (with_reducible intro _; try dsimp -zeta only) | extract_lets +onlyGivenNames x
    | split | apply runs_mk | apply runs_more

theorem deckWrite_runs {ks : Bool} {s₀ u₀ : State} (h₀ : Runs ks s₀ u₀) (a : Nat) (bs : List Byte) :
    Runs ks s₀ (deckWrite u₀ a bs) := by
  unfold deckWrite
  repeat' first
    | with_reducible assumption | with_reducible apply deckPut_runs | with_reducible apply deckWriteParts_runs | split
    | apply runs_more

theorem setCtx_runs {ks : Bool} {s₀ u₀ : State} (h₀ : Runs ks s₀ u₀) (c : Nat) (x : Ctx) :
    Runs ks s₀ (setCtx u₀ c x) := by
  unfold setCtx
  repeat' first | with_reducible assumption | extract_lets +onlyGivenNames x | apply runs_mk

theorem modCtx_runs {ks : Bool} {s₀ u₀ : State} (h₀ : Runs ks s₀ u₀) (c : Nat) (f : Ctx → Ctx) :
    Runs ks s₀ (modCtx u₀ c f) := by
  unfold modCtx
  repeat' first | with_reducible assumption | extract_lets +onlyGivenNames x | apply runs_mk

theorem modRing_runs {ks : Bool} {s₀ u₀ : State} (h₀ : Runs ks s₀ u₀) (c : Nat) (r : Nat) (f : Ring → Ring) :
    Runs ks s₀ (modRing u₀ c r f) := by
  unfold modRing
  repeat' first
    | with_reducible assumption | (with_reducible intro _; try dsimp -zeta only) | with_reducible apply modCtx_runs
    | extract_lets +onlyGivenNames x | apply runs_mk

theorem modDesc_runs {ks : Bool} {s₀ u₀ : State} (h₀ : Runs ks s₀ u₀) (c : Nat) (r : Nat) (i : Nat) (f : Desc → Desc) :
    Runs ks s₀ (modDesc u₀ c r i f) := by
  unfold modDesc
  repeat' first
    | with_reducible assumption | (with_reducible intro _; try dsimp -zeta only) | with_reducible apply modRing_runs
    | extract_lets +onlyGivenNames x | apply runs_mk

theorem modItem_runs {ks : Bool} {s₀ u₀ : State} (h₀ : Runs ks s₀ u₀) (i : Nat) (f : Item → Item) :
    Runs ks s₀ (modItem u₀ i f) := by
  unfold modItem
  repeat' first | with_reducible assumption | extract_lets +onlyGivenNames x | apply runs_mk

theorem kidSend_runs {ks : Bool} {s₀ u₀ : State} (h₀ : Runs ks s₀ u₀) (p : Packet) : Runs ks s₀ (kidSend u₀ p) := by
  unfold kidSend
  repeat' first | with_reducible assumption | extract_lets +onlyGivenNames x | apply runs_mk

theorem setSpanLink_runs {ks : Bool} {s₀ u₀ : State} (h₀ : Runs ks s₀ u₀) (p : Nat) (l : Link) :
    Runs ks s₀ (setSpanLink u₀ p l) := by
  unfold setSpanLink
  repeat' first | with_reducible assumption | extract_lets +onlyGivenNames x | apply runs_mk

theorem spanSend_runs {ks : Bool} {s₀ u₀ : State} (h₀ : Runs ks s₀ u₀) (port : Nat) (p : Packet) :
    Runs ks s₀ (spanSend u₀ port p) := by
  unfold spanSend
  repeat' first
    | with_reducible assumption | with_reducible apply setSpanLink_runs
    | (extract_lets +onlyGivenNames x; refine runs_cut (v := x) ?_ ?_; dsimp -zeta only [x]; clear x; rotate_left; intro _; clear_value x)
    | extract_lets +onlyGivenNames x | apply runs_mk

theorem spanIssue_runs {ks : Bool} {s₀ u₀ : State} (h₀ : Runs ks s₀ u₀) (h : SpanHdr) (data : List Byte) (acc : Nat) :
    Runs ks s₀ (spanIssue u₀ h data acc) := by
  unfold spanIssue
  repeat' first
    | with_reducible assumption | with_reducible apply spanSend_runs
    | (extract_lets +onlyGivenNames x; refine runs_cut (v := x) ?_ ?_; dsimp -zeta only [x]; clear x; rotate_left; intro _; clear_value x)
    | extract_lets +onlyGivenNames x | split | apply runs_mk

theorem spreadChannel_runs {ks : Bool} {s₀ u₀ : State} (h₀ : Runs ks s₀ u₀) (d : Nat) (ch : Nat) :
    Runs ks s₀ ((spreadChannel u₀ d ch).2) := by
  unfold spreadChannel
  repeat' first
    | with_reducible assumption
    | (extract_lets +onlyGivenNames x; refine runs_cut (v := x) ?_ ?_; dsimp -zeta only [x]; clear x; rotate_left; intro _; clear_value x)
    | extract_lets +onlyGivenNames x | split | apply runs_mk

theorem modAcc_runs {ks : Bool} {s₀ u₀ : State} (h₀ : Runs ks s₀ u₀) (i : Nat) (f : Acc → Acc) :
    Runs ks s₀ (modAcc u₀ i f) := by
  unfold modAcc
  repeat' first | with_reducible assumption | extract_lets +onlyGivenNames x | apply runs_mk

theorem failAtOnce_runs {ks : Bool} {s₀ u₀ : State} (h₀ : Runs ks s₀ u₀) (i : Nat) (status : Nat) :
    Runs ks s₀ (failAtOnce u₀ i status) := by
  unfold failAtOnce
  repeat' first | with_reducible assumption | extract_lets +onlyGivenNames x | apply runs_mk

theorem launch_runs {ks : Bool} {s₀ u₀ : State} (h₀ : Runs ks s₀ u₀) (i : Nat) : Runs ks s₀ (launch u₀ i) := by
  unfold launch
  repeat' first
    | with_reducible assumption | (with_reducible intro _; try dsimp -zeta only) | with_reducible apply kidSend_runs
    | with_reducible apply spanIssue_runs | with_reducible apply spreadChannel_runs
    | (refine runs_snd (by with_reducible assumption) ?_) | with_reducible apply modAcc_runs
    | with_reducible apply failAtOnce_runs
    | (extract_lets +onlyGivenNames x; refine runs_cut (v := x) ?_ ?_; dsimp -zeta only [x]; clear x; rotate_left; intro _; clear_value x)
    | extract_lets +onlyGivenNames x | split | apply runs_mk | apply runs_more

theorem lightPost_runs {ks : Bool} {s₀ u₀ : State} (h₀ : Runs ks s₀ u₀) (src : Nat) (dst : Nat) (i : Nat) :
    Runs ks s₀ (lightPost u₀ src dst i) := by
  unfold lightPost
  repeat' first
    | with_reducible assumption
    | (with_reducible apply setPier_runs; rotate_left; first | exact id | exact fun _ => rfl | simp_all)
    | (extract_lets +onlyGivenNames x; refine runs_cut (v := x) ?_ ?_; dsimp -zeta only [x]; clear x; rotate_left; intro _; clear_value x)
    | extract_lets +onlyGivenNames x | split | apply runs_mk

theorem issue_runs {ks : Bool} {s₀ u₀ : State} (h₀ : Runs ks s₀ u₀) (a : Acc) : Runs ks s₀ (issue u₀ a) := by
  unfold issue
  repeat' first
    | with_reducible assumption | with_reducible apply launch_runs | with_reducible apply lightPost_runs
    | (extract_lets +onlyGivenNames x; refine runs_cut (v := x) ?_ ?_; dsimp -zeta only [x]; clear x; rotate_left; intro _; clear_value x)
    | extract_lets +onlyGivenNames x | split | apply runs_mk

theorem issueReads_runs {ks : Bool} {s₀ u₀ : State} (h₀ : Runs ks s₀ u₀) (owner : Owner) (ctx : Nat) (addr : Nat) (len : Nat) : Runs ks s₀ (issueReads u₀ owner ctx addr len) := by
  unfold issueReads
  repeat' first
    | with_reducible assumption | (with_reducible intro _; try dsimp -zeta only) | with_reducible apply issue_runs
    | (with_reducible refine runs_foldl ?_ _ _ (fun v x hv => ?_); rotate_left; try dsimp -zeta only)

theorem issueWrites_runs {ks : Bool} {s₀ u₀ : State} (h₀ : Runs ks s₀ u₀) (owner : Owner) (ctx : Nat) (addr : Nat) (data : List Byte) : Runs ks s₀ (issueWrites u₀ owner ctx addr data) := by
  unfold issueWrites
  repeat' first
    | with_reducible assumption | (with_reducible intro _; try dsimp -zeta only) | with_reducible apply issue_runs
    | (with_reducible refine runs_foldl ?_ _ _ (fun v x hv => ?_); rotate_left; try dsimp -zeta only)

theorem placeWrite_runs {ks : Bool} {s₀ u₀ : State} (h₀ : Runs ks s₀ u₀) (owner : Owner) (ctx : Nat) (addr : Nat) (data : List Byte) : Runs ks s₀ ((placeWrite u₀ owner ctx addr data).1) := by
  unfold placeWrite
  repeat' first
    | with_reducible assumption | with_reducible apply deckWrite_runs | with_reducible apply issueWrites_runs | split

theorem logAcked_runs {ks : Bool} {s₀ u₀ : State} (h₀ : Runs ks s₀ u₀) (c : Nat) (which : Nat) :
    Runs ks s₀ (logAcked u₀ c which) := by
  unfold logAcked
  repeat' first
    | with_reducible assumption | with_reducible apply setCtx_runs | with_reducible apply placeWrite_runs
    | (refine runs_fst (by with_reducible assumption) ?_)
    | (extract_lets +onlyGivenNames x; refine runs_cut (v := x) ?_ ?_; dsimp -zeta only [x]; clear x; rotate_left; intro _; clear_value x)
    | extract_lets +onlyGivenNames x | split | apply runs_mk

theorem logDropped_runs {ks : Bool} {s₀ u₀ : State} (h₀ : Runs ks s₀ u₀) (which : Nat) :
    Runs ks s₀ (logDropped u₀ which) := by
  unfold logDropped
  repeat' first
    | with_reducible assumption | with_reducible apply event_runs | with_reducible apply bump_runs
    | (extract_lets +onlyGivenNames x; refine runs_cut (v := x) ?_ ?_; dsimp -zeta only [x]; clear x; rotate_left; intro _; clear_value x)
    | extract_lets +onlyGivenNames x | split

theorem logWrite_runs {ks : Bool} {s₀ u₀ : State} (h₀ : Runs ks s₀ u₀) (c : Nat) (which : Nat) (entry : List Byte) :
    Runs ks s₀ (logWrite u₀ c which entry) := by
  unfold logWrite
  repeat' first
    | with_reducible assumption | with_reducible apply setCtx_runs | with_reducible apply placeWrite_runs
    | (refine runs_fst (by with_reducible assumption) ?_) | with_reducible apply logAcked_runs
    | with_reducible apply logDropped_runs
    | (extract_lets +onlyGivenNames x; refine runs_cut (v := x) ?_ ?_; dsimp -zeta only [x]; clear x; rotate_left; intro _; clear_value x)
    | extract_lets +onlyGivenNames x | split | apply runs_mk

theorem trace_runs {ks : Bool} {s₀ u₀ : State} (h₀ : Runs ks s₀ u₀) (c : Nat) (src : Nat) (kind : Nat) (object : Nat) (detail : Nat) : Runs ks s₀ (trace u₀ c src kind object detail) := by
  unfold trace
  repeat' first
    | with_reducible assumption | with_reducible apply logWrite_runs
    | (extract_lets +onlyGivenNames x; refine runs_cut (v := x) ?_ ?_; dsimp -zeta only [x]; clear x; rotate_left; intro _; clear_value x)
    | extract_lets +onlyGivenNames x | split | apply runs_mk

theorem healLog_runs {ks : Bool} {s₀ u₀ : State} (h₀ : Runs ks s₀ u₀) (e : HealEntry) : Runs ks s₀ (healLog u₀ e) := by
  unfold healLog
  repeat' first
    | with_reducible assumption | with_reducible apply event_runs | with_reducible apply bump_runs
    | with_reducible apply issueWrites_runs
    | (extract_lets +onlyGivenNames x; refine runs_cut (v := x) ?_ ?_; dsimp -zeta only [x]; clear x; rotate_left; intro _; clear_value x)
    | extract_lets +onlyGivenNames x | split | apply runs_mk

/-! ### Tables -/

theorem modRebuild_runs {ks : Bool} {s₀ u₀ : State} (h₀ : Runs ks s₀ u₀) (i : Nat) (f : Rebuild → Rebuild) :
    Runs ks s₀ (modRebuild u₀ i f) := by
  unfold modRebuild
  repeat' first | with_reducible assumption | extract_lets +onlyGivenNames x | apply runs_mk

theorem modMigration_runs {ks : Bool} {s₀ u₀ : State} (h₀ : Runs ks s₀ u₀) (i : Nat) (f : Migration → Migration) :
    Runs ks s₀ (modMigration u₀ i f) := by
  unfold modMigration
  repeat' first | with_reducible assumption | extract_lets +onlyGivenNames x | apply runs_mk

theorem modVer_runs {ks : Bool} {s₀ u₀ : State} (h₀ : Runs ks s₀ u₀) (v : Nat) (f : Version → Version) :
    Runs ks s₀ (modVer u₀ v f) := by
  unfold modVer
  repeat' first | with_reducible assumption | extract_lets +onlyGivenNames x | apply runs_mk

theorem modEntry_runs {ks : Bool} {s₀ u₀ : State} (h₀ : Runs ks s₀ u₀) (v : Nat) (g : Nat) (f : DEntry → DEntry) :
    Runs ks s₀ (modEntry u₀ v g f) := by
  unfold modEntry
  repeat' first
    | with_reducible assumption | with_reducible apply deckWrite_runs | extract_lets +onlyGivenNames x | split
    | apply runs_mk

theorem writeSlot_runs {ks : Bool} {s₀ u₀ : State} (h₀ : Runs ks s₀ u₀) (set : Nat) (t : Nat) (base : Nat) (version : Nat) : Runs ks s₀ (writeSlot u₀ set t base version) := by
  unfold writeSlot
  repeat' first | with_reducible assumption | with_reducible apply deckWrite_runs

theorem modGroup_runs {ks : Bool} {s₀ u₀ : State} (h₀ : Runs ks s₀ u₀) (v : Nat) (g : Nat) (f : DEntry → DEntry) :
    Runs ks s₀ (modGroup u₀ v g f) := by
  unfold modGroup
  repeat' first
    | with_reducible assumption | (with_reducible intro _; try dsimp -zeta only) | with_reducible apply modEntry_runs
    | (with_reducible refine runs_foldl ?_ _ _ (fun v x hv => ?_); rotate_left; try dsimp -zeta only)

theorem askRebuild_runs {ks : Bool} {s₀ u₀ : State} (h₀ : Runs ks s₀ u₀) (i : Nat) : Runs ks s₀ (askRebuild u₀ i) := by
  unfold askRebuild
  repeat' first
    | with_reducible assumption | (with_reducible intro _; try dsimp -zeta only)
    | with_reducible apply issueReads_runs | with_reducible apply modRebuild_runs
    | (with_reducible refine runs_foldl ?_ _ _ (fun v x hv => ?_); rotate_left; try dsimp -zeta only)
    | (extract_lets +onlyGivenNames x; refine runs_cut (v := x) ?_ ?_; dsimp -zeta only [x]; clear x; rotate_left; intro _; clear_value x)
    | extract_lets +onlyGivenNames x | split | apply runs_mk

theorem ignoreMigration_runs {ks : Bool} {s₀ u₀ : State} (h₀ : Runs ks s₀ u₀) (i : Nat) (m : Migration) :
    Runs ks s₀ (ignoreMigration u₀ i m) := by
  unfold ignoreMigration
  repeat' first
    | with_reducible assumption | (with_reducible intro _; try dsimp -zeta only) | with_reducible apply event_runs
    | with_reducible apply bump_runs | with_reducible apply modDesc_runs
    | (extract_lets +onlyGivenNames x; refine runs_cut (v := x) ?_ ?_; dsimp -zeta only [x]; clear x; rotate_left; intro _; clear_value x)
    | extract_lets +onlyGivenNames x | split | apply runs_mk

theorem givePlacesFuel_runs {ks : Bool} {s₀ u₀ : State} (n : Nat) (h₀ : Runs ks s₀ u₀) : Runs ks s₀ (givePlacesFuel n u₀) := by
  induction n generalizing u₀ with
  | zero => exact h₀
  | succ n ih =>
    unfold givePlacesFuel
    split
    · exact h₀
    · split
      · exact ih (askRebuild_runs (modRebuild_runs h₀ _ _) _)
      · split
        · extract_lets st s1
          split
          · exact ih (ignoreMigration_runs h₀ _ _)
          · exact ih (modGroup_runs (modMigration_runs h₀ _ _) _ _ _)
        · exact h₀

theorem givePlaces_runs {ks : Bool} {s₀ u₀ : State} (h₀ : Runs ks s₀ u₀) : Runs ks s₀ (givePlaces u₀) := givePlacesFuel_runs 9 h₀

theorem dropStageRow_runs {ks : Bool} {s₀ u₀ : State} (h₀ : Runs ks s₀ u₀) (v : Nat) (row : Nat) (addr : Nat) :
    Runs ks s₀ (dropStageRow u₀ v row addr) := by
  unfold dropStageRow
  repeat' first
    | with_reducible assumption | (with_reducible intro _; try dsimp -zeta only) | extract_lets +onlyGivenNames x
    | split | apply runs_mk

theorem writeHeld_runs {ks : Bool} {s₀ u₀ : State} (h₀ : Runs ks s₀ u₀) (i : Nat) (loc : Nat) (m : Migration) :
    Runs ks s₀ (writeHeld u₀ i loc m) := by
  unfold writeHeld
  repeat' first
    | with_reducible assumption | (with_reducible intro _; try dsimp -zeta only) | with_reducible apply deckWrite_runs
    | with_reducible apply modItem_runs | with_reducible apply issueWrites_runs
    | with_reducible apply modMigration_runs | with_reducible apply dropStageRow_runs
    | (with_reducible refine runs_foldl ?_ _ _ (fun v x hv => ?_); rotate_left; try dsimp -zeta only)
    | (extract_lets +onlyGivenNames x; refine runs_cut (v := x) ?_ ?_; dsimp -zeta only [x]; clear x; rotate_left; intro _; clear_value x)
    | extract_lets +onlyGivenNames x | split | apply runs_mk

theorem giveTail_runs {ks : Bool} {s₀ u₀ : State} (h₀ : Runs ks s₀ u₀) (m : Migration) :
    Runs ks s₀ (giveTail u₀ m) := by
  unfold giveTail
  repeat' first
    | with_reducible assumption | (with_reducible intro _; try dsimp -zeta only) | with_reducible apply modVer_runs
    | extract_lets +onlyGivenNames x | split | apply runs_mk | apply runs_more

theorem abandon_runs {ks : Bool} {s₀ u₀ : State} (h₀ : Runs ks s₀ u₀) (i : Nat) : Runs ks s₀ (abandon u₀ i) := by
  unfold abandon
  repeat' first
    | with_reducible assumption | (with_reducible intro _; try dsimp -zeta only) | with_reducible apply event_runs
    | with_reducible apply bump_runs | with_reducible apply modDesc_runs | with_reducible apply modGroup_runs
    | with_reducible apply writeHeld_runs | with_reducible apply giveTail_runs
    | (extract_lets +onlyGivenNames x; refine runs_cut (v := x) ?_ ?_; dsimp -zeta only [x]; clear x; rotate_left; intro _; clear_value x)
    | extract_lets +onlyGivenNames x | split | apply runs_mk

theorem makeLost_runs {ks : Bool} {s₀ u₀ : State} (h₀ : Runs ks s₀ u₀) (v : Nat) (g : Nat) :
    Runs ks s₀ (makeLost u₀ v g) := by
  unfold makeLost
  repeat' first
    | with_reducible assumption | (with_reducible intro _; try dsimp -zeta only) | with_reducible apply event_runs
    | with_reducible apply bump_runs | with_reducible apply healLog_runs | with_reducible apply modGroup_runs
    | (extract_lets +onlyGivenNames x; refine runs_cut (v := x) ?_ ?_; dsimp -zeta only [x]; clear x; rotate_left; intro _; clear_value x)
    | extract_lets +onlyGivenNames x | split | apply runs_mk

theorem startLog_runs {ks : Bool} {s₀ u₀ : State} (h₀ : Runs ks s₀ u₀) (v : Nat) (g : Nat) :
    Runs ks s₀ (startLog u₀ v g) := by
  unfold startLog
  repeat' first
    | with_reducible assumption | with_reducible apply healLog_runs | extract_lets +onlyGivenNames x | split
    | apply runs_mk

theorem slotsAgain_runs {ks : Bool} {s₀ u₀ : State} (h₀ : Runs ks s₀ u₀) (vs : List Nat) (g : Nat) :
    Runs ks s₀ (slotsAgain u₀ vs g) := by
  unfold slotsAgain
  repeat' first
    | with_reducible assumption | (with_reducible intro _; try dsimp -zeta only)
    | (extract_lets +onlyGivenNames x; refine runs_cut (v := x) ?_ ?_; dsimp -zeta only [x]; clear x; rotate_left; intro _; clear_value x)
    | extract_lets +onlyGivenNames x | split | apply runs_mk

theorem startRebuild_runs {ks : Bool} {s₀ u₀ : State} (h₀ : Runs ks s₀ u₀) (v0 : Nat) (g : Nat) (spill : Option Nat) :
    Runs ks s₀ (startRebuild u₀ v0 g spill) := by
  unfold startRebuild
  extract_lets +onlyGivenNames v st
  clear_value v st
  cases st
  all_goals dsimp -zeta only
  repeat' first
    | with_reducible assumption | (with_reducible intro _; try dsimp -zeta only) | with_reducible apply modGroup_runs
    | with_reducible apply givePlaces_runs | with_reducible apply abandon_runs | with_reducible apply makeLost_runs
    | with_reducible apply startLog_runs | with_reducible apply slotsAgain_runs
    | (extract_lets +onlyGivenNames x; refine runs_cut (v := x) ?_ ?_; dsimp -zeta only [x]; clear x; rotate_left; intro _; clear_value x)
    | extract_lets +onlyGivenNames x | split | apply runs_mk

theorem countMalformed_runs {ks : Bool} {s₀ u₀ : State} (h₀ : Runs ks s₀ u₀) (n : Nat) :
    Runs ks s₀ (countMalformed u₀ n) := by
  unfold countMalformed
  repeat' first | with_reducible assumption | with_reducible apply event_runs | with_reducible apply bump_runs | split

theorem startPart_runs {ks : Bool} {s₀ u₀ : State} (h₀ : Runs ks s₀ u₀) (q : Nat × List Byte) :
    Runs ks s₀ (startPart u₀ q) := by
  unfold startPart
  repeat' first
    | with_reducible assumption | with_reducible apply countBad_runs | with_reducible apply startRebuild_runs
    | (extract_lets +onlyGivenNames x; refine runs_cut (v := x) ?_ ?_; dsimp -zeta only [x]; clear x; rotate_left; intro _; clear_value x)
    | extract_lets +onlyGivenNames x | split | apply runs_mk

theorem deckWriteFor_runs {ks : Bool} {s₀ u₀ : State} (h₀ : Runs ks s₀ u₀) (own : Owner) (a : Nat) (bs : List Byte) :
    Runs ks s₀ (deckWriteFor u₀ own a bs) := by
  unfold deckWriteFor
  repeat' first
    | with_reducible assumption | (with_reducible intro _; try dsimp -zeta only) | with_reducible apply deckPut_runs
    | with_reducible apply deckWriteParts_runs | with_reducible apply startPart_runs
    | (with_reducible refine runs_foldl ?_ _ _ (fun v x hv => ?_); rotate_left; try dsimp -zeta only) | split

/-! ### Slots -/

theorem find_mapKeyed {α β : Type} (m : NMap α) (f : Nat → α → β) (k : Nat) :
    NMap.find? (m.map (fun p => (p.1, f p.1 p.2))) k = (NMap.find? m k).map (f k) := by
  induction m with
  | nil => rfl
  | cons p m ih =>
    simp only [List.map_cons, NMap.find?]
    split
    · rename_i h
      subst h
      rfl
    · exact ih

theorem rebookAll_runs {ks : Bool} {s₀ u₀ : State} (h₀ : Runs ks s₀ u₀) : Runs ks s₀ (rebookAll u₀) := by
  refine ⟨⟨h₀.keeps.mem, h₀.keeps.pending, h₀.keeps.fuses, h₀.keeps.free⟩, fun e => ⟨(h₀.still e).clock, (h₀.still e).timing,
    (h₀.still e).trestle, (h₀.still e).parapets, (h₀.still e).pads, (h₀.still e).fuses, (h₀.still e).package⟩, h₀.out, h₀.chans,
    h₀.stks, fun q hq => ?_⟩
  have h1 := h₀.piers q hq
  have h2 := find_mapKeyed u₀.piers (fun i (p : Pier) => { p with queue := rebook u₀ i p.queue }) q
  refine (congrArg (fun o => (Option.getD o Pier.fresh).lost) h2).trans ?_
  simp only [getPier, NMap.getD] at h1
  cases h : NMap.find? u₀.piers q with
  | none => rw [h] at h1; exact h1
  | some x => rw [h] at h1; exact h1

end Sys2Proof.Machine
end

