-- ==== Sys2Proof/Laws/RunsWork.lean ====
section
/-!
SUPPORT. What the steps of work items and the landing of outside accesses keep.
-/

namespace Sys2Proof.Machine

open Sys2Proof

set_option linter.tactic.unusedName false

/-! ### Work -/

theorem noteSlicing_runs {ks : Bool} {s₀ u₀ : State} (h₀ : Runs ks s₀ u₀)  : Runs ks s₀ (noteSlicing u₀) := by
  unfold noteSlicing
  repeat' first
    | with_reducible assumption | with_reducible apply event_runs
    | (extract_lets +onlyGivenNames x; refine runs_cut (v := x) ?_ ?_; dsimp -zeta only [x]; clear x; rotate_left; intro _; clear_value x)
    | extract_lets +onlyGivenNames x | split | apply runs_mk

theorem countQuarantine_runs {ks : Bool} {s₀ u₀ : State} (h₀ : Runs ks s₀ u₀) (c : Nat) (r : Nat) (i : Nat) (n : Nat) :
    Runs ks s₀ (countQuarantine u₀ c r i n) := by
  unfold countQuarantine
  repeat' first
    | with_reducible assumption | (with_reducible intro _; try dsimp -zeta only) | with_reducible apply event_runs
    | with_reducible apply modRing_runs | with_reducible apply modDesc_runs
    | (with_reducible refine runs_foldl ?_ _ _ (fun v x hv => ?_); rotate_left; try dsimp -zeta only)
    | (extract_lets +onlyGivenNames x; refine runs_cut (v := x) ?_ ?_; dsimp -zeta only [x]; clear x; rotate_left; intro _; clear_value x)
    | extract_lets +onlyGivenNames x | split | apply runs_mk

theorem setReady_runs {ks : Bool} {s₀ u₀ : State} (h₀ : Runs ks s₀ u₀) (i : Nat) : Runs ks s₀ (setReady u₀ i) := by
  unfold setReady
  repeat' first
    | with_reducible assumption | (with_reducible intro _; try dsimp -zeta only) | with_reducible apply modItem_runs
    | extract_lets +onlyGivenNames x | apply runs_mk

theorem refreshItem_runs {ks : Bool} {s₀ u₀ : State} (h₀ : Runs ks s₀ u₀) (i : Nat) :
    Runs ks s₀ (refreshItem u₀ i) := by
  unfold refreshItem
  repeat' first
    | with_reducible assumption | (with_reducible intro _; try dsimp -zeta only) | with_reducible apply modItem_runs
    | with_reducible apply setReady_runs
    | (extract_lets +onlyGivenNames x; refine runs_cut (v := x) ?_ ?_; dsimp -zeta only [x]; clear x; rotate_left; intro _; clear_value x)
    | extract_lets +onlyGivenNames x | split | apply runs_mk

theorem refreshReady_runs {ks : Bool} {s₀ u₀ : State} (h₀ : Runs ks s₀ u₀)  : Runs ks s₀ (refreshReady u₀) := by
  unfold refreshReady
  repeat' first
    | with_reducible assumption | with_reducible apply refreshItem_runs
    | (with_reducible refine runs_foldl ?_ _ _ (fun v x hv => ?_); rotate_left; try dsimp -zeta only)

theorem keepRuns_runs {ks : Bool} {s₀ u₀ : State} (h₀ : Runs ks s₀ u₀) (id : Nat) (r : Nat) (runs : List (Nat × Nat)) :
    Runs ks s₀ (keepRuns u₀ id r runs) := by
  unfold keepRuns
  repeat' first
    | with_reducible assumption | (with_reducible intro _; try dsimp -zeta only) | with_reducible apply modItem_runs
    | extract_lets +onlyGivenNames x | apply runs_mk

theorem askExtents_runs {ks : Bool} {s₀ u₀ : State} (h₀ : Runs ks s₀ u₀) (id : Nat) (miss : List (Nat × Nat)) :
    Runs ks s₀ (askExtents u₀ id miss) := by
  unfold askExtents
  repeat' first
    | with_reducible assumption | (with_reducible intro _; try dsimp -zeta only) | with_reducible apply modItem_runs
    | with_reducible apply issueReads_runs
    | (with_reducible refine runs_foldl ?_ _ _ (fun v x hv => ?_); rotate_left; try dsimp -zeta only)
    | (extract_lets +onlyGivenNames x; refine runs_cut (v := x) ?_ ?_; dsimp -zeta only [x]; clear x; rotate_left; intro _; clear_value x)
    | extract_lets +onlyGivenNames x | split | apply runs_mk

theorem itemDeckWrite_runs {ks : Bool} {s₀ u₀ : State} (h₀ : Runs ks s₀ u₀) (id : Nat) (a : Nat) (bs : List Byte) :
    Runs ks s₀ (itemDeckWrite u₀ id a bs) := by
  unfold itemDeckWrite
  repeat' first
    | with_reducible assumption | (with_reducible intro _; try dsimp -zeta only) | with_reducible apply modItem_runs
    | with_reducible apply deckWriteFor_runs
    | (extract_lets +onlyGivenNames x; refine runs_cut (v := x) ?_ ?_; dsimp -zeta only [x]; clear x; rotate_left; intro _; clear_value x)
    | extract_lets +onlyGivenNames x | split | apply runs_mk

theorem itemWrite_runs {ks : Bool} {s₀ u₀ : State} (h₀ : Runs ks s₀ u₀) (id : Nat) (ctx : Nat) (addr : Nat) (bs : List Byte) : Runs ks s₀ (itemWrite u₀ id ctx addr bs) := by
  unfold itemWrite
  repeat' first
    | with_reducible assumption | (with_reducible intro _; try dsimp -zeta only) | with_reducible apply modItem_runs
    | with_reducible apply issueWrites_runs | with_reducible apply itemDeckWrite_runs
    | (extract_lets +onlyGivenNames x; refine runs_cut (v := x) ?_ ?_; dsimp -zeta only [x]; clear x; rotate_left; intro _; clear_value x)
    | extract_lets +onlyGivenNames x | split | apply runs_mk

theorem writeDst_runs {ks : Bool} {s₀ u₀ : State} (h₀ : Runs ks s₀ u₀) (id : Nat) (x : Ctx) (it : Item) (o : List Byte) (out : List Byte) (runs : List (Nat × Nat)) : Runs ks s₀ (writeDst u₀ id x it o out runs) := by
  unfold writeDst
  repeat' first
    | with_reducible assumption | (with_reducible intro _; try dsimp -zeta only) | with_reducible apply modItem_runs
    | with_reducible apply keepRuns_runs | with_reducible apply itemWrite_runs
    | (with_reducible refine runs_foldl ?_ _ _ (fun v x hv => ?_); rotate_left; try dsimp -zeta only)
    | (extract_lets +onlyGivenNames x; refine runs_cut (v := x) ?_ ?_; dsimp -zeta only [x]; clear x; rotate_left; intro _; clear_value x)
    | extract_lets +onlyGivenNames x | split | apply runs_mk

theorem decrement_runs {ks : Bool} {s₀ u₀ : State} (h₀ : Runs ks s₀ u₀) (ids : List Nat) :
    Runs ks s₀ (decrement u₀ ids) := by
  unfold decrement
  repeat' first
    | with_reducible assumption | (with_reducible intro _; try dsimp -zeta only) | with_reducible apply modItem_runs
    | (with_reducible refine runs_foldl ?_ _ _ (fun v x hv => ?_); rotate_left; try dsimp -zeta only)
    | extract_lets +onlyGivenNames x | apply runs_mk

theorem touchCell_runs {ks : Bool} {s₀ u₀ : State} (h₀ : Runs ks s₀ u₀) (a : Nat) : Runs ks s₀ (touchCell u₀ a) := by
  unfold touchCell
  repeat' first
    | with_reducible assumption | (with_reducible intro _; try dsimp -zeta only)
    | (extract_lets +onlyGivenNames x; refine runs_cut (v := x) ?_ ?_; dsimp -zeta only [x]; clear x; rotate_left; intro _; clear_value x)
    | extract_lets +onlyGivenNames x | split | apply runs_mk

theorem cellOp_runs {ks : Bool} {s₀ u₀ : State} (h₀ : Runs ks s₀ u₀) (a : Nat) (op : Nat) (operand : Nat) (compare : Nat) : Runs ks s₀ (cellOp u₀ a op operand compare) := by
  unfold cellOp
  repeat' first
    | with_reducible assumption | with_reducible apply deckWrite_runs | with_reducible apply touchCell_runs
    | (extract_lets +onlyGivenNames x; refine runs_cut (v := x) ?_ ?_; dsimp -zeta only [x]; clear x; rotate_left; intro _; clear_value x)
    | extract_lets +onlyGivenNames x

theorem issueAtomic_runs {ks : Bool} {s₀ u₀ : State} (h₀ : Runs ks s₀ u₀) (owner : Owner) (ctx : Nat) (ch : Nat) (a : Nat) (op : Nat) (operand : Nat) (compare : Nat) : Runs ks s₀ (issueAtomic u₀ owner ctx ch a op operand compare) := by
  unfold issueAtomic
  repeat' first
    | with_reducible assumption | with_reducible apply issue_runs
    | (extract_lets +onlyGivenNames x; refine runs_cut (v := x) ?_ ?_; dsimp -zeta only [x]; clear x; rotate_left; intro _; clear_value x)
    | extract_lets +onlyGivenNames x | apply runs_mk

theorem signalNow_runs {ks : Bool} {s₀ u₀ : State} (h₀ : Runs ks s₀ u₀) (owner : Owner) (ctx : Nat) (o : List Byte) :
    Runs ks s₀ (signalNow u₀ owner ctx o) := by
  unfold signalNow
  repeat' first
    | with_reducible assumption | with_reducible apply cellOp_runs | with_reducible apply issueAtomic_runs
    | (extract_lets +onlyGivenNames x; refine runs_cut (v := x) ?_ ?_; dsimp -zeta only [x]; clear x; rotate_left; intro _; clear_value x)
    | extract_lets +onlyGivenNames x | split

theorem skipSignals_runs {ks : Bool} {s₀ u₀ : State} (h₀ : Runs ks s₀ u₀) (id : Nat) (it : Item) :
    Runs ks s₀ (skipSignals u₀ id it) := by
  unfold skipSignals
  repeat' first
    | with_reducible assumption | (with_reducible intro _; try dsimp -zeta only) | with_reducible apply modDesc_runs
    | with_reducible apply modItem_runs | with_reducible apply signalNow_runs
    | (with_reducible refine runs_foldl ?_ _ _ (fun v x hv => ?_); rotate_left; try dsimp -zeta only)
    | (extract_lets +onlyGivenNames x; refine runs_cut (v := x) ?_ ?_; dsimp -zeta only [x]; clear x; rotate_left; intro _; clear_value x)
    | extract_lets +onlyGivenNames x | split | apply runs_mk

theorem freePier_runs {ks : Bool} {s₀ u₀ : State} (h₀ : Runs ks s₀ u₀) (id : Nat) : Runs ks s₀ (freePier u₀ id) := by
  unfold freePier
  repeat' first
    | with_reducible assumption
    | (with_reducible apply setPier_runs; rotate_left; first | exact id | exact fun _ => rfl | simp_all)
    | (extract_lets +onlyGivenNames x; refine runs_cut (v := x) ?_ ?_; dsimp -zeta only [x]; clear x; rotate_left; intro _; clear_value x)
    | extract_lets +onlyGivenNames x | split | apply runs_mk

theorem leaveWrites_runs {ks : Bool} {s₀ u₀ : State} (h₀ : Runs ks s₀ u₀) (id : Nat) (it : Item) :
    Runs ks s₀ (leaveWrites u₀ id it) := by
  unfold leaveWrites
  repeat' first
    | with_reducible assumption | (with_reducible intro _; try dsimp -zeta only) | with_reducible apply modDesc_runs
    | (extract_lets +onlyGivenNames x; refine runs_cut (v := x) ?_ ?_; dsimp -zeta only [x]; clear x; rotate_left; intro _; clear_value x)
    | extract_lets +onlyGivenNames x | split | apply runs_mk | apply runs_more

theorem flushLogs_runs {ks : Bool} {s₀ u₀ : State} (h₀ : Runs ks s₀ u₀) (c : Nat) (es : List (List Byte)) :
    Runs ks s₀ (flushLogs u₀ c es) := by
  unfold flushLogs
  repeat' first
    | with_reducible assumption | (with_reducible intro _; try dsimp -zeta only) | with_reducible apply event_runs
    | with_reducible apply bump_runs | with_reducible apply logWrite_runs
    | (with_reducible refine runs_foldl ?_ _ _ (fun v x hv => ?_); rotate_left; try dsimp -zeta only)

theorem commitItem_runs {ks : Bool} {s₀ u₀ : State} (h₀ : Runs ks s₀ u₀) (id : Nat) :
    Runs ks s₀ (commitItem u₀ id) := by
  unfold commitItem
  repeat' first
    | with_reducible assumption | (with_reducible intro _; try dsimp -zeta only) | with_reducible apply modDesc_runs
    | with_reducible apply modItem_runs | with_reducible apply trace_runs | with_reducible apply countQuarantine_runs
    | with_reducible apply decrement_runs | with_reducible apply skipSignals_runs | with_reducible apply freePier_runs
    | with_reducible apply leaveWrites_runs | with_reducible apply flushLogs_runs
    | (with_reducible refine runs_foldl ?_ _ _ (fun v x hv => ?_); rotate_left; try dsimp -zeta only)
    | (extract_lets +onlyGivenNames x; refine runs_cut (v := x) ?_ ?_; dsimp -zeta only [x]; clear x; rotate_left; intro _; clear_value x)
    | extract_lets +onlyGivenNames x | split | apply runs_mk | apply runs_more

theorem skipItem_runs {ks : Bool} {s₀ u₀ : State} (h₀ : Runs ks s₀ u₀) (id : Nat) (cause : SkipCause) :
    Runs ks s₀ (skipItem u₀ id cause) := by
  unfold skipItem
  repeat' first
    | with_reducible assumption | (with_reducible intro _; try dsimp -zeta only) | with_reducible apply modItem_runs
    | with_reducible apply commitItem_runs | extract_lets +onlyGivenNames x | apply runs_mk

theorem formEntries_lost (s : State) (q l n : Nat) (p : Pier) : (formEntries s q l n p).lost = p.lost := by
  induction n generalizing p with
  | zero => rfl
  | succ n ih =>
    unfold formEntries
    split
    · rfl
    · dsimp only
      split
      · rfl
      · split
        · rfl
        · exact ih _

theorem fetchFrom_runs {ks : Bool} {s₀ u₀ : State} (h₀ : Runs ks s₀ u₀) (id k : Nat) : Runs ks s₀ (fetchFrom u₀ id k) := by
  unfold fetchFrom
  split
  · split
    · exact h₀
    · exact setPier_runs h₀ _ _ (fun h => by rw [formEntries_lost]; exact h)
  · exact h₀

theorem advance_runs {ks : Bool} {s₀ u₀ : State} (h₀ : Runs ks s₀ u₀) (id cost : Nat) : Runs ks s₀ (advance u₀ id cost) := by
  unfold advance
  extract_lets s1
  have h1 : Runs ks s₀ s1 := modItem_runs h₀ _ _
  clear_value s1
  cases getItem s1 id with
  | none => exact h1
  | some it => exact runs_ite (fun _ => fetchFrom_runs h1 _ _) (fun _ => h1)

theorem applyRes_runs {ks : Bool} {s₀ u₀ : State} (h₀ : Runs ks s₀ u₀) (id : Nat) (x : Ctx) (it : Item) (o : List Byte) (r : OpRes) : Runs ks s₀ (applyRes u₀ id x it o r) := by
  unfold applyRes
  repeat' first
    | with_reducible assumption | (with_reducible intro _; try dsimp -zeta only) | with_reducible apply event_runs
    | with_reducible apply bump_runs | with_reducible apply modItem_runs | with_reducible apply itemWrite_runs
    | with_reducible apply writeDst_runs | with_reducible apply skipItem_runs | with_reducible apply advance_runs
    | (with_reducible refine runs_foldl ?_ _ _ (fun v x hv => ?_); rotate_left; try dsimp -zeta only)
    | (extract_lets +onlyGivenNames x; refine runs_cut (v := x) ?_ ?_; dsimp -zeta only [x]; clear x; rotate_left; intro _; clear_value x)
    | extract_lets +onlyGivenNames x | split | apply runs_mk

theorem takeOp_runs {ks : Bool} {s₀ u₀ : State} (h₀ : Runs ks s₀ u₀) (id code : Nat) :
    (∀ t, takeOp u₀ id code = .moved t → Runs ks s₀ t) ∧ (∀ t x it i, takeOp u₀ id code = .go t x it i → Runs ks s₀ t) := by
  unfold takeOp
  split
  · simp
  · split
    · simp
    · split
      · simp
      · extract_lets o a b c miss srcs fresh it1 s1 n runs dview d
        have h1 : Runs ks s₀ s1 := runs_ite (fun _ => bump_runs (modItem_runs h₀ _ _) _ _) (fun _ => h₀)
        clear_value s1 it1 d
        split
        · refine ⟨fun t ht => ?_, fun t x it i ht => by cases ht⟩
          cases ht
          exact askExtents_runs h₀ _ _
        · split
          · simp
          · split
            · refine ⟨fun t ht => ?_, fun t x it i ht => by cases ht⟩
              cases ht
              exact applyRes_runs h1 _ _ _ _ _
            · refine ⟨fun t ht => (by cases ht), fun t x it i ht => ?_⟩
              cases ht
              exact h1

theorem takeOp_moved {ks : Bool} {s₀ u₀ t : State} {id code : Nat} (h₀ : Runs ks s₀ u₀) (hq : takeOp u₀ id code = .moved t) : Runs ks s₀ t :=
  (takeOp_runs h₀ id code).1 t hq

theorem takeOp_go {ks : Bool} {s₀ u₀ t : State} {id code : Nat} {x : Ctx} {it : Item} {i : OpIn} (h₀ : Runs ks s₀ u₀)
    (hq : takeOp u₀ id code = .go t x it i) : Runs ks s₀ t :=
  (takeOp_runs h₀ id code).2 t x it i hq

theorem runOp_runs {ks : Bool} {s₀ u₀ : State} (h₀ : Runs ks s₀ u₀) (id code : Nat) (f : State → Ctx → Item → OpIn → OpRes) :
    Runs ks s₀ (runOp u₀ id code f) := by
  unfold runOp
  split
  · exact h₀
  · exact takeOp_moved h₀ (by with_reducible assumption)
  · exact applyRes_runs (takeOp_go h₀ (by with_reducible assumption)) _ _ _ _ _

/-! ### Landing -/

theorem modStream_runs {ks : Bool} {s₀ u₀ : State} (h₀ : Runs ks s₀ u₀) (c : Nat) (k : Nat) (f : Stream → Stream) :
    Runs ks s₀ (modStream u₀ c k f) := by
  unfold modStream
  repeat' first
    | with_reducible assumption | (with_reducible intro _; try dsimp -zeta only) | with_reducible apply modCtx_runs
    | extract_lets +onlyGivenNames x | apply runs_mk

theorem modHalt_runs {ks : Bool} {s₀ u₀ : State} (h₀ : Runs ks s₀ u₀) (c : Nat) (k : Nat) (f : Halt → Halt) :
    Runs ks s₀ (modHalt u₀ c k f) := by
  unfold modHalt
  repeat' first
    | with_reducible assumption | (with_reducible intro _; try dsimp -zeta only) | with_reducible apply modCtx_runs
    | extract_lets +onlyGivenNames x | apply runs_mk

theorem modBlock_runs {ks : Bool} {s₀ u₀ : State} (h₀ : Runs ks s₀ u₀) (c : Nat) (k : Nat) (b : Nat) (f : Block → Block) : Runs ks s₀ (modBlock u₀ c k b f) := by
  unfold modBlock
  repeat' first
    | with_reducible assumption | (with_reducible intro _; try dsimp -zeta only) | with_reducible apply modStream_runs
    | extract_lets +onlyGivenNames x | split | apply runs_mk

theorem modFrame_runs {ks : Bool} {s₀ u₀ : State} (h₀ : Runs ks s₀ u₀) (c : Nat) (k : Nat) (f : JFrame → JFrame) :
    Runs ks s₀ (modFrame u₀ c k f) := by
  unfold modFrame
  repeat' first
    | with_reducible assumption | (with_reducible intro _; try dsimp -zeta only) | with_reducible apply modCtx_runs
    | extract_lets +onlyGivenNames x | apply runs_mk

theorem modCommit_runs {ks : Bool} {s₀ u₀ : State} (h₀ : Runs ks s₀ u₀) (i : Nat) (f : Commit → Commit) :
    Runs ks s₀ (modCommit u₀ i f) := by
  unfold modCommit
  repeat' first | with_reducible assumption | extract_lets +onlyGivenNames x | apply runs_mk

theorem headerDone_runs {ks : Bool} {s₀ u₀ : State} (h₀ : Runs ks s₀ u₀) (c : Nat) (which : Nat) (sent : List Byte) :
    Runs ks s₀ (headerDone u₀ c which sent) := by
  unfold headerDone
  repeat' first
    | with_reducible assumption | with_reducible apply setCtx_runs | with_reducible apply issueWrites_runs
    | (extract_lets +onlyGivenNames x; refine runs_cut (v := x) ?_ ?_; dsimp -zeta only [x]; clear x; rotate_left; intro _; clear_value x)
    | extract_lets +onlyGivenNames x | split | apply runs_mk

theorem healAcked_runs {ks : Bool} {s₀ u₀ : State} (h₀ : Runs ks s₀ u₀)  : Runs ks s₀ (healAcked u₀) := by
  unfold healAcked
  repeat' first
    | with_reducible assumption | with_reducible apply issueWrites_runs
    | (extract_lets +onlyGivenNames x; refine runs_cut (v := x) ?_ ?_; dsimp -zeta only [x]; clear x; rotate_left; intro _; clear_value x)
    | extract_lets +onlyGivenNames x | split | apply runs_mk

theorem healHeaderDone_runs {ks : Bool} {s₀ u₀ : State} (h₀ : Runs ks s₀ u₀) (sent : List Byte) :
    Runs ks s₀ (healHeaderDone u₀ sent) := by
  unfold healHeaderDone
  repeat' first
    | with_reducible assumption | with_reducible apply issueWrites_runs
    | (extract_lets +onlyGivenNames x; refine runs_cut (v := x) ?_ ?_; dsimp -zeta only [x]; clear x; rotate_left; intro _; clear_value x)
    | extract_lets +onlyGivenNames x | split | apply runs_mk

theorem routeSend_runs {ks : Bool} {s₀ u₀ : State} (h₀ : Runs ks s₀ u₀) (dst : Nat) (ch : Nat) (p : Packet) :
    Runs ks s₀ (routeSend u₀ dst ch p) := by
  unfold routeSend
  repeat' first
    | with_reducible assumption | with_reducible apply spanSend_runs
    | (extract_lets +onlyGivenNames x; refine runs_cut (v := x) ?_ ?_; dsimp -zeta only [x]; clear x; rotate_left; intro _; clear_value x)
    | extract_lets +onlyGivenNames x | split

theorem answerPeer_runs {ks : Bool} {s₀ u₀ : State} (h₀ : Runs ks s₀ u₀) (h : SpanHdr) (status : Nat) (data : List Byte) : Runs ks s₀ (answerPeer u₀ h status data) := by
  unfold answerPeer
  repeat' first
    | with_reducible assumption | (with_reducible intro _; try dsimp -zeta only) | with_reducible apply routeSend_runs
    | (extract_lets +onlyGivenNames x; refine runs_cut (v := x) ?_ ?_; dsimp -zeta only [x]; clear x; rotate_left; intro _; clear_value x)
    | extract_lets +onlyGivenNames x | apply runs_mk

theorem accGood_runs {ks : Bool} {s₀ u₀ : State} (h₀ : Runs ks s₀ u₀) (a : Acc) (data : List Byte) :
    Runs ks s₀ (accGood u₀ a data) := by
  unfold accGood
  repeat' first
    | with_reducible assumption | (with_reducible intro _; try dsimp -zeta only) | with_reducible apply modCtx_runs
    | with_reducible apply modRing_runs | with_reducible apply modDesc_runs | with_reducible apply modItem_runs
    | with_reducible apply issueWrites_runs | with_reducible apply logAcked_runs | with_reducible apply trace_runs
    | with_reducible apply modRebuild_runs | with_reducible apply modMigration_runs
    | with_reducible apply modStream_runs | with_reducible apply modHalt_runs | with_reducible apply modBlock_runs
    | with_reducible apply modFrame_runs | with_reducible apply modCommit_runs | with_reducible apply headerDone_runs
    | with_reducible apply healAcked_runs | with_reducible apply healHeaderDone_runs
    | with_reducible apply answerPeer_runs
    | (extract_lets +onlyGivenNames x; refine runs_cut (v := x) ?_ ?_; dsimp -zeta only [x]; clear x; rotate_left; intro _; clear_value x)
    | extract_lets +onlyGivenNames x | split | apply runs_mk | apply runs_more

theorem accRepeat_runs {ks : Bool} {s₀ u₀ : State} (h₀ : Runs ks s₀ u₀) (i : Nat) (a : Acc) (status : Nat) :
    Runs ks s₀ (accRepeat u₀ i a status) := by
  unfold accRepeat
  repeat' first | with_reducible assumption | extract_lets +onlyGivenNames x | apply runs_mk

theorem dropAcc_runs {ks : Bool} {s₀ u₀ : State} (h₀ : Runs ks s₀ u₀) (i : Nat) : Runs ks s₀ (dropAcc u₀ i) := by
  unfold dropAcc
  repeat' first | with_reducible assumption | extract_lets +onlyGivenNames x | apply runs_mk

theorem orphan_runs {ks : Bool} {s₀ u₀ : State} (h₀ : Runs ks s₀ u₀) (p : Owner → Bool) :
    Runs ks s₀ (orphan u₀ p) := by
  unfold orphan
  repeat' first
    | with_reducible assumption | (with_reducible intro _; try dsimp -zeta only) | with_reducible apply freeHeld_runs
    | (extract_lets +onlyGivenNames x; refine runs_cut (v := x) ?_ ?_; dsimp -zeta only [x]; clear x; rotate_left; intro _; clear_value x)
    | extract_lets +onlyGivenNames x | split | apply runs_mk | apply runs_more

theorem denyItem_runs {ks : Bool} {s₀ u₀ : State} (h₀ : Runs ks s₀ u₀) (id : Nat) : Runs ks s₀ (denyItem u₀ id) := by
  unfold denyItem
  repeat' first
    | with_reducible assumption | with_reducible apply event_runs | with_reducible apply bump_runs
    | with_reducible apply skipItem_runs | extract_lets +onlyGivenNames x | split | apply runs_mk

theorem spanRefused_runs {ks : Bool} {s₀ u₀ : State} (h₀ : Runs ks s₀ u₀) (i : Nat) :
    Runs ks s₀ (spanRefused u₀ i) := by
  unfold spanRefused
  repeat' first
    | with_reducible assumption | with_reducible apply event_runs | with_reducible apply bump_runs
    | with_reducible apply dropAcc_runs

theorem accBad_runs {ks : Bool} {s₀ u₀ : State} (h₀ : Runs ks s₀ u₀) (i : Nat) (a : Acc) (status : Nat) :
    Runs ks s₀ (accBad u₀ i a status) := by
  unfold accBad
  repeat' first
    | with_reducible assumption | (with_reducible intro _; try dsimp -zeta only) | with_reducible apply event_runs
    | with_reducible apply bump_runs | with_reducible apply modRing_runs | with_reducible apply modDesc_runs
    | with_reducible apply modItem_runs | with_reducible apply logDropped_runs | with_reducible apply modRebuild_runs
    | with_reducible apply modMigration_runs | with_reducible apply modStream_runs | with_reducible apply modHalt_runs
    | with_reducible apply modBlock_runs | with_reducible apply modCommit_runs | with_reducible apply answerPeer_runs
    | with_reducible apply accRepeat_runs | with_reducible apply dropAcc_runs | with_reducible apply denyItem_runs
    | with_reducible apply spanRefused_runs
    | (extract_lets +onlyGivenNames x; refine runs_cut (v := x) ?_ ?_; dsimp -zeta only [x]; clear x; rotate_left; intro _; clear_value x)
    | extract_lets +onlyGivenNames x | split | apply runs_mk | apply runs_more

theorem accDone_runs {ks : Bool} {s₀ u₀ : State} (h₀ : Runs ks s₀ u₀) (i : Nat) (status : Nat) (data : List Byte) :
    Runs ks s₀ (accDone u₀ i status data) := by
  unfold accDone
  repeat' first
    | with_reducible assumption | with_reducible apply accGood_runs | with_reducible apply dropAcc_runs
    | with_reducible apply accBad_runs | extract_lets +onlyGivenNames x | split | apply runs_mk

theorem settleInstant_runs {ks : Bool} {s₀ u₀ : State} (h₀ : Runs ks s₀ u₀)  : Runs ks s₀ (settleInstant u₀) := by
  unfold settleInstant
  repeat' first
    | with_reducible assumption | (with_reducible intro _; try dsimp -zeta only) | with_reducible apply accDone_runs
    | (with_reducible refine runs_foldl ?_ _ _ (fun v x hv => ?_); rotate_left; try dsimp -zeta only)
    | extract_lets +onlyGivenNames x | apply runs_mk

theorem settle_runs {ks : Bool} {s₀ u₀ : State} (h₀ : Runs ks s₀ u₀)  : Runs ks s₀ (settle u₀) := by
  unfold settle
  repeat' first
    | with_reducible assumption | with_reducible apply noteSlicing_runs | with_reducible apply refreshReady_runs
    | with_reducible apply settleInstant_runs

theorem runsOut_finish {ks : Bool} {s₀ u₀ : State} (h₀ : Runs ks s₀ u₀) : RunsOut ks s₀ (finish u₀) := runsOut_ok (settle_runs h₀)

theorem nextTag_runs {ks : Bool} {s₀ u₀ : State} (h₀ : Runs ks s₀ u₀)  : Runs ks s₀ (nextTag u₀) := by
  unfold nextTag
  repeat' first
    | with_reducible assumption | with_reducible apply launch_runs | extract_lets +onlyGivenNames x | split
    | apply runs_mk

theorem closeTag_runs {ks : Bool} {s₀ u₀ : State} (h₀ : Runs ks s₀ u₀) (t : Nat) : Runs ks s₀ (closeTag u₀ t) := by
  unfold closeTag
  repeat' first
    | with_reducible assumption | with_reducible apply nextTag_runs | extract_lets +onlyGivenNames x | apply runs_mk

theorem kidBad_runs {ks : Bool} {s₀ u₀ : State} (h₀ : Runs ks s₀ u₀)  : Runs ks s₀ (kidBad u₀) := by
  unfold kidBad
  repeat' first | with_reducible assumption | with_reducible apply event_runs | with_reducible apply bump_runs

theorem keepLine_runs {ks : Bool} {s₀ u₀ : State} (h₀ : Runs ks s₀ u₀) (i : Nat) (a : Acc) (data : List Byte) :
    Runs ks s₀ (keepLine u₀ i a data) := by
  unfold keepLine
  repeat' first
    | with_reducible assumption
    | (extract_lets +onlyGivenNames x; refine runs_cut (v := x) ?_ ?_; dsimp -zeta only [x]; clear x; rotate_left; intro _; clear_value x)
    | extract_lets +onlyGivenNames x | split | apply runs_mk

theorem hostRead_runs {ks : Bool} {s₀ u₀ : State} (h₀ : Runs ks s₀ u₀) (tag : Nat) (data : List Byte) :
    Runs ks s₀ (hostRead u₀ tag data) := by
  unfold hostRead
  repeat' first
    | with_reducible assumption | with_reducible apply accDone_runs | with_reducible apply closeTag_runs
    | with_reducible apply kidBad_runs | with_reducible apply keepLine_runs | extract_lets +onlyGivenNames x | split
    | apply runs_mk

theorem hostReadDone_runs {ks : Bool} {s₀ u₀ : State} (h₀ : Runs ks s₀ u₀) (tag : Nat) (status : Nat) :
    Runs ks s₀ (hostReadDone u₀ tag status) := by
  unfold hostReadDone
  repeat' first
    | with_reducible assumption | with_reducible apply accDone_runs | with_reducible apply closeTag_runs
    | with_reducible apply kidBad_runs | extract_lets +onlyGivenNames x | split | apply runs_mk

theorem hostWriteDone_runs {ks : Bool} {s₀ u₀ : State} (h₀ : Runs ks s₀ u₀) (tag : Nat) (status : Nat) :
    Runs ks s₀ (hostWriteDone u₀ tag status) := by
  unfold hostWriteDone
  repeat' first
    | with_reducible assumption | with_reducible apply accDone_runs | with_reducible apply closeTag_runs
    | with_reducible apply kidBad_runs | extract_lets +onlyGivenNames x | split | apply runs_mk

theorem execReadData_runs {ks : Bool} {s₀ u₀ : State} (h₀ : Runs ks s₀ u₀) (tag : Nat) (data : List Byte) :
    RunsOut ks s₀ (execReadData tag data u₀) := by
  unfold execReadData
  repeat' first | with_reducible assumption | with_reducible apply runsOut_finish | with_reducible apply hostRead_runs

theorem execReadDone_runs {ks : Bool} {s₀ u₀ : State} (h₀ : Runs ks s₀ u₀) (tag : Nat) (status : Nat) :
    RunsOut ks s₀ (execReadDone tag status u₀) := by
  unfold execReadDone
  repeat' first
    | with_reducible assumption | with_reducible apply runsOut_finish | with_reducible apply hostReadDone_runs

theorem execWriteDone_runs {ks : Bool} {s₀ u₀ : State} (h₀ : Runs ks s₀ u₀) (tag : Nat) (status : Nat) :
    RunsOut ks s₀ (execWriteDone tag status u₀) := by
  unfold execWriteDone
  repeat' first
    | with_reducible assumption | with_reducible apply runsOut_finish | with_reducible apply hostWriteDone_runs

theorem nextWaiting_runs {ks : Bool} {s₀ u₀ : State} (h₀ : Runs ks s₀ u₀) (k : Nat) :
    Runs ks s₀ (nextWaiting u₀ k) := by
  unfold nextWaiting
  repeat' first
    | with_reducible assumption | with_reducible apply spanIssue_runs
    | (extract_lets +onlyGivenNames x; refine runs_cut (v := x) ?_ ?_; dsimp -zeta only [x]; clear x; rotate_left; intro _; clear_value x)
    | extract_lets +onlyGivenNames x | split | apply runs_mk

theorem closeRequest_runs {ks : Bool} {s₀ u₀ : State} (h₀ : Runs ks s₀ u₀) (i : Nat) :
    Runs ks s₀ (closeRequest u₀ i) := by
  unfold closeRequest
  repeat' first
    | with_reducible assumption | (with_reducible intro _; try dsimp -zeta only) | with_reducible apply dropAcc_runs
    | with_reducible apply nextWaiting_runs
    | (with_reducible refine runs_foldl ?_ _ _ (fun v x hv => ?_); rotate_left; try dsimp -zeta only)
    | (extract_lets +onlyGivenNames x; refine runs_cut (v := x) ?_ ?_; dsimp -zeta only [x]; clear x; rotate_left; intro _; clear_value x)
    | extract_lets +onlyGivenNames x | split | apply runs_mk

theorem readTimedOut_runs {ks : Bool} {s₀ u₀ : State} (h₀ : Runs ks s₀ u₀) (i : Nat) (a : Acc) :
    Runs ks s₀ (readTimedOut u₀ i a) := by
  unfold readTimedOut
  repeat' first
    | with_reducible assumption | (with_reducible intro _; try dsimp -zeta only) | with_reducible apply modRing_runs
    | with_reducible apply dropAcc_runs
    | (extract_lets +onlyGivenNames x; refine runs_cut (v := x) ?_ ?_; dsimp -zeta only [x]; clear x; rotate_left; intro _; clear_value x)
    | extract_lets +onlyGivenNames x | split | apply runs_mk

theorem execHostReadRetry_runs {ks : Bool} {s₀ u₀ : State} (h₀ : Runs ks s₀ u₀) (acc : Nat) :
    RunsOut ks s₀ (execHostReadRetry acc u₀) := by
  unfold execHostReadRetry
  repeat' first
    | with_reducible assumption | with_reducible apply runsOut_finish | with_reducible apply runsOut_ok
    | with_reducible apply launch_runs | with_reducible apply readTimedOut_runs | extract_lets +onlyGivenNames x
    | split | apply runs_mk

theorem execHostWriteRetry_runs {ks : Bool} {s₀ u₀ : State} (h₀ : Runs ks s₀ u₀) (acc : Nat) :
    RunsOut ks s₀ (execHostWriteRetry acc u₀) := by
  unfold execHostWriteRetry
  repeat' first
    | with_reducible assumption | with_reducible apply runsOut_finish | with_reducible apply runsOut_ok
    | with_reducible apply launch_runs | extract_lets +onlyGivenNames x | split | apply runs_mk

theorem execOutsideAccessRetry_runs {ks : Bool} {s₀ u₀ : State} (h₀ : Runs ks s₀ u₀) (acc : Nat) :
    RunsOut ks s₀ (execOutsideAccessRetry acc u₀) := by
  unfold execOutsideAccessRetry
  repeat' first
    | with_reducible assumption | with_reducible apply runsOut_finish | with_reducible apply runsOut_ok
    | with_reducible apply launch_runs | with_reducible apply dropAcc_runs | extract_lets +onlyGivenNames x | split
    | apply runs_mk | apply runs_more

theorem execBackingWriteRetry_runs {ks : Bool} {s₀ u₀ : State} (h₀ : Runs ks s₀ u₀) (acc : Nat) :
    RunsOut ks s₀ (execBackingWriteRetry acc u₀) := by
  unfold execBackingWriteRetry
  repeat' first
    | with_reducible assumption | with_reducible apply runsOut_finish | with_reducible apply runsOut_ok
    | with_reducible apply launch_runs | extract_lets +onlyGivenNames x | split | apply runs_mk

end Sys2Proof.Machine
end

