-- ==== Sys2Proof/Laws/RunsDeck.lean ====
section
/-!
SUPPORT. What the Deck, the rings, the ring commands and placement keep.
-/

namespace Sys2Proof.Machine

open Sys2Proof

set_option linter.tactic.unusedName false

/-! ### Rings -/

theorem wakeUp_runs {ks : Bool} {s₀ u₀ : State} (h₀ : Runs ks s₀ u₀)  : Runs ks s₀ (wakeUp u₀) := by
  unfold wakeUp
  repeat' first
    | with_reducible assumption | with_reducible apply rwStore_runs
    | (extract_lets +onlyGivenNames x; refine runs_cut (v := x) ?_ ?_; dsimp -zeta only [x]; clear x; rotate_left; intro _; clear_value x)
    | extract_lets +onlyGivenNames x | split | apply runs_mk

theorem badDoorbell_runs {ks : Bool} {s₀ u₀ : State} (h₀ : Runs ks s₀ u₀) (free : Bool) :
    Runs ks s₀ (badDoorbell u₀ free) := by
  unfold badDoorbell
  repeat' first
    | with_reducible assumption | with_reducible apply event_runs | with_reducible apply bump_runs
    | (extract_lets +onlyGivenNames x; refine runs_cut (v := x) ?_ ?_; dsimp -zeta only [x]; clear x; rotate_left; intro _; clear_value x)
    | extract_lets +onlyGivenNames x | split | apply runs_more

theorem onContext_runs {ks : Bool} {s₀ u₀ : State} (h₀ : Runs ks s₀ u₀) (c value : Nat) (f : Ctx → State) (hf : ∀ x, Runs ks s₀ (f x)) :
    Runs ks s₀ (onContext u₀ c value f) := by
  unfold onContext
  split
  · exact badDoorbell_runs h₀ _
  · split
    · exact badDoorbell_runs h₀ _
    · exact hf _

theorem onRing_runs {ks : Bool} {s₀ u₀ : State} (h₀ : Runs ks s₀ u₀) (c r value : Nat) (f : Ring → State) (hf : ∀ x, Runs ks s₀ (f x)) :
    Runs ks s₀ (onRing u₀ c r value f) := by
  unfold onRing
  refine onContext_runs h₀ _ _ _ (fun x => ?_)
  split
  · exact badDoorbell_runs h₀ _
  · exact hf _

theorem tailDoorbell_runs {ks : Bool} {s₀ u₀ : State} (h₀ : Runs ks s₀ u₀) (c : Nat) (r : Nat) (value : Nat) :
    Runs ks s₀ (tailDoorbell u₀ c r value) := by
  unfold tailDoorbell
  repeat' first
    | with_reducible assumption | (with_reducible intro _; try dsimp -zeta only) | with_reducible apply modRing_runs
    | with_reducible apply trace_runs | with_reducible apply wakeUp_runs | with_reducible apply badDoorbell_runs
    | with_reducible apply onRing_runs
    | (extract_lets +onlyGivenNames x; refine runs_cut (v := x) ?_ ?_; dsimp -zeta only [x]; clear x; rotate_left; intro _; clear_value x)
    | extract_lets +onlyGivenNames x | split | apply runs_mk

theorem headDoorbell_runs {ks : Bool} {s₀ u₀ : State} (h₀ : Runs ks s₀ u₀) (c : Nat) (r : Nat) (value : Nat) :
    Runs ks s₀ (headDoorbell u₀ c r value) := by
  unfold headDoorbell
  repeat' first
    | with_reducible assumption | (with_reducible intro _; try dsimp -zeta only) | with_reducible apply modRing_runs
    | with_reducible apply trace_runs | with_reducible apply badDoorbell_runs | with_reducible apply onRing_runs
    | extract_lets +onlyGivenNames x | split | apply runs_mk

theorem logDoorbell_runs {ks : Bool} {s₀ u₀ : State} (h₀ : Runs ks s₀ u₀) (c : Nat) (which : Nat) (value : Nat) :
    Runs ks s₀ (logDoorbell u₀ c which value) := by
  unfold logDoorbell
  repeat' first
    | with_reducible assumption | (with_reducible intro _; try dsimp -zeta only) | with_reducible apply setCtx_runs
    | with_reducible apply trace_runs | with_reducible apply badDoorbell_runs | with_reducible apply onContext_runs
    | (extract_lets +onlyGivenNames x; refine runs_cut (v := x) ?_ ?_; dsimp -zeta only [x]; clear x; rotate_left; intro _; clear_value x)
    | extract_lets +onlyGivenNames x | split | apply runs_mk

theorem doorbellAt_runs {ks : Bool} {s₀ u₀ : State} (h₀ : Runs ks s₀ u₀) (c : Nat) (o : Nat) (value : Nat) :
    Runs ks s₀ (doorbellAt u₀ c o value) := by
  unfold doorbellAt
  repeat' first
    | with_reducible assumption | with_reducible apply badDoorbell_runs | with_reducible apply tailDoorbell_runs
    | with_reducible apply headDoorbell_runs | with_reducible apply logDoorbell_runs | split

theorem hostDoorbell_runs {ks : Bool} {s₀ u₀ : State} (h₀ : Runs ks s₀ u₀) (off : Nat) (value : Nat) :
    Runs ks s₀ (hostDoorbell u₀ off value) := by
  unfold hostDoorbell
  repeat' first
    | with_reducible assumption | with_reducible apply kidBad_runs | with_reducible apply doorbellAt_runs | split

theorem execSubmissionTail_runs {ks : Bool} {s₀ u₀ : State} (h₀ : Runs ks s₀ u₀) (ctx : Nat) (ring : Nat) (value : Nat) : RunsOut ks s₀ (execSubmissionTail ctx ring value u₀) := by
  unfold execSubmissionTail
  repeat' first
    | with_reducible assumption | with_reducible apply runsOut_finish | with_reducible apply tailDoorbell_runs

theorem execCompletionHead_runs {ks : Bool} {s₀ u₀ : State} (h₀ : Runs ks s₀ u₀) (ctx : Nat) (ring : Nat) (value : Nat) : RunsOut ks s₀ (execCompletionHead ctx ring value u₀) := by
  unfold execCompletionHead
  repeat' first
    | with_reducible assumption | with_reducible apply runsOut_finish | with_reducible apply headDoorbell_runs

theorem execQuarantineLogHead_runs {ks : Bool} {s₀ u₀ : State} (h₀ : Runs ks s₀ u₀) (ctx : Nat) (value : Nat) :
    RunsOut ks s₀ (execQuarantineLogHead ctx value u₀) := by
  unfold execQuarantineLogHead
  repeat' first
    | with_reducible assumption | with_reducible apply runsOut_finish | with_reducible apply logDoorbell_runs

theorem execHaltLogHead_runs {ks : Bool} {s₀ u₀ : State} (h₀ : Runs ks s₀ u₀) (ctx : Nat) (value : Nat) :
    RunsOut ks s₀ (execHaltLogHead ctx value u₀) := by
  unfold execHaltLogHead
  repeat' first
    | with_reducible assumption | with_reducible apply runsOut_finish | with_reducible apply logDoorbell_runs

theorem execEventTraceHead_runs {ks : Bool} {s₀ u₀ : State} (h₀ : Runs ks s₀ u₀) (ctx : Nat) (value : Nat) :
    RunsOut ks s₀ (execEventTraceHead ctx value u₀) := by
  unfold execEventTraceHead
  repeat' first
    | with_reducible assumption | with_reducible apply runsOut_finish | with_reducible apply logDoorbell_runs

theorem execDescriptorFetch_runs {ks : Bool} {s₀ u₀ : State} (h₀ : Runs ks s₀ u₀) (ctx : Nat) (ring : Nat) :
    RunsOut ks s₀ (execDescriptorFetch ctx ring u₀) := by
  unfold execDescriptorFetch
  repeat' first
    | with_reducible assumption | (with_reducible intro _; try dsimp -zeta only) | with_reducible apply runsOut_finish
    | with_reducible apply runsOut_ok | with_reducible apply modRing_runs | with_reducible apply issue_runs
    | with_reducible apply trace_runs
    | (extract_lets +onlyGivenNames x; refine runsOut_cut (v := x) ?_ ?_; dsimp -zeta only [x]; clear x; rotate_left; intro _; clear_value x)
    | (extract_lets +onlyGivenNames x; refine runs_cut (v := x) ?_ ?_; dsimp -zeta only [x]; clear x; rotate_left; intro _; clear_value x)
    | extract_lets +onlyGivenNames x | split | apply runs_mk

theorem consume_runs {ks : Bool} {s₀ u₀ : State} (h₀ : Runs ks s₀ u₀) (c : Nat) (r : Nat) (d : Desc) :
    Runs ks s₀ (consume u₀ c r d) := by
  unfold consume
  repeat' first
    | with_reducible assumption | (with_reducible intro _; try dsimp -zeta only) | with_reducible apply modRing_runs
    | (extract_lets +onlyGivenNames x; refine runs_cut (v := x) ?_ ?_; dsimp -zeta only [x]; clear x; rotate_left; intro _; clear_value x)
    | extract_lets +onlyGivenNames x | split | apply runs_mk

theorem completeHead_runs {ks : Bool} {s₀ u₀ : State} (h₀ : Runs ks s₀ u₀) (c : Nat) (r : Nat) (raw : List Byte) (status : Nat) (detail : Nat) : Runs ks s₀ (completeHead u₀ c r raw status detail) := by
  unfold completeHead
  repeat' first
    | with_reducible assumption | with_reducible apply event_runs | with_reducible apply consume_runs
    | (extract_lets +onlyGivenNames x; refine runs_cut (v := x) ?_ ?_; dsimp -zeta only [x]; clear x; rotate_left; intro _; clear_value x)
    | extract_lets +onlyGivenNames x | split | apply runs_mk

theorem completeDesc_runs {ks : Bool} {s₀ u₀ : State} (h₀ : Runs ks s₀ u₀) (c : Nat) (r : Nat) (i : Nat) (status : Nat) (detail : Nat) : Runs ks s₀ (completeDesc u₀ c r i status detail) := by
  unfold completeDesc
  repeat' first
    | with_reducible assumption | (with_reducible intro _; try dsimp -zeta only) | with_reducible apply modDesc_runs
    | extract_lets +onlyGivenNames x | split | apply runs_mk

theorem execStatusWordWrite_runs {ks : Bool} {s₀ u₀ : State} (h₀ : Runs ks s₀ u₀) (ctx : Nat) (ring : Nat) :
    RunsOut ks s₀ (execStatusWordWrite ctx ring u₀) := by
  unfold execStatusWordWrite
  repeat' first
    | with_reducible assumption | (with_reducible intro _; try dsimp -zeta only) | with_reducible apply runsOut_finish
    | with_reducible apply runsOut_ok | with_reducible apply modRing_runs | with_reducible apply issueWrites_runs
    | (extract_lets +onlyGivenNames x; refine runsOut_cut (v := x) ?_ ?_; dsimp -zeta only [x]; clear x; rotate_left; intro _; clear_value x)
    | (extract_lets +onlyGivenNames x; refine runs_cut (v := x) ?_ ?_; dsimp -zeta only [x]; clear x; rotate_left; intro _; clear_value x)
    | extract_lets +onlyGivenNames x | split | apply runs_mk

theorem execMsgWake_runs {ks : Bool} {s₀ u₀ : State} (h₀ : Runs ks s₀ u₀) (ctx : Nat) (ring : Nat) :
    RunsOut ks s₀ (execMsgWake ctx ring u₀) := by
  unfold execMsgWake
  repeat' first
    | with_reducible assumption | (with_reducible intro _; try dsimp -zeta only) | with_reducible apply runsOut_ok
    | with_reducible apply modRing_runs | with_reducible apply kidSend_runs
    | (extract_lets +onlyGivenNames x; refine runsOut_cut (v := x) ?_ ?_; dsimp -zeta only [x]; clear x; rotate_left; intro _; clear_value x)
    | (extract_lets +onlyGivenNames x; refine runs_cut (v := x) ?_ ?_; dsimp -zeta only [x]; clear x; rotate_left; intro _; clear_value x)
    | extract_lets +onlyGivenNames x | split | apply runs_mk

/-! ### Commands -/

theorem takeCommand_runs {ks : Bool} {s₀ u₀ t : State} {c r code : Nat} {named : List (Nat × Nat)} {need : List Byte → List Byte → Nat}
    (hq : takeCommand u₀ c r code named need = .moved t) (h₀ : Runs ks s₀ u₀) : Runs ks s₀ t := by
  unfold takeCommand at hq
  split at hq
  · cases hq
  · extract_lets a got n at hq
    repeat' split at hq
    all_goals first
      | (cases hq; exact completeHead_runs h₀ _ _ _ _ _)
      | (cases hq; exact modRing_runs h₀ _ _ _)
      | (cases hq; exact issue_runs (modRing_runs h₀ _ _ _) _)
      | cases hq

theorem command_runs {ks : Bool} {s₀ u₀ : State} (h₀ : Runs ks s₀ u₀) (c r code : Nat) (named : List (Nat × Nat))
    (need : List Byte → List Byte → Nat) (f : Ctx → List Byte → List Byte → State) (hf : ∀ x y z, Runs ks s₀ (f x y z)) :
    Runs ks s₀ (command u₀ c r code named need f) := by
  unfold command
  split
  · exact h₀
  · exact takeCommand_runs (by assumption) h₀
  · exact hf _ _ _

theorem startCommand_runs {ks : Bool} {s₀ u₀ : State} (h₀ : Runs ks s₀ u₀) (c : Nat) (r : Nat) (raw : List Byte) :
    Runs ks s₀ (startCommand u₀ c r raw) := by
  unfold startCommand
  repeat' first
    | with_reducible assumption | with_reducible apply consume_runs | extract_lets +onlyGivenNames x | apply runs_mk

theorem execChainRemove_runs {ks : Bool} {s₀ u₀ : State} (h₀ : Runs ks s₀ u₀) (ctx : Nat) (ring : Nat) :
    RunsOut ks s₀ (execChainRemove ctx ring u₀) := by
  unfold execChainRemove
  repeat' first
    | with_reducible assumption | (with_reducible intro _; try dsimp -zeta only) | with_reducible apply runsOut_finish
    | with_reducible apply setCtx_runs | with_reducible apply modCtx_runs | with_reducible apply completeHead_runs
    | with_reducible apply completeDesc_runs | with_reducible apply command_runs
    | with_reducible apply startCommand_runs
    | (extract_lets +onlyGivenNames x; refine runsOut_cut (v := x) ?_ ?_; dsimp -zeta only [x]; clear x; rotate_left; intro _; clear_value x)
    | (extract_lets +onlyGivenNames x; refine runs_cut (v := x) ?_ ?_; dsimp -zeta only [x]; clear x; rotate_left; intro _; clear_value x)
    | extract_lets +onlyGivenNames x | split | apply runs_mk

theorem execFlowOpen_runs {ks : Bool} {s₀ u₀ : State} (h₀ : Runs ks s₀ u₀) (ctx : Nat) (ring : Nat) :
    RunsOut ks s₀ (execFlowOpen ctx ring u₀) := by
  unfold execFlowOpen
  repeat' first
    | with_reducible assumption | (with_reducible intro _; try dsimp -zeta only) | with_reducible apply runsOut_finish
    | with_reducible apply completeHead_runs | with_reducible apply command_runs
    | (extract_lets +onlyGivenNames x; refine runsOut_cut (v := x) ?_ ?_; dsimp -zeta only [x]; clear x; rotate_left; intro _; clear_value x)
    | (extract_lets +onlyGivenNames x; refine runs_cut (v := x) ?_ ?_; dsimp -zeta only [x]; clear x; rotate_left; intro _; clear_value x)
    | extract_lets +onlyGivenNames x | split | apply runs_mk

theorem execFlowClose_runs {ks : Bool} {s₀ u₀ : State} (h₀ : Runs ks s₀ u₀) (ctx : Nat) (ring : Nat) :
    RunsOut ks s₀ (execFlowClose ctx ring u₀) := by
  unfold execFlowClose
  repeat' first
    | with_reducible assumption | (with_reducible intro _; try dsimp -zeta only) | with_reducible apply runsOut_finish
    | with_reducible apply completeHead_runs | with_reducible apply completeDesc_runs
    | with_reducible apply command_runs | with_reducible apply startCommand_runs
    | (extract_lets +onlyGivenNames x; refine runsOut_cut (v := x) ?_ ?_; dsimp -zeta only [x]; clear x; rotate_left; intro _; clear_value x)
    | (extract_lets +onlyGivenNames x; refine runs_cut (v := x) ?_ ?_; dsimp -zeta only [x]; clear x; rotate_left; intro _; clear_value x)
    | extract_lets +onlyGivenNames x | split | apply runs_mk

theorem execRangeAdd_runs {ks : Bool} {s₀ u₀ : State} (h₀ : Runs ks s₀ u₀) (ctx : Nat) (ring : Nat) :
    RunsOut ks s₀ (execRangeAdd ctx ring u₀) := by
  unfold execRangeAdd
  repeat' first
    | with_reducible assumption | (with_reducible intro _; try dsimp -zeta only) | with_reducible apply runsOut_finish
    | with_reducible apply setCtx_runs | with_reducible apply completeHead_runs | with_reducible apply command_runs
    | (extract_lets +onlyGivenNames x; refine runsOut_cut (v := x) ?_ ?_; dsimp -zeta only [x]; clear x; rotate_left; intro _; clear_value x)
    | (extract_lets +onlyGivenNames x; refine runs_cut (v := x) ?_ ?_; dsimp -zeta only [x]; clear x; rotate_left; intro _; clear_value x)
    | extract_lets +onlyGivenNames x | split | apply runs_mk

theorem execRangeRemove_runs {ks : Bool} {s₀ u₀ : State} (h₀ : Runs ks s₀ u₀) (ctx : Nat) (ring : Nat) :
    RunsOut ks s₀ (execRangeRemove ctx ring u₀) := by
  unfold execRangeRemove
  repeat' first
    | with_reducible assumption | (with_reducible intro _; try dsimp -zeta only) | with_reducible apply runsOut_finish
    | with_reducible apply setCtx_runs | with_reducible apply completeHead_runs | with_reducible apply command_runs
    | (extract_lets +onlyGivenNames x; refine runsOut_cut (v := x) ?_ ?_; dsimp -zeta only [x]; clear x; rotate_left; intro _; clear_value x)
    | (extract_lets +onlyGivenNames x; refine runs_cut (v := x) ?_ ?_; dsimp -zeta only [x]; clear x; rotate_left; intro _; clear_value x)
    | extract_lets +onlyGivenNames x | split | apply runs_mk

theorem execTensorCreate_runs {ks : Bool} {s₀ u₀ : State} (h₀ : Runs ks s₀ u₀) (ctx : Nat) (ring : Nat) :
    RunsOut ks s₀ (execTensorCreate ctx ring u₀) := by
  unfold execTensorCreate
  repeat' first
    | with_reducible assumption | (with_reducible intro _; try dsimp -zeta only) | with_reducible apply runsOut_finish
    | with_reducible apply setCtx_runs | with_reducible apply completeHead_runs | with_reducible apply command_runs
    | (extract_lets +onlyGivenNames x; refine runsOut_cut (v := x) ?_ ?_; dsimp -zeta only [x]; clear x; rotate_left; intro _; clear_value x)
    | (extract_lets +onlyGivenNames x; refine runs_cut (v := x) ?_ ?_; dsimp -zeta only [x]; clear x; rotate_left; intro _; clear_value x)
    | extract_lets +onlyGivenNames x | split | apply runs_mk

theorem execTensorDestroy_runs {ks : Bool} {s₀ u₀ : State} (h₀ : Runs ks s₀ u₀) (ctx : Nat) (ring : Nat) :
    RunsOut ks s₀ (execTensorDestroy ctx ring u₀) := by
  unfold execTensorDestroy
  repeat' first
    | with_reducible assumption | (with_reducible intro _; try dsimp -zeta only) | with_reducible apply runsOut_finish
    | with_reducible apply setCtx_runs | with_reducible apply modCtx_runs | with_reducible apply completeHead_runs
    | with_reducible apply completeDesc_runs | with_reducible apply command_runs
    | with_reducible apply startCommand_runs
    | (extract_lets +onlyGivenNames x; refine runsOut_cut (v := x) ?_ ?_; dsimp -zeta only [x]; clear x; rotate_left; intro _; clear_value x)
    | (extract_lets +onlyGivenNames x; refine runs_cut (v := x) ?_ ?_; dsimp -zeta only [x]; clear x; rotate_left; intro _; clear_value x)
    | extract_lets +onlyGivenNames x | split | apply runs_mk

/-! ### Deck -/

theorem faultTrace_runs {ks : Bool} {s₀ u₀ : State} (h₀ : Runs ks s₀ u₀) (c : Nat) (src : Nat) (object : Nat) :
    Runs ks s₀ (faultTrace u₀ c src object) := by
  unfold faultTrace
  repeat' first | with_reducible assumption | with_reducible apply trace_runs

theorem dropStaged_runs {ks : Bool} {s₀ u₀ : State} (h₀ : Runs ks s₀ u₀) (p : Nat → Bool) :
    Runs ks s₀ (dropStaged u₀ p) := by
  unfold dropStaged
  repeat' first
    | with_reducible assumption | (with_reducible intro _; try dsimp -zeta only) | extract_lets +onlyGivenNames x
    | apply runs_mk

theorem fixMirror_runs {ks : Bool} {s₀ u₀ : State} (h₀ : Runs ks s₀ u₀) (b : Nat) : Runs ks s₀ (fixMirror u₀ b) := by
  unfold fixMirror
  exact healLog_runs (bump_runs (putMem_runs h₀ _ _ _ _ _ _ _ _ _ _ _ _ _ _) _ _) _

theorem recoverPlain_runs {ks : Bool} {s₀ u₀ : State} (h₀ : Runs ks s₀ u₀) (q : Option (Nat × Nat)) : Runs ks s₀ (recoverPlain u₀ q) := by
  cases q with
  | some q => exact startRebuild_runs h₀ _ _ _
  | none => exact bump_runs h₀ _ _

theorem recoverFrom_runs {ks : Bool} {s₀ u₀ : State} (h₀ : Runs ks s₀ u₀) (b : Nat) (q : Option Nat) : Runs ks s₀ (recoverFrom u₀ b q) := by
  cases q with
  | some q => exact runs_ite (fun _ => h₀) (fun _ => fixMirror_runs h₀ _)
  | none => exact runs_ite (fun _ => dropStaged_runs h₀ _) (fun _ => recoverPlain_runs h₀ _)

theorem recover_runs {ks : Bool} {s₀ u₀ : State} (h₀ : Runs ks s₀ u₀) (b : Nat) : Runs ks s₀ (recover u₀ b) := recoverFrom_runs h₀ _ _

theorem blockRead_runs {ks : Bool} {s₀ u₀ : State} (h₀ : Runs ks s₀ u₀) (b : Nat) (errBytes : Nat) :
    Runs ks s₀ (blockRead u₀ b errBytes) := by
  unfold blockRead
  repeat' first
    | with_reducible assumption | with_reducible apply bump_runs | with_reducible apply countBad_runs
    | with_reducible apply recover_runs
    | (extract_lets +onlyGivenNames x; refine runs_cut (v := x) ?_ ?_; dsimp -zeta only [x]; clear x; rotate_left; intro _; clear_value x)
    | extract_lets +onlyGivenNames x | split | apply runs_mk

theorem execDeckReadData_runs {ks : Bool} {s₀ u₀ : State} (h₀ : Runs ks s₀ u₀) (pier : Nat) (entry : Nat) (block : Nat) (errBytes : Nat) : RunsOut ks s₀ (execDeckReadData pier entry block errBytes u₀) := by
  unfold execDeckReadData
  repeat' first
    | (with_reducible refine setPier_runs ?_ _ _ (fun h => (by rw [formEntries_lost]; exact h)))
    | with_reducible assumption
    | exact runsOut_fault _
    | with_reducible apply runsOut_finish
    | with_reducible apply runsOut_ok
    | (with_reducible intro _; try dsimp -zeta only)
    | with_reducible apply faultTrace_runs
    | with_reducible apply blockRead_runs
    | (with_reducible apply setPier_runs; rotate_left; first | exact id | exact fun _ => rfl | simp_all)
    | (with_reducible refine runs_foldl ?_ _ _ (fun v x hv => ?_); rotate_left; try dsimp -zeta only)
    | (extract_lets +onlyGivenNames x; refine runsOut_cut (v := x) ?_ ?_; dsimp -zeta only [x]; clear x; rotate_left; intro _; clear_value x)
    | (extract_lets +onlyGivenNames x; refine runs_cut (v := x) ?_ ?_; dsimp -zeta only [x]; clear x; rotate_left; intro _; clear_value x)
    | extract_lets +onlyGivenNames x
    | split
    | (clear_value *; split)
    | (with_reducible apply runs_mk; first | with_reducible assumption | with_reducible apply faultTrace_runs | with_reducible apply blockRead_runs)
    | (apply runs_mk; first | with_reducible assumption | with_reducible apply faultTrace_runs | with_reducible apply blockRead_runs)
    | (apply runs_more; first | with_reducible assumption | with_reducible apply faultTrace_runs | with_reducible apply blockRead_runs)

theorem execPatrolScrub_runs {ks : Bool} {s₀ u₀ : State} (h₀ : Runs ks s₀ u₀) (channel : Nat) (errBytes : Nat) :
    RunsOut ks s₀ (execPatrolScrub channel errBytes u₀) := by
  unfold execPatrolScrub
  repeat' first
    | with_reducible assumption | exact runsOut_fault _ | with_reducible apply runsOut_finish
    | with_reducible apply runsOut_ok | with_reducible apply blockRead_runs
    | (extract_lets +onlyGivenNames x; refine runsOut_cut (v := x) ?_ ?_; dsimp -zeta only [x]; clear x; rotate_left; intro _; clear_value x)
    | (extract_lets +onlyGivenNames x; refine runs_cut (v := x) ?_ ?_; dsimp -zeta only [x]; clear x; rotate_left; intro _; clear_value x)
    | extract_lets +onlyGivenNames x | split | apply runs_mk

theorem abandonOn_runs {ks : Bool} {s₀ u₀ : State} (h₀ : Runs ks s₀ u₀) (ch : Nat) : Runs ks s₀ (abandonOn u₀ ch) := by
  unfold abandonOn
  repeat' first
    | with_reducible assumption | (with_reducible intro _; try dsimp -zeta only)
    | with_reducible apply givePlaces_runs | with_reducible apply abandon_runs
    | (with_reducible refine runs_foldl ?_ _ _ (fun v x hv => ?_); rotate_left; try dsimp -zeta only)
    | extract_lets +onlyGivenNames x | split | apply runs_mk

/-- Channels and stacks that are gone stay in their lists when more are added. -/
theorem lose_runs {ks : Bool} {s₀ u₀ : State} (h₀ : Runs ks s₀ u₀) (more : List Nat) (moreStacks : List Nat)
    (d2 d4 d5 d8 d9 d10 d11 d12 d13 d14 d15 d16) :
    Runs ks s₀ { u₀ with
      deck := DeckState.mk u₀.deck.mem d2 u₀.deck.gen d4 d5 (u₀.deck.lost ++ more) (u₀.deck.stacksOut ++ moreStacks)
        d8 d9 d10 d11 d12 d13 d14 d15 d16 } :=
  ⟨⟨h₀.keeps.mem, h₀.keeps.pending, h₀.keeps.fuses, h₀.keeps.free⟩, (fun e => ⟨(h₀.still e).clock, (h₀.still e).timing, (h₀.still e).trestle,
    (h₀.still e).parapets, (h₀.still e).pads, (h₀.still e).fuses, (h₀.still e).package⟩), h₀.out,
    fun c m => List.mem_append_left _ (h₀.chans c m), fun c m => List.mem_append_left _ (h₀.stks c m), h₀.piers⟩

theorem loseChannel_runs {ks : Bool} {s₀ u₀ : State} (h₀ : Runs ks s₀ u₀) (ch : Nat) : Runs ks s₀ (loseChannel u₀ ch) := by
  unfold loseChannel
  split
  · exact h₀
  · have h1 := lose_runs h₀ [ch] []
    rw [List.append_nil] at h1
    exact abandonOn_runs (healLog_runs (event_runs (h1 _ _ _ _ _ _ _ _ _ _ _ _) _ _) _) _

theorem execChannelLost_runs {ks : Bool} {s₀ u₀ : State} (h₀ : Runs ks s₀ u₀) (channel : Nat) (cause : DeckCause) :
    RunsOut ks s₀ (execChannelLost channel cause u₀) := by
  unfold execChannelLost
  repeat' first
    | with_reducible assumption | exact runsOut_fault _ | with_reducible apply runsOut_finish
    | with_reducible apply runsOut_ok | with_reducible apply loseChannel_runs
    | (extract_lets +onlyGivenNames x; refine runsOut_cut (v := x) ?_ ?_; dsimp -zeta only [x]; clear x; rotate_left; intro _; clear_value x)
    | (extract_lets +onlyGivenNames x; refine runs_cut (v := x) ?_ ?_; dsimp -zeta only [x]; clear x; rotate_left; intro _; clear_value x)
    | extract_lets +onlyGivenNames x | split | apply runs_mk

theorem loseStack_runs {ks : Bool} {s₀ u₀ : State} (h₀ : Runs ks s₀ u₀) (st : Nat) : Runs ks s₀ (loseStack u₀ st) := by
  unfold loseStack
  refine runs_foldl ?_ _ _ (fun v x hv => loseChannel_runs hv _)
  have h1 := lose_runs h₀ [] [st]
  rw [List.append_nil] at h1
  exact healLog_runs (event_runs (h1 _ _ _ _ _ _ _ _ _ _ _ _) _ _) _

theorem execStackLost_runs {ks : Bool} {s₀ u₀ : State} (h₀ : Runs ks s₀ u₀) (stack : Nat) (cause : DeckCause) :
    RunsOut ks s₀ (execStackLost stack cause u₀) := by
  unfold execStackLost
  repeat' first
    | with_reducible assumption | (with_reducible intro _; try dsimp -zeta only) | exact runsOut_fault _
    | with_reducible apply runsOut_finish | with_reducible apply runsOut_ok | with_reducible apply loseStack_runs
    | (extract_lets +onlyGivenNames x; refine runsOut_cut (v := x) ?_ ?_; dsimp -zeta only [x]; clear x; rotate_left; intro _; clear_value x)
    | (extract_lets +onlyGivenNames x; refine runs_cut (v := x) ?_ ?_; dsimp -zeta only [x]; clear x; rotate_left; intro _; clear_value x)
    | extract_lets +onlyGivenNames x | split | apply runs_mk

theorem fillChannel_runs {ks : Bool} {s₀ u₀ : State} (h₀ : Runs ks s₀ u₀) (ch : Nat) : Runs ks s₀ (fillChannel u₀ ch) := by
  unfold fillChannel
  have h1 := dropStaged_runs h₀ (fun b => channelOf (b * 64) == ch && !(u₀.deck.healed.contains b))
  generalize dropStaged u₀ (fun b => channelOf (b * 64) == ch && !(u₀.deck.healed.contains b)) = v at h1
  refine ⟨⟨fun m => ?_, h1.keeps.pending, h1.keeps.fuses, h1.keeps.free⟩, (fun e => ⟨(h1.still e).clock, (h1.still e).timing, (h1.still e).trestle,
    (h1.still e).parapets, (h1.still e).pads, (h1.still e).fuses, (h1.still e).package⟩), h1.out, h1.chans, h1.stks, h1.piers⟩
  have hm := h1.keeps.mem m
  show Memory.wf (deckDefault v) (List.foldl _ v.deck.mem _) = true
  generalize (v.deck.mem.filter (fun c => channelOf c.1 == ch && decide (c.1 < reserveBase) &&
    !(v.deck.healed.contains (c.1 / 64)))).map (·.1) = cells
  revert hm
  show Memory.wf (deckDefault v) v.deck.mem = true → _
  generalize v.deck.mem = mem
  intro hm
  induction cells generalizing mem with
  | nil => exact hm
  | cons a as ih => exact ih _ (memSet_wf _ _ _ _ hm)

theorem execDisplacedFill_runs {ks : Bool} {s₀ u₀ : State} (h₀ : Runs ks s₀ u₀) (channel : Nat) :
    RunsOut ks s₀ (execDisplacedFill channel u₀) := by
  unfold execDisplacedFill
  repeat' first
    | with_reducible assumption | (with_reducible intro _; try dsimp -zeta only) | exact runsOut_fault _
    | with_reducible apply runsOut_finish | with_reducible apply runsOut_ok | with_reducible apply startRebuild_runs
    | with_reducible apply fillChannel_runs
    | (with_reducible refine runs_foldl ?_ _ _ (fun v x hv => ?_); rotate_left; try dsimp -zeta only)
    | (extract_lets +onlyGivenNames x; refine runsOut_cut (v := x) ?_ ?_; dsimp -zeta only [x]; clear x; rotate_left; intro _; clear_value x)
    | (extract_lets +onlyGivenNames x; refine runs_cut (v := x) ?_ ?_; dsimp -zeta only [x]; clear x; rotate_left; intro _; clear_value x)
    | extract_lets +onlyGivenNames x | split | apply runs_mk

theorem takeSpill_runs {ks : Bool} {s₀ u₀ t : State} {n a : Nat} (hq : takeSpill u₀ n = some (a, t)) (h₀ : Runs ks s₀ u₀) : Runs ks s₀ t := by
  unfold takeSpill at hq
  dsimp only at hq
  split at hq <;> cases hq
  exact runs_mk h₀

theorem spillGroup_runs {ks : Bool} {s₀ u₀ : State} (h₀ : Runs ks s₀ u₀) (v g n : Nat) :
    Runs ks s₀ (spillGroup v g u₀ (takeSpill u₀ n)) := by
  generalize hq : takeSpill u₀ n = q
  cases q with
  | some q => exact startRebuild_runs (takeSpill_runs hq h₀) _ _ _
  | none => exact h₀

theorem execPlainWithdraw_runs {ks : Bool} {s₀ u₀ : State} (h₀ : Runs ks s₀ u₀) : RunsOut ks s₀ (execPlainWithdraw u₀) := by
  unfold execPlainWithdraw
  extract_lets want
  split
  · exact runsOut_ok h₀
  · exact runsOut_finish (runs_foldl (healLog_runs (event_runs (runs_mk h₀) _ _) _) _ _
      (fun v x hv => spillGroup_runs hv _ _ _))

/-! ### Placement -/

theorem tailPlace_runs {ks : Bool} {s₀ u₀ t : State} {v n a : Nat} (hq : tailPlace u₀ v n = some (a, t)) (h₀ : Runs ks s₀ u₀) :
    Runs ks s₀ t := by
  unfold tailPlace at hq
  split at hq
  · cases hq
  · split at hq
    · cases hq
      exact modVer_runs h₀ _ _
    · cases hs : takeSpill u₀ n with
      | none => simp [hs] at hq
      | some q =>
        simp only [hs, Option.map_some, Option.some.injEq] at hq
        cases hq
        exact takeSpill_runs hs h₀

theorem requestMigration_runs {ks : Bool} {s₀ u₀ : State} (h₀ : Runs ks s₀ u₀) (v : Nat) (g : Nat) (target : Nat) (by_ : Option (Nat × Nat × Nat)) (after : Option Nat) : Runs ks s₀ (requestMigration u₀ v g target by_ after) := by
  unfold requestMigration
  repeat' first
    | with_reducible assumption | with_reducible apply ignoreMigration_runs | with_reducible apply givePlaces_runs
    | (extract_lets +onlyGivenNames x; refine runs_cut (v := x) ?_ ?_; dsimp -zeta only [x]; clear x; rotate_left; intro _; clear_value x)
    | extract_lets +onlyGivenNames x | split | apply runs_mk

theorem noPlace_runs {ks : Bool} {s₀ u₀ : State} (h₀ : Runs ks s₀ u₀)  : Runs ks s₀ (noPlace u₀) := by
  unfold noPlace
  repeat' first | with_reducible assumption | with_reducible apply event_runs | with_reducible apply bump_runs

theorem halveHits_runs {ks : Bool} {s₀ u₀ : State} (h₀ : Runs ks s₀ u₀) (v : Nat) : Runs ks s₀ (halveHits u₀ v) := by
  unfold halveHits
  repeat' first
    | with_reducible assumption | (with_reducible intro _; try dsimp -zeta only) | with_reducible apply modEntry_runs
    | (with_reducible refine runs_foldl ?_ _ _ (fun v x hv => ?_); rotate_left; try dsimp -zeta only)
    | extract_lets +onlyGivenNames x | split | apply runs_mk

theorem moveTo_runs {ks : Bool} {s₀ u₀ : State} (h₀ : Runs ks s₀ u₀) (v g : Nat) (q : Option Nat) : Runs ks s₀ (moveTo u₀ v g q) := by
  cases q with
  | some q => exact requestMigration_runs h₀ _ _ _ _ _
  | none => exact noPlace_runs h₀

theorem bringIn_runs {ks : Bool} {s₀ u₀ : State} (h₀ : Runs ks s₀ u₀) (v g : Nat) (t : TDesc) : Runs ks s₀ (bringIn u₀ v g t) :=
  moveTo_runs h₀ _ _ _

theorem moveOut_runs {ks : Bool} {s₀ u₀ : State} (h₀ : Runs ks s₀ u₀) (v h g n : Nat) : Runs ks s₀ (moveOut u₀ v h g (tailPlace u₀ v n)) := by
  generalize hq : tailPlace u₀ v n = q
  cases q with
  | some q => exact requestMigration_runs (tailPlace_runs hq h₀) _ _ _ _ _
  | none => exact noPlace_runs h₀

theorem moveIn_runs {ks : Bool} {s₀ u₀ : State} (h₀ : Runs ks s₀ u₀) (v g : Nat) (t : TDesc) : Runs ks s₀ (moveIn u₀ v g t) := by
  refine runs_ite (fun _ => bringIn_runs h₀ _ _ _) (fun _ => ?_)
  cases coldest u₀ v t with
  | none => exact noPlace_runs h₀
  | some h => exact runs_ite (fun _ => noPlace_runs h₀) (fun _ => moveOut_runs h₀ _ _ _ _)

theorem placementDue_runs {ks : Bool} {s₀ u₀ : State} (h₀ : Runs ks s₀ u₀) (v g : Nat) (t : TDesc) (e : DEntry) :
    Runs ks s₀ (placementDue u₀ v g t e) :=
  runs_ite (fun _ => h₀) (fun _ => runs_ite (fun _ => noPlace_runs h₀) (fun _ => moveIn_runs h₀ _ _ _))

theorem hitGroup_runs {ks : Bool} {s₀ u₀ : State} (h₀ : Runs ks s₀ u₀) (v : Nat) (g : Nat) :
    Runs ks s₀ (hitGroup u₀ v g) := by
  unfold hitGroup
  repeat' first
    | with_reducible assumption | (with_reducible intro _; try dsimp -zeta only) | with_reducible apply modEntry_runs
    | with_reducible apply halveHits_runs | with_reducible apply placementDue_runs
    | (extract_lets +onlyGivenNames x; refine runs_cut (v := x) ?_ ?_; dsimp -zeta only [x]; clear x; rotate_left; intro _; clear_value x)
    | extract_lets +onlyGivenNames x | split | apply runs_mk

theorem execMigrate_runs {ks : Bool} {s₀ u₀ : State} (h₀ : Runs ks s₀ u₀) (ctx : Nat) (ring : Nat) :
    RunsOut ks s₀ (execMigrate ctx ring u₀) := by
  unfold execMigrate
  repeat' first
    | with_reducible assumption | (with_reducible intro _; try dsimp -zeta only) | with_reducible apply runsOut_finish
    | with_reducible apply runsOut_ok | with_reducible apply completeHead_runs | with_reducible apply command_runs
    | with_reducible apply startCommand_runs | with_reducible apply requestMigration_runs
    | (extract_lets +onlyGivenNames x; refine runsOut_cut (v := x) ?_ ?_; dsimp -zeta only [x]; clear x; rotate_left; intro _; clear_value x)
    | (extract_lets +onlyGivenNames x; refine runs_cut (v := x) ?_ ?_; dsimp -zeta only [x]; clear x; rotate_left; intro _; clear_value x)
    | extract_lets +onlyGivenNames x | split | apply runs_mk

theorem execMigrationDrainDone_runs {ks : Bool} {s₀ u₀ : State} (h₀ : Runs ks s₀ u₀) (mig : Nat) :
    RunsOut ks s₀ (execMigrationDrainDone mig u₀) := by
  unfold execMigrationDrainDone
  repeat' first
    | with_reducible assumption | (with_reducible intro _; try dsimp -zeta only) | with_reducible apply runsOut_finish
    | with_reducible apply runsOut_ok | with_reducible apply issueReads_runs | with_reducible apply modMigration_runs
    | (extract_lets +onlyGivenNames x; refine runsOut_cut (v := x) ?_ ?_; dsimp -zeta only [x]; clear x; rotate_left; intro _; clear_value x)
    | (extract_lets +onlyGivenNames x; refine runs_cut (v := x) ?_ ?_; dsimp -zeta only [x]; clear x; rotate_left; intro _; clear_value x)
    | extract_lets +onlyGivenNames x | split | apply runs_mk

theorem endMigrate_runs {ks : Bool} {s₀ u₀ : State} (h₀ : Runs ks s₀ u₀) (m : Migration) (detail : Nat) :
    Runs ks s₀ (endMigrate u₀ m detail) := by
  unfold endMigrate
  repeat' first
    | with_reducible assumption | with_reducible apply completeDesc_runs | extract_lets +onlyGivenNames x | split
    | apply runs_mk

theorem afterMove_runs {ks : Bool} {s₀ u₀ : State} (h₀ : Runs ks s₀ u₀) (m : Migration) :
    Runs ks s₀ (afterMove u₀ m) := by
  unfold afterMove
  repeat' first
    | with_reducible assumption | with_reducible apply bringIn_runs | extract_lets +onlyGivenNames x | split
    | apply runs_mk

theorem execMigrationFlip_runs {ks : Bool} {s₀ u₀ : State} (h₀ : Runs ks s₀ u₀) (mig : Nat) :
    RunsOut ks s₀ (execMigrationFlip mig u₀) := by
  unfold execMigrationFlip
  repeat' first
    | with_reducible assumption | (with_reducible intro _; try dsimp -zeta only) | with_reducible apply runsOut_finish
    | with_reducible apply runsOut_ok | with_reducible apply bump_runs | with_reducible apply deckWrite_runs
    | with_reducible apply issueWrites_runs | with_reducible apply modMigration_runs
    | with_reducible apply modGroup_runs | with_reducible apply givePlaces_runs | with_reducible apply writeHeld_runs
    | with_reducible apply endMigrate_runs | with_reducible apply afterMove_runs
    | (extract_lets +onlyGivenNames x; refine runsOut_cut (v := x) ?_ ?_; dsimp -zeta only [x]; clear x; rotate_left; intro _; clear_value x)
    | (extract_lets +onlyGivenNames x; refine runs_cut (v := x) ?_ ?_; dsimp -zeta only [x]; clear x; rotate_left; intro _; clear_value x)
    | extract_lets +onlyGivenNames x | split | apply runs_mk

theorem execMigrationFree_runs {ks : Bool} {s₀ u₀ : State} (h₀ : Runs ks s₀ u₀) (mig : Nat) :
    RunsOut ks s₀ (execMigrationFree mig u₀) := by
  unfold execMigrationFree
  repeat' first
    | with_reducible assumption | (with_reducible intro _; try dsimp -zeta only) | with_reducible apply runsOut_finish
    | with_reducible apply runsOut_ok | with_reducible apply modVer_runs | with_reducible apply givePlaces_runs
    | (extract_lets +onlyGivenNames x; refine runsOut_cut (v := x) ?_ ?_; dsimp -zeta only [x]; clear x; rotate_left; intro _; clear_value x)
    | (extract_lets +onlyGivenNames x; refine runs_cut (v := x) ?_ ?_; dsimp -zeta only [x]; clear x; rotate_left; intro _; clear_value x)
    | extract_lets +onlyGivenNames x | split | apply runs_mk | apply runs_more

theorem execMigrationAbandon_runs {ks : Bool} {s₀ u₀ : State} (h₀ : Runs ks s₀ u₀) (mig : Nat) :
    RunsOut ks s₀ (execMigrationAbandon mig u₀) := by
  unfold execMigrationAbandon
  repeat' first
    | with_reducible assumption | with_reducible apply runsOut_finish | with_reducible apply runsOut_ok
    | with_reducible apply givePlaces_runs | with_reducible apply abandon_runs
    | with_reducible apply startRebuild_runs
    | (extract_lets +onlyGivenNames x; refine runsOut_cut (v := x) ?_ ?_; dsimp -zeta only [x]; clear x; rotate_left; intro _; clear_value x)
    | (extract_lets +onlyGivenNames x; refine runs_cut (v := x) ?_ ?_; dsimp -zeta only [x]; clear x; rotate_left; intro _; clear_value x)
    | extract_lets +onlyGivenNames x | split | apply runs_mk

end Sys2Proof.Machine
end

