-- ==== Sys2Proof/Laws/RunsOperators.lean ====
section
/-!
SUPPORT. What the operators, MERGE, the Parapets and the decoders keep.
-/

namespace Sys2Proof.Machine

open Sys2Proof

set_option linter.tactic.unusedName false

/-! ### Numeric -/

theorem execConvert_runs {ks : Bool} {s₀ u₀ : State} (h₀ : Runs ks s₀ u₀) (item : Nat) :
    RunsOut ks s₀ (execConvert item u₀) := by
  unfold execConvert
  repeat' first
    | with_reducible assumption | (with_reducible intro _; try dsimp -zeta only) | with_reducible apply runsOut_finish
    | with_reducible apply runOp_runs

theorem execQuant_runs {ks : Bool} {s₀ u₀ : State} (h₀ : Runs ks s₀ u₀) (item : Nat) :
    RunsOut ks s₀ (execQuant item u₀) := by
  unfold execQuant
  repeat' first
    | with_reducible assumption | (with_reducible intro _; try dsimp -zeta only) | with_reducible apply runsOut_finish
    | with_reducible apply runOp_runs

/-! ### Compress -/

theorem execCompress_runs {ks : Bool} {s₀ u₀ : State} (h₀ : Runs ks s₀ u₀) (item : Nat) :
    RunsOut ks s₀ (execCompress item u₀) := by
  unfold execCompress
  repeat' first
    | with_reducible assumption | (with_reducible intro _; try dsimp -zeta only) | with_reducible apply runsOut_finish
    | with_reducible apply runOp_runs

theorem execDecompress_runs {ks : Bool} {s₀ u₀ : State} (h₀ : Runs ks s₀ u₀) (item : Nat) :
    RunsOut ks s₀ (execDecompress item u₀) := by
  unfold execDecompress
  repeat' first
    | with_reducible assumption | (with_reducible intro _; try dsimp -zeta only) | with_reducible apply runsOut_finish
    | with_reducible apply runOp_runs

theorem execDigest_runs {ks : Bool} {s₀ u₀ : State} (h₀ : Runs ks s₀ u₀) (item : Nat) :
    RunsOut ks s₀ (execDigest item u₀) := by
  unfold execDigest
  repeat' first
    | with_reducible assumption | (with_reducible intro _; try dsimp -zeta only) | with_reducible apply runsOut_finish
    | with_reducible apply runOp_runs

/-! ### Copies -/

theorem execCopyLayout_runs {ks : Bool} {s₀ u₀ : State} (h₀ : Runs ks s₀ u₀) (item : Nat) :
    RunsOut ks s₀ (execCopyLayout item u₀) := by
  unfold execCopyLayout
  repeat' first
    | with_reducible assumption
    | exact runsOut_fault _
    | with_reducible apply runsOut_finish
    | with_reducible apply runsOut_ok
    | (with_reducible intro _; try dsimp -zeta only)
    | with_reducible apply askExtents_runs
    | with_reducible apply applyRes_runs
    | (refine takeOp_moved ?_ (by with_reducible assumption))
    | (refine takeOp_go ?_ (by with_reducible assumption))
    | (extract_lets +onlyGivenNames x; refine runsOut_cut (v := x) ?_ ?_; dsimp -zeta only [x]; clear x; rotate_left; intro _; clear_value x)
    | (extract_lets +onlyGivenNames x; refine runs_cut (v := x) ?_ ?_; dsimp -zeta only [x]; clear x; rotate_left; intro _; clear_value x)
    | extract_lets +onlyGivenNames x
    | split
    | (clear_value *; split)
    | (with_reducible apply runs_mk; first | with_reducible assumption | with_reducible apply askExtents_runs | with_reducible apply applyRes_runs)
    | (apply runs_mk; first | with_reducible assumption | with_reducible apply askExtents_runs | with_reducible apply applyRes_runs)
    | (apply runs_more; first | with_reducible assumption | with_reducible apply askExtents_runs | with_reducible apply applyRes_runs)

theorem execStoreFused_runs {ks : Bool} {s₀ u₀ : State} (h₀ : Runs ks s₀ u₀) (item : Nat) :
    RunsOut ks s₀ (execStoreFused item u₀) := by
  unfold execStoreFused
  repeat' first
    | with_reducible assumption | (with_reducible intro _; try dsimp -zeta only) | with_reducible apply runsOut_finish
    | with_reducible apply runOp_runs

/-! ### Relational -/

theorem execFilter_runs {ks : Bool} {s₀ u₀ : State} (h₀ : Runs ks s₀ u₀) (item : Nat) :
    RunsOut ks s₀ (execFilter item u₀) := by
  unfold execFilter
  repeat' first
    | with_reducible assumption | (with_reducible intro _; try dsimp -zeta only) | with_reducible apply runsOut_finish
    | with_reducible apply runOp_runs

theorem execProject_runs {ks : Bool} {s₀ u₀ : State} (h₀ : Runs ks s₀ u₀) (item : Nat) :
    RunsOut ks s₀ (execProject item u₀) := by
  unfold execProject
  repeat' first
    | with_reducible assumption | (with_reducible intro _; try dsimp -zeta only) | with_reducible apply runsOut_finish
    | with_reducible apply runOp_runs

theorem execHash_runs {ks : Bool} {s₀ u₀ : State} (h₀ : Runs ks s₀ u₀) (item : Nat) :
    RunsOut ks s₀ (execHash item u₀) := by
  unfold execHash
  repeat' first
    | with_reducible assumption | (with_reducible intro _; try dsimp -zeta only) | with_reducible apply runsOut_finish
    | with_reducible apply runOp_runs

theorem execBucket_runs {ks : Bool} {s₀ u₀ : State} (h₀ : Runs ks s₀ u₀) (item : Nat) :
    RunsOut ks s₀ (execBucket item u₀) := by
  unfold execBucket
  repeat' first
    | with_reducible assumption | (with_reducible intro _; try dsimp -zeta only) | with_reducible apply runsOut_finish
    | with_reducible apply runOp_runs

theorem execCross_runs {ks : Bool} {s₀ u₀ : State} (h₀ : Runs ks s₀ u₀) (item : Nat) :
    RunsOut ks s₀ (execCross item u₀) := by
  unfold execCross
  repeat' first
    | with_reducible assumption | (with_reducible intro _; try dsimp -zeta only) | with_reducible apply runsOut_finish
    | with_reducible apply runOp_runs

theorem execNorm_runs {ks : Bool} {s₀ u₀ : State} (h₀ : Runs ks s₀ u₀) (item : Nat) :
    RunsOut ks s₀ (execNorm item u₀) := by
  unfold execNorm
  repeat' first
    | with_reducible assumption | (with_reducible intro _; try dsimp -zeta only) | with_reducible apply runsOut_finish
    | with_reducible apply runOp_runs

theorem execClip_runs {ks : Bool} {s₀ u₀ : State} (h₀ : Runs ks s₀ u₀) (item : Nat) :
    RunsOut ks s₀ (execClip item u₀) := by
  unfold execClip
  repeat' first
    | with_reducible assumption | (with_reducible intro _; try dsimp -zeta only) | with_reducible apply runsOut_finish
    | with_reducible apply runOp_runs

theorem execPartition_runs {ks : Bool} {s₀ u₀ : State} (h₀ : Runs ks s₀ u₀) (item : Nat) :
    RunsOut ks s₀ (execPartition item u₀) := by
  unfold execPartition
  repeat' first
    | with_reducible assumption | (with_reducible intro _; try dsimp -zeta only) | with_reducible apply runsOut_finish
    | with_reducible apply runOp_runs

theorem execGroupAgg_runs {ks : Bool} {s₀ u₀ : State} (h₀ : Runs ks s₀ u₀) (item : Nat) :
    RunsOut ks s₀ (execGroupAgg item u₀) := by
  unfold execGroupAgg
  repeat' first
    | with_reducible assumption | (with_reducible intro _; try dsimp -zeta only) | with_reducible apply runsOut_finish
    | with_reducible apply runOp_runs

/-! ### Selection -/

theorem execSort_runs {ks : Bool} {s₀ u₀ : State} (h₀ : Runs ks s₀ u₀) (item : Nat) :
    RunsOut ks s₀ (execSort item u₀) := by
  unfold execSort
  repeat' first
    | with_reducible assumption | (with_reducible intro _; try dsimp -zeta only) | with_reducible apply runsOut_finish
    | with_reducible apply runOp_runs | extract_lets +onlyGivenNames x | apply runs_mk

theorem execUnique_runs {ks : Bool} {s₀ u₀ : State} (h₀ : Runs ks s₀ u₀) (item : Nat) :
    RunsOut ks s₀ (execUnique item u₀) := by
  unfold execUnique
  repeat' first
    | with_reducible assumption | (with_reducible intro _; try dsimp -zeta only) | with_reducible apply runsOut_finish
    | with_reducible apply runOp_runs | extract_lets +onlyGivenNames x | apply runs_mk

theorem execTopk_runs {ks : Bool} {s₀ u₀ : State} (h₀ : Runs ks s₀ u₀) (item : Nat) :
    RunsOut ks s₀ (execTopk item u₀) := by
  unfold execTopk
  repeat' first
    | with_reducible assumption | (with_reducible intro _; try dsimp -zeta only) | with_reducible apply runsOut_finish
    | with_reducible apply runOp_runs

theorem execSelMerge_runs {ks : Bool} {s₀ u₀ : State} (h₀ : Runs ks s₀ u₀) (item : Nat) :
    RunsOut ks s₀ (execSelMerge item u₀) := by
  unfold execSelMerge
  repeat' first
    | with_reducible assumption | (with_reducible intro _; try dsimp -zeta only) | with_reducible apply runsOut_finish
    | with_reducible apply runOp_runs

/-! ### Gather -/

theorem askRows_runs {ks : Bool} {s₀ u₀ : State} (h₀ : Runs ks s₀ u₀) (id : Nat) (miss : List (Nat × Nat)) :
    Runs ks s₀ (askRows u₀ id miss) := by
  unfold askRows
  repeat' first
    | with_reducible assumption | (with_reducible intro _; try dsimp -zeta only) | with_reducible apply modItem_runs
    | with_reducible apply issueReads_runs
    | (with_reducible refine runs_foldl ?_ _ _ (fun v x hv => ?_); rotate_left; try dsimp -zeta only)
    | (extract_lets +onlyGivenNames x; refine runs_cut (v := x) ?_ ?_; dsimp -zeta only [x]; clear x; rotate_left; intro _; clear_value x)
    | extract_lets +onlyGivenNames x | split | apply runs_mk

theorem breakRow_runs {ks : Bool} {s₀ u₀ : State} (h₀ : Runs ks s₀ u₀) (id : Nat) (v : Nat) (g : Nat) :
    Runs ks s₀ (breakRow u₀ id v g) := by
  unfold breakRow
  repeat' first
    | with_reducible assumption | (with_reducible intro _; try dsimp -zeta only) | with_reducible apply modItem_runs
    | with_reducible apply startRebuild_runs
    | (extract_lets +onlyGivenNames x; refine runs_cut (v := x) ?_ ?_; dsimp -zeta only [x]; clear x; rotate_left; intro _; clear_value x)
    | extract_lets +onlyGivenNames x | apply runs_mk

theorem rowsFirst_runs {ks : Bool} {s₀ u₀ t : State} {id : Nat} {rs : List RowAt} (hq : rowsFirst u₀ id rs = some t) (h₀ : Runs ks s₀ u₀) :
    Runs ks s₀ t := by
  unfold rowsFirst at hq
  extract_lets broken blocks asks at hq
  repeat' split at hq
  · cases hq
    exact runs_foldl (runs_foldl h₀ _ _ (fun v x hv => blockRead_runs hv _ _)) _ _ (fun v x hv => breakRow_runs hv _ _ _)
  · cases hq
    exact askRows_runs h₀ _ _
  · cases hq
    exact h₀
  · cases hq

theorem nameLost_runs {ks : Bool} {s₀ u₀ : State} (h₀ : Runs ks s₀ u₀) (it : Item) (id : Nat) (v : Nat) (g : Nat) :
    Runs ks s₀ (nameLost u₀ it id v g) := by
  unfold nameLost
  repeat' first
    | with_reducible assumption | (with_reducible intro _; try dsimp -zeta only) | with_reducible apply modDesc_runs
    | with_reducible apply modItem_runs
    | (extract_lets +onlyGivenNames x; refine runs_cut (v := x) ?_ ?_; dsimp -zeta only [x]; clear x; rotate_left; intro _; clear_value x)
    | extract_lets +onlyGivenNames x | split | apply runs_mk

theorem hitAll_runs {ks : Bool} {s₀ u₀ : State} (h₀ : Runs ks s₀ u₀) (rs : List RowAt) :
    Runs ks s₀ (hitAll u₀ rs) := by
  unfold hitAll
  repeat' first
    | with_reducible assumption | (with_reducible intro _; try dsimp -zeta only) | with_reducible apply hitGroup_runs
    | (with_reducible refine runs_foldl ?_ _ _ (fun v x hv => ?_); rotate_left; try dsimp -zeta only)
    | extract_lets +onlyGivenNames x | split | apply runs_mk

theorem prefetchDone_runs {ks : Bool} {s₀ u₀ : State} (h₀ : Runs ks s₀ u₀) (id : Nat) (x : Ctx) (it : Item) (i : OpIn) (part : LookPart) (rs : List RowAt) : Runs ks s₀ (prefetchDone u₀ id x it i part rs) := by
  unfold prefetchDone
  repeat' first
    | with_reducible assumption | (with_reducible intro _; try dsimp -zeta only) | with_reducible apply event_runs
    | with_reducible apply bump_runs | with_reducible apply modCtx_runs | with_reducible apply applyRes_runs
    | (with_reducible refine runs_foldl ?_ _ _ (fun v x hv => ?_); rotate_left; try dsimp -zeta only)
    | (extract_lets +onlyGivenNames x; refine runs_cut (v := x) ?_ ?_; dsimp -zeta only [x]; clear x; rotate_left; intro _; clear_value x)
    | extract_lets +onlyGivenNames x | split | apply runs_mk

theorem keepLookups_runs {ks : Bool} {s₀ u₀ : State} (h₀ : Runs ks s₀ u₀) (id : Nat) (it : Item) (pins : List Nat) (set : Nat) (ds : List (Nat × Nat)) (rs : List RowAt) : Runs ks s₀ (keepLookups u₀ id it pins set ds rs) := by
  unfold keepLookups
  repeat' first
    | with_reducible assumption | (with_reducible intro _; try dsimp -zeta only) | with_reducible apply modItem_runs
    | (with_reducible refine runs_foldl ?_ _ _ (fun v x hv => ?_); rotate_left; try dsimp -zeta only)
    | (extract_lets +onlyGivenNames x; refine runs_cut (v := x) ?_ ?_; dsimp -zeta only [x]; clear x; rotate_left; intro _; clear_value x)
    | extract_lets +onlyGivenNames x | split | apply runs_mk

theorem gatherStep_runs {ks : Bool} {s₀ u₀ : State} (h₀ : Runs ks s₀ u₀) (pooled : Bool) (id : Nat) (x : Ctx) (it : Item) (i : OpIn) : Runs ks s₀ (gatherStep pooled u₀ id x it i) := by
  unfold gatherStep
  repeat' first
    | with_reducible assumption | (with_reducible intro _; try dsimp -zeta only) | with_reducible apply applyRes_runs
    | (refine rowsFirst_runs (by with_reducible assumption) ?_) | with_reducible apply nameLost_runs
    | with_reducible apply hitAll_runs | with_reducible apply prefetchDone_runs
    | with_reducible apply keepLookups_runs
    | (with_reducible refine runs_foldl ?_ _ _ (fun v x hv => ?_); rotate_left; try dsimp -zeta only)
    | (extract_lets +onlyGivenNames x; refine runs_cut (v := x) ?_ ?_; dsimp -zeta only [x]; clear x; rotate_left; intro _; clear_value x)
    | extract_lets +onlyGivenNames x | split | apply runs_mk

theorem execGather_runs {ks : Bool} {s₀ u₀ : State} (h₀ : Runs ks s₀ u₀) (item : Nat) :
    RunsOut ks s₀ (execGather item u₀) := by
  unfold execGather
  repeat' first
    | with_reducible assumption
    | exact runsOut_fault _
    | with_reducible apply runsOut_finish
    | with_reducible apply runsOut_ok
    | (with_reducible intro _; try dsimp -zeta only)
    | with_reducible apply gatherStep_runs
    | (refine takeOp_moved ?_ (by with_reducible assumption))
    | (refine takeOp_go ?_ (by with_reducible assumption))
    | (extract_lets +onlyGivenNames x; refine runsOut_cut (v := x) ?_ ?_; dsimp -zeta only [x]; clear x; rotate_left; intro _; clear_value x)
    | (extract_lets +onlyGivenNames x; refine runs_cut (v := x) ?_ ?_; dsimp -zeta only [x]; clear x; rotate_left; intro _; clear_value x)
    | extract_lets +onlyGivenNames x
    | split
    | (clear_value *; split)
    | (with_reducible apply runs_mk; first | with_reducible assumption | with_reducible apply gatherStep_runs)
    | (apply runs_mk; first | with_reducible assumption | with_reducible apply gatherStep_runs)
    | (apply runs_more; first | with_reducible assumption | with_reducible apply gatherStep_runs)

theorem execGatherPool_runs {ks : Bool} {s₀ u₀ : State} (h₀ : Runs ks s₀ u₀) (item : Nat) :
    RunsOut ks s₀ (execGatherPool item u₀) := by
  unfold execGatherPool
  repeat' first
    | with_reducible assumption
    | exact runsOut_fault _
    | with_reducible apply runsOut_finish
    | with_reducible apply runsOut_ok
    | (with_reducible intro _; try dsimp -zeta only)
    | with_reducible apply gatherStep_runs
    | (refine takeOp_moved ?_ (by with_reducible assumption))
    | (refine takeOp_go ?_ (by with_reducible assumption))
    | (extract_lets +onlyGivenNames x; refine runsOut_cut (v := x) ?_ ?_; dsimp -zeta only [x]; clear x; rotate_left; intro _; clear_value x)
    | (extract_lets +onlyGivenNames x; refine runs_cut (v := x) ?_ ?_; dsimp -zeta only [x]; clear x; rotate_left; intro _; clear_value x)
    | extract_lets +onlyGivenNames x
    | split
    | (clear_value *; split)
    | (with_reducible apply runs_mk; first | with_reducible assumption | with_reducible apply gatherStep_runs)
    | (apply runs_mk; first | with_reducible assumption | with_reducible apply gatherStep_runs)
    | (apply runs_more; first | with_reducible assumption | with_reducible apply gatherStep_runs)

/-! ### Parapet -/

theorem setBank_runs {s₀ u₀ : State} (h₀ : Runs false s₀ u₀) (p : Nat) (b : Nat) (es : List (List Byte)) :
    Runs false s₀ (setBank u₀ p b es) := by
  unfold setBank
  repeat' first
    | with_reducible assumption
    | (extract_lets +onlyGivenNames x; refine runs_cut (v := x) ?_ ?_; dsimp -zeta only [x]; clear x; rotate_left; intro _; clear_value x)
    | extract_lets +onlyGivenNames x | apply moves_mk

theorem execCountMatch_runs {ks : Bool} {s₀ u₀ : State} (h₀ : Runs ks s₀ u₀) (item : Nat) :
    RunsOut ks s₀ (execCountMatch item u₀) := by
  unfold execCountMatch
  repeat' first
    | with_reducible assumption | (with_reducible intro _; try dsimp -zeta only) | with_reducible apply runsOut_finish
    | with_reducible apply runOp_runs

theorem setApplying_runs {s₀ u₀ : State} (h₀ : Runs false s₀ u₀) (p : Nat) (id : Nat) (us : Option (List (Nat × List Byte))) : Runs false s₀ (setApplying u₀ p id us) := by
  unfold setApplying
  repeat' first
    | with_reducible assumption
    | (extract_lets +onlyGivenNames x; refine runs_cut (v := x) ?_ ?_; dsimp -zeta only [x]; clear x; rotate_left; intro _; clear_value x)
    | extract_lets +onlyGivenNames x | split | apply moves_mk

theorem handOver_runs {s₀ u₀ : State} (h₀ : Runs false s₀ u₀) (id : Nat) (x : Ctx) (it : Item) (i : OpIn) :
    Runs false s₀ (handOver u₀ id x it i) := by
  unfold handOver
  repeat' first
    | with_reducible assumption | (with_reducible intro _; try dsimp -zeta only) | with_reducible apply modItem_runs
    | with_reducible apply applyRes_runs | with_reducible apply setApplying_runs
    | (extract_lets +onlyGivenNames x; refine runs_cut (v := x) ?_ ?_; dsimp -zeta only [x]; clear x; rotate_left; intro _; clear_value x)
    | extract_lets +onlyGivenNames x | split | apply moves_mk

theorem execParapetUpdate_runs {s₀ u₀ : State} (h₀ : Runs false s₀ u₀) (item : Nat) :
    RunsOut false s₀ (execParapetUpdate item u₀) := by
  unfold execParapetUpdate
  repeat' first
    | with_reducible assumption
    | exact runsOut_fault _
    | with_reducible apply runsOut_finish
    | with_reducible apply runsOut_ok
    | (with_reducible intro _; try dsimp -zeta only)
    | with_reducible apply handOver_runs
    | (refine takeOp_moved ?_ (by with_reducible assumption))
    | (refine takeOp_go ?_ (by with_reducible assumption))
    | (extract_lets +onlyGivenNames x; refine runsOut_cut (v := x) ?_ ?_; dsimp -zeta only [x]; clear x; rotate_left; intro _; clear_value x)
    | (extract_lets +onlyGivenNames x; refine runs_cut (v := x) ?_ ?_; dsimp -zeta only [x]; clear x; rotate_left; intro _; clear_value x)
    | extract_lets +onlyGivenNames x
    | split
    | (clear_value *; split)
    | (with_reducible apply moves_mk; first | with_reducible assumption | with_reducible apply handOver_runs)
    | (apply moves_mk; first | with_reducible assumption | with_reducible apply handOver_runs)
    | (apply moves_more; first | with_reducible assumption | with_reducible apply handOver_runs)

theorem applyOne_runs {s₀ u₀ : State} (h₀ : Runs false s₀ u₀) (k : ParaSet) (u : Nat × List Byte) :
    Runs false s₀ ((applyOne u₀ k u).1) := by
  unfold applyOne
  repeat' first
    | with_reducible assumption | (with_reducible intro _; try dsimp -zeta only) | with_reducible apply setBank_runs
    | (with_reducible refine runs_foldl ?_ _ _ (fun v x hv => ?_); rotate_left; try dsimp -zeta only)
    | (extract_lets +onlyGivenNames x; refine runs_cut (v := x) ?_ ?_; dsimp -zeta only [x]; clear x; rotate_left; intro _; clear_value x)
    | extract_lets +onlyGivenNames x | split

theorem applyAll_runs {s₀ u₀ : State} (h₀ : Runs false s₀ u₀) (k : ParaSet) (us : List (Nat × List Byte)) :
    Runs false s₀ (applyAll k us u₀).1 := by
  induction us generalizing u₀ with
  | nil => exact h₀
  | cons u us ih =>
    unfold applyAll
    exact ih (applyOne_runs h₀ _ _)

theorem execParapetApply_runs {s₀ u₀ : State} (h₀ : Runs false s₀ u₀) (item : Nat) :
    RunsOut false s₀ (execParapetApply item u₀) := by
  unfold execParapetApply
  repeat' first
    | with_reducible apply applyAll_runs | with_reducible assumption | (with_reducible intro _; try dsimp -zeta only)
    | with_reducible apply runsOut_finish | with_reducible apply runsOut_ok | with_reducible apply event_runs
    | with_reducible apply bump_runs | with_reducible apply modItem_runs | with_reducible apply writeDst_runs
    | with_reducible apply advance_runs | with_reducible apply setApplying_runs
    | (refine runs_fst (by with_reducible assumption) ?_)
    | (extract_lets +onlyGivenNames x; refine runsOut_cut (v := x) ?_ ?_; dsimp -zeta only [x]; clear x; rotate_left; intro _; clear_value x)
    | (extract_lets +onlyGivenNames x; refine runs_cut (v := x) ?_ ?_; dsimp -zeta only [x]; clear x; rotate_left; intro _; clear_value x)
    | extract_lets +onlyGivenNames x | split | apply moves_mk

theorem execParapetSetCreate_runs {s₀ u₀ : State} (h₀ : Runs false s₀ u₀) (ctx : Nat) (ring : Nat) :
    RunsOut false s₀ (execParapetSetCreate ctx ring u₀) := by
  unfold execParapetSetCreate
  repeat' first
    | with_reducible assumption | (with_reducible intro _; try dsimp -zeta only) | with_reducible apply runsOut_finish
    | with_reducible apply runsOut_ok | with_reducible apply modCtx_runs | with_reducible apply completeHead_runs
    | with_reducible apply command_runs | with_reducible apply setBank_runs
    | (with_reducible refine runs_foldl ?_ _ _ (fun v x hv => ?_); rotate_left; try dsimp -zeta only)
    | (extract_lets +onlyGivenNames x; refine runsOut_cut (v := x) ?_ ?_; dsimp -zeta only [x]; clear x; rotate_left; intro _; clear_value x)
    | (extract_lets +onlyGivenNames x; refine runs_cut (v := x) ?_ ?_; dsimp -zeta only [x]; clear x; rotate_left; intro _; clear_value x)
    | extract_lets +onlyGivenNames x | split | apply moves_mk

theorem freeSet_runs {s₀ u₀ : State} (h₀ : Runs false s₀ u₀) (c : Nat) (set : Nat) :
    Runs false s₀ (freeSet u₀ c set) := by
  unfold freeSet
  repeat' first
    | with_reducible assumption | (with_reducible intro _; try dsimp -zeta only) | with_reducible apply modCtx_runs
    | with_reducible apply setBank_runs
    | (with_reducible refine runs_foldl ?_ _ _ (fun v x hv => ?_); rotate_left; try dsimp -zeta only)
    | (extract_lets +onlyGivenNames x; refine runs_cut (v := x) ?_ ?_; dsimp -zeta only [x]; clear x; rotate_left; intro _; clear_value x)
    | extract_lets +onlyGivenNames x | split | apply moves_mk

theorem execParapetSetDestroy_runs {s₀ u₀ : State} (h₀ : Runs false s₀ u₀) (ctx : Nat) (ring : Nat) :
    RunsOut false s₀ (execParapetSetDestroy ctx ring u₀) := by
  unfold execParapetSetDestroy
  repeat' first
    | with_reducible assumption | (with_reducible intro _; try dsimp -zeta only) | with_reducible apply runsOut_finish
    | with_reducible apply runsOut_ok | with_reducible apply setCtx_runs | with_reducible apply completeHead_runs
    | with_reducible apply completeDesc_runs | with_reducible apply command_runs
    | with_reducible apply startCommand_runs | with_reducible apply freeSet_runs | extract_lets +onlyGivenNames x
    | split | apply moves_mk | apply moves_more

/-! ### Merge -/

theorem modQueue_runs {ks : Bool} {s₀ u₀ : State} (h₀ : Runs ks s₀ u₀) (c : Nat) (q : Nat) (f : MergeQueue → MergeQueue) : Runs ks s₀ (modQueue u₀ c q f) := by
  unfold modQueue
  repeat' first
    | with_reducible assumption | (with_reducible intro _; try dsimp -zeta only) | with_reducible apply modCtx_runs
    | extract_lets +onlyGivenNames x | apply runs_mk

theorem mergeDropped_runs {ks : Bool} {s₀ u₀ : State} (h₀ : Runs ks s₀ u₀)  : Runs ks s₀ (mergeDropped u₀) := by
  unfold mergeDropped
  repeat' first | with_reducible assumption | with_reducible apply event_runs | with_reducible apply bump_runs

theorem mergeDuplicate_runs {ks : Bool} {s₀ u₀ : State} (h₀ : Runs ks s₀ u₀)  : Runs ks s₀ (mergeDuplicate u₀) := by
  unfold mergeDuplicate
  repeat' first | with_reducible assumption | with_reducible apply event_runs | with_reducible apply bump_runs

theorem mergeArrive_runs {ks : Bool} {s₀ u₀ : State} (h₀ : Runs ks s₀ u₀) (c : Nat) (q : Nat) (r : MergeRec) :
    Runs ks s₀ (mergeArrive u₀ c q r) := by
  unfold mergeArrive
  repeat' first
    | with_reducible assumption | (with_reducible intro _; try dsimp -zeta only) | with_reducible apply event_runs
    | with_reducible apply modQueue_runs | with_reducible apply mergeDropped_runs
    | with_reducible apply mergeDuplicate_runs
    | (extract_lets +onlyGivenNames x; refine runs_cut (v := x) ?_ ?_; dsimp -zeta only [x]; clear x; rotate_left; intro _; clear_value x)
    | extract_lets +onlyGivenNames x | split | apply runs_mk

theorem execMergeRecord_runs {ks : Bool} {s₀ u₀ : State} (h₀ : Runs ks s₀ u₀) (ctx : Nat) (queue : Nat) (rec : MergeRec) : RunsOut ks s₀ (execMergeRecord ctx queue rec u₀) := by
  unfold execMergeRecord
  repeat' first
    | with_reducible assumption | with_reducible apply runsOut_finish | with_reducible apply runsOut_ok
    | with_reducible apply mergeArrive_runs | split

theorem addBlock_runs {ks : Bool} {s₀ u₀ : State} (h₀ : Runs ks s₀ u₀) (c : Nat) (kind : Nat) (queue : Nat) (step : Nat) (table : Nat) (keys : List Nat) (w : Nat) (bs : List Byte) : Runs ks s₀ (addBlock u₀ c kind queue step table keys w bs) := by
  unfold addBlock
  repeat' first
    | with_reducible assumption | (with_reducible intro _; try dsimp -zeta only) | with_reducible apply bump_runs
    | with_reducible apply modCtx_runs
    | (with_reducible refine runs_foldl ?_ _ _ (fun v x hv => ?_); rotate_left; try dsimp -zeta only)
    | (extract_lets +onlyGivenNames x; refine runs_cut (v := x) ?_ ?_; dsimp -zeta only [x]; clear x; rotate_left; intro _; clear_value x)
    | extract_lets +onlyGivenNames x | split | apply runs_mk

theorem sendBlock_runs {ks : Bool} {s₀ u₀ : State} (h₀ : Runs ks s₀ u₀) (c : Nat) :
    Runs ks s₀ ((sendBlock u₀ c).1) := by
  unfold sendBlock
  repeat' first
    | with_reducible assumption | (with_reducible intro _; try dsimp -zeta only) | with_reducible apply modCtx_runs
    | with_reducible apply issueWrites_runs
    | (with_reducible refine runs_foldl ?_ _ _ (fun v x hv => ?_); rotate_left; try dsimp -zeta only)
    | (extract_lets +onlyGivenNames x; refine runs_cut (v := x) ?_ ?_; dsimp -zeta only [x]; clear x; rotate_left; intro _; clear_value x)
    | extract_lets +onlyGivenNames x | split | apply runs_mk

theorem sendBlocksFuel_runs {ks : Bool} {s₀ u₀ : State} (n : Nat) (h₀ : Runs ks s₀ u₀) (c : Nat) : Runs ks s₀ (sendBlocksFuel n u₀ c) := by
  induction n generalizing u₀ with
  | zero => exact h₀
  | succ n ih =>
    unfold sendBlocksFuel
    split
    · exact ih (runs_fst (by assumption) (sendBlock_runs h₀ _))
    · exact runs_fst (by assumption) (sendBlock_runs h₀ _)

theorem sendBlocks_runs {ks : Bool} {s₀ u₀ : State} (h₀ : Runs ks s₀ u₀) (c : Nat) : Runs ks s₀ (sendBlocks u₀ c) := by
  unfold sendBlocks
  repeat' first | with_reducible apply sendBlocksFuel_runs | with_reducible assumption

theorem writeBlock_runs {ks : Bool} {s₀ u₀ : State} (h₀ : Runs ks s₀ u₀) (c : Nat) (kind : Nat) (queue : Nat) (step : Nat) (table : Nat) (keys : List Nat) (w : Nat) (bs : List Byte) : Runs ks s₀ (writeBlock u₀ c kind queue step table keys w bs) := by
  unfold writeBlock
  repeat' first
    | with_reducible assumption | (with_reducible intro _; try dsimp -zeta only) | with_reducible apply event_runs
    | with_reducible apply addBlock_runs | with_reducible apply sendBlocks_runs
    | (extract_lets +onlyGivenNames x; refine runs_cut (v := x) ?_ ?_; dsimp -zeta only [x]; clear x; rotate_left; intro _; clear_value x)
    | extract_lets +onlyGivenNames x | split

theorem execJournalFrameAck_runs {ks : Bool} {s₀ u₀ : State} (h₀ : Runs ks s₀ u₀) (ctx : Nat) (frame : Nat) :
    RunsOut ks s₀ (execJournalFrameAck ctx frame u₀) := by
  unfold execJournalFrameAck
  repeat' first
    | with_reducible assumption | (with_reducible intro _; try dsimp -zeta only) | with_reducible apply runsOut_finish
    | with_reducible apply runsOut_ok | with_reducible apply bump_runs | with_reducible apply issue_runs
    | with_reducible apply modFrame_runs | extract_lets +onlyGivenNames x | split | apply runs_mk

theorem execJournalSpaceFreed_runs {ks : Bool} {s₀ u₀ : State} (h₀ : Runs ks s₀ u₀) (ctx : Nat) :
    RunsOut ks s₀ (execJournalSpaceFreed ctx u₀) := by
  unfold execJournalSpaceFreed
  repeat' first
    | with_reducible assumption | (with_reducible intro _; try dsimp -zeta only) | with_reducible apply runsOut_finish
    | with_reducible apply runsOut_ok | with_reducible apply modCtx_runs | with_reducible apply sendBlocks_runs
    | (extract_lets +onlyGivenNames x; refine runsOut_cut (v := x) ?_ ?_; dsimp -zeta only [x]; clear x; rotate_left; intro _; clear_value x)
    | (extract_lets +onlyGivenNames x; refine runs_cut (v := x) ?_ ?_; dsimp -zeta only [x]; clear x; rotate_left; intro _; clear_value x)
    | extract_lets +onlyGivenNames x | split | apply runs_mk

theorem putVersion_runs {ks : Bool} {s₀ u₀ : State} (h₀ : Runs ks s₀ u₀) (v : Option Nat) (version : Nat) :
    Runs ks s₀ (putVersion u₀ v version) := by
  unfold putVersion
  repeat' first
    | with_reducible assumption | with_reducible apply deckWrite_runs | extract_lets +onlyGivenNames x | split
    | apply runs_mk

theorem advanceFuel_runs {ks : Bool} {s₀ u₀ : State} (n : Nat) (h₀ : Runs ks s₀ u₀) (c q : Nat) : Runs ks s₀ (advanceFuel n u₀ c q) := by
  induction n generalizing u₀ with
  | zero => exact h₀
  | succ n ih =>
    unfold advanceFuel
    cases getQueue u₀ c q with
    | none => exact h₀
    | some m =>
      dsimp only
      cases NMap.find? m.finals m.toApply with
      | none => exact h₀
      | some f => exact runs_ite (fun _ => h₀) (fun _ => ih (modQueue_runs (putVersion_runs (putVersion_runs h₀ _ _) _ _) _ _ _))

theorem advanceApplied_runs {ks : Bool} {s₀ u₀ : State} (h₀ : Runs ks s₀ u₀) (c q : Nat) : Runs ks s₀ (advanceApplied u₀ c q) :=
  advanceFuel_runs _ h₀ _ _

theorem writeDense_runs {ks : Bool} {s₀ u₀ : State} (h₀ : Runs ks s₀ u₀) (c : Nat) (m : MergeQueue) (vs : List (Nat × List Nat)) : Runs ks s₀ (writeDense u₀ c m vs) := by
  unfold writeDense
  repeat' first
    | with_reducible assumption | (with_reducible intro _; try dsimp -zeta only) | with_reducible apply deckWrite_runs
    | extract_lets +onlyGivenNames x | split | apply runs_mk

theorem execStepFinalise_runs {ks : Bool} {s₀ u₀ : State} (h₀ : Runs ks s₀ u₀) (ctx queue : Nat) :
    RunsOut ks s₀ (execStepFinalise ctx queue u₀) := by
  unfold execStepFinalise
  cases getQueue u₀ ctx queue with
  | none => exact runsOut_ok h₀
  | some m =>
    dsimp -zeta only
    extract_lets step y keys merged vs sats p f s1
    have h1 : Runs ks s₀ s1 := modQueue_runs h₀ _ _ _
    clear_value s1
    split
    · exact runsOut_ok h₀
    · split
      · exact runsOut_finish (advanceApplied_runs (writeBlock_runs h1 _ _ _ _ _ _ _ _) _ _)
      · exact runsOut_finish (writeDense_runs h1 _ _ _)

theorem execMergeQueueCreate_runs {ks : Bool} {s₀ u₀ : State} (h₀ : Runs ks s₀ u₀) (ctx : Nat) (ring : Nat) :
    RunsOut ks s₀ (execMergeQueueCreate ctx ring u₀) := by
  unfold execMergeQueueCreate
  repeat' first
    | with_reducible assumption | (with_reducible intro _; try dsimp -zeta only) | with_reducible apply runsOut_finish
    | with_reducible apply runsOut_ok | with_reducible apply modCtx_runs | with_reducible apply completeHead_runs
    | with_reducible apply command_runs
    | (extract_lets +onlyGivenNames x; refine runsOut_cut (v := x) ?_ ?_; dsimp -zeta only [x]; clear x; rotate_left; intro _; clear_value x)
    | (extract_lets +onlyGivenNames x; refine runs_cut (v := x) ?_ ?_; dsimp -zeta only [x]; clear x; rotate_left; intro _; clear_value x)
    | extract_lets +onlyGivenNames x | split | apply runs_mk

theorem execMergeQueueDestroy_runs {ks : Bool} {s₀ u₀ : State} (h₀ : Runs ks s₀ u₀) (ctx : Nat) (ring : Nat) :
    RunsOut ks s₀ (execMergeQueueDestroy ctx ring u₀) := by
  unfold execMergeQueueDestroy
  repeat' first
    | with_reducible assumption | (with_reducible intro _; try dsimp -zeta only) | with_reducible apply runsOut_finish
    | with_reducible apply runsOut_ok | with_reducible apply modCtx_runs | with_reducible apply completeHead_runs
    | with_reducible apply completeDesc_runs | with_reducible apply command_runs
    | with_reducible apply startCommand_runs | with_reducible apply modQueue_runs
    | (extract_lets +onlyGivenNames x; refine runsOut_cut (v := x) ?_ ?_; dsimp -zeta only [x]; clear x; rotate_left; intro _; clear_value x)
    | (extract_lets +onlyGivenNames x; refine runs_cut (v := x) ?_ ?_; dsimp -zeta only [x]; clear x; rotate_left; intro _; clear_value x)
    | extract_lets +onlyGivenNames x | split | apply runs_mk

theorem execMergeQueueSet_runs {ks : Bool} {s₀ u₀ : State} (h₀ : Runs ks s₀ u₀) (ctx : Nat) (ring : Nat) :
    RunsOut ks s₀ (execMergeQueueSet ctx ring u₀) := by
  unfold execMergeQueueSet
  repeat' first
    | with_reducible assumption | (with_reducible intro _; try dsimp -zeta only) | with_reducible apply runsOut_finish
    | with_reducible apply runsOut_ok | with_reducible apply completeHead_runs | with_reducible apply command_runs
    | with_reducible apply modQueue_runs
    | (extract_lets +onlyGivenNames x; refine runsOut_cut (v := x) ?_ ?_; dsimp -zeta only [x]; clear x; rotate_left; intro _; clear_value x)
    | (extract_lets +onlyGivenNames x; refine runs_cut (v := x) ?_ ?_; dsimp -zeta only [x]; clear x; rotate_left; intro _; clear_value x)
    | extract_lets +onlyGivenNames x | split | apply runs_mk

/-! ### Apply -/

theorem sendRecords_runs {ks : Bool} {s₀ u₀ : State} (h₀ : Runs ks s₀ u₀) (id : Nat) (it : Item) (o : List Byte) (rs : List OutRec) : Runs ks s₀ (sendRecords u₀ id it o rs) := by
  unfold sendRecords
  repeat' first
    | with_reducible assumption | (with_reducible intro _; try dsimp -zeta only) | with_reducible apply modCtx_runs
    | with_reducible apply modItem_runs | with_reducible apply issue_runs | with_reducible apply mergeArrive_runs
    | (with_reducible refine runs_foldl ?_ _ _ (fun v x hv => ?_); rotate_left; try dsimp -zeta only)
    | (extract_lets +onlyGivenNames x; refine runs_cut (v := x) ?_ ?_; dsimp -zeta only [x]; clear x; rotate_left; intro _; clear_value x)
    | extract_lets +onlyGivenNames x | split | apply runs_mk

theorem scatterStep_runs {ks : Bool} {s₀ u₀ : State} (h₀ : Runs ks s₀ u₀) (id : Nat) (x : Ctx) (it : Item) (i : OpIn) :
    Runs ks s₀ (scatterStep u₀ id x it i) := by
  unfold scatterStep
  repeat' first
    | with_reducible assumption | with_reducible apply applyRes_runs | with_reducible apply sendRecords_runs
    | (extract_lets +onlyGivenNames x; refine runs_cut (v := x) ?_ ?_; dsimp -zeta only [x]; clear x; rotate_left; intro _; clear_value x)
    | extract_lets +onlyGivenNames x | split | apply runs_mk

theorem execScatterMerge_runs {ks : Bool} {s₀ u₀ : State} (h₀ : Runs ks s₀ u₀) (item : Nat) :
    RunsOut ks s₀ (execScatterMerge item u₀) := by
  unfold execScatterMerge
  repeat' first
    | with_reducible assumption
    | exact runsOut_fault _
    | with_reducible apply runsOut_finish
    | with_reducible apply runsOut_ok
    | (with_reducible intro _; try dsimp -zeta only)
    | with_reducible apply scatterStep_runs
    | (refine takeOp_moved ?_ (by with_reducible assumption))
    | (refine takeOp_go ?_ (by with_reducible assumption))
    | (extract_lets +onlyGivenNames x; refine runsOut_cut (v := x) ?_ ?_; dsimp -zeta only [x]; clear x; rotate_left; intro _; clear_value x)
    | (extract_lets +onlyGivenNames x; refine runs_cut (v := x) ?_ ?_; dsimp -zeta only [x]; clear x; rotate_left; intro _; clear_value x)
    | extract_lets +onlyGivenNames x
    | split
    | (clear_value *; split)
    | (with_reducible apply runs_mk; first | with_reducible assumption | with_reducible apply scatterStep_runs)
    | (apply runs_mk; first | with_reducible assumption | with_reducible apply scatterStep_runs)
    | (apply runs_more; first | with_reducible assumption | with_reducible apply scatterStep_runs)

theorem setSlots_runs {ks : Bool} {s₀ u₀ : State} (h₀ : Runs ks s₀ u₀) (id : Nat) (zs : List ApplySlot) :
    Runs ks s₀ (setSlots u₀ id zs) := by
  unfold setSlots
  repeat' first
    | with_reducible assumption | (with_reducible intro _; try dsimp -zeta only) | extract_lets +onlyGivenNames x
    | apply runs_mk

theorem applyStep_runs {ks : Bool} {s₀ u₀ : State} (h₀ : Runs ks s₀ u₀) (id : Nat) (x : Ctx) (it : Item) (i : OpIn) :
    Runs ks s₀ (applyStep u₀ id x it i) := by
  unfold applyStep
  repeat' first
    | with_reducible assumption | (with_reducible intro _; try dsimp -zeta only) | with_reducible apply modDesc_runs
    | with_reducible apply modItem_runs | with_reducible apply skipItem_runs | with_reducible apply applyRes_runs
    | (refine rowsFirst_runs (by with_reducible assumption) ?_) | with_reducible apply nameLost_runs
    | with_reducible apply setSlots_runs
    | (with_reducible refine runs_foldl ?_ _ _ (fun v x hv => ?_); rotate_left; try dsimp -zeta only)
    | (extract_lets +onlyGivenNames x; refine runs_cut (v := x) ?_ ?_; dsimp -zeta only [x]; clear x; rotate_left; intro _; clear_value x)
    | extract_lets +onlyGivenNames x | split | apply runs_mk

theorem execRowApply_runs {ks : Bool} {s₀ u₀ : State} (h₀ : Runs ks s₀ u₀) (item : Nat) :
    RunsOut ks s₀ (execRowApply item u₀) := by
  unfold execRowApply
  repeat' first
    | with_reducible assumption
    | exact runsOut_fault _
    | with_reducible apply runsOut_finish
    | with_reducible apply runsOut_ok
    | (with_reducible intro _; try dsimp -zeta only)
    | with_reducible apply applyStep_runs
    | (refine takeOp_moved ?_ (by with_reducible assumption))
    | (refine takeOp_go ?_ (by with_reducible assumption))
    | (extract_lets +onlyGivenNames x; refine runsOut_cut (v := x) ?_ ?_; dsimp -zeta only [x]; clear x; rotate_left; intro _; clear_value x)
    | (extract_lets +onlyGivenNames x; refine runs_cut (v := x) ?_ ?_; dsimp -zeta only [x]; clear x; rotate_left; intro _; clear_value x)
    | extract_lets +onlyGivenNames x
    | split
    | (clear_value *; split)
    | (with_reducible apply runs_mk; first | with_reducible assumption | with_reducible apply applyStep_runs)
    | (apply runs_mk; first | with_reducible assumption | with_reducible apply applyStep_runs)
    | (apply runs_more; first | with_reducible assumption | with_reducible apply applyStep_runs)

theorem modSlot_runs {ks : Bool} {s₀ u₀ : State} (h₀ : Runs ks s₀ u₀) (z : ApplySlot) (f : ApplySlot → ApplySlot) :
    Runs ks s₀ (modSlot u₀ z f) := by
  unfold modSlot
  repeat' first
    | with_reducible assumption | (with_reducible intro _; try dsimp -zeta only) | extract_lets +onlyGivenNames x
    | split | apply runs_mk

theorem holdRow_runs {ks : Bool} {s₀ u₀ : State} (h₀ : Runs ks s₀ u₀) (mig : Nat) (id : Nat) (off : Nat) (row : List Byte) : Runs ks s₀ (holdRow u₀ mig id off row) := by
  unfold holdRow
  repeat' first
    | with_reducible assumption | (with_reducible intro _; try dsimp -zeta only)
    | with_reducible apply modMigration_runs | extract_lets +onlyGivenNames x | apply runs_mk

theorem copySlot_runs {ks : Bool} {s₀ u₀ : State} (h₀ : Runs ks s₀ u₀) (id : Nat) (it : Item) (z : ApplySlot) :
    Runs ks s₀ (copySlot u₀ id it z) := by
  unfold copySlot
  repeat' first
    | with_reducible assumption | (with_reducible intro _; try dsimp -zeta only) | with_reducible apply deckWrite_runs
    | with_reducible apply modItem_runs | with_reducible apply issueWrites_runs | with_reducible apply modEntry_runs
    | with_reducible apply dropStageRow_runs | with_reducible apply nameLost_runs | with_reducible apply modSlot_runs
    | with_reducible apply holdRow_runs
    | (extract_lets +onlyGivenNames x; refine runs_cut (v := x) ?_ ?_; dsimp -zeta only [x]; clear x; rotate_left; intro _; clear_value x)
    | extract_lets +onlyGivenNames x | split | apply runs_mk

theorem landSlot_runs {ks : Bool} {s₀ u₀ : State} (h₀ : Runs ks s₀ u₀) (z : ApplySlot) :
    Runs ks s₀ (landSlot u₀ z) := by
  unfold landSlot
  repeat' first
    | with_reducible assumption | (with_reducible intro _; try dsimp -zeta only)
    | with_reducible apply dropStageRow_runs | with_reducible apply modSlot_runs
    | (extract_lets +onlyGivenNames x; refine runs_cut (v := x) ?_ ?_; dsimp -zeta only [x]; clear x; rotate_left; intro _; clear_value x)
    | extract_lets +onlyGivenNames x | split | apply runs_mk

theorem landSlots_runs {ks : Bool} {s₀ u₀ : State} (h₀ : Runs ks s₀ u₀) (id : Nat) : Runs ks s₀ (landSlots u₀ id) := by
  unfold landSlots
  repeat' first
    | with_reducible assumption | (with_reducible intro _; try dsimp -zeta only) | with_reducible apply landSlot_runs
    | (with_reducible refine runs_foldl ?_ _ _ (fun v x hv => ?_); rotate_left; try dsimp -zeta only)
    | (extract_lets +onlyGivenNames x; refine runs_cut (v := x) ?_ ?_; dsimp -zeta only [x]; clear x; rotate_left; intro _; clear_value x)
    | extract_lets +onlyGivenNames x | split

theorem countSlots_runs {ks : Bool} {s₀ u₀ : State} (h₀ : Runs ks s₀ u₀) (id : Nat) :
    Runs ks s₀ (countSlots u₀ id) := by
  unfold countSlots
  repeat' first
    | with_reducible assumption | (with_reducible intro _; try dsimp -zeta only) | with_reducible apply modEntry_runs
    | (with_reducible refine runs_foldl ?_ _ _ (fun v x hv => ?_); rotate_left; try dsimp -zeta only)
    | extract_lets +onlyGivenNames x | apply runs_mk

theorem markSlots_runs {ks : Bool} {s₀ u₀ : State} (h₀ : Runs ks s₀ u₀) (id : Nat) : Runs ks s₀ (markSlots u₀ id) := by
  unfold markSlots
  repeat' first
    | with_reducible assumption | (with_reducible intro _; try dsimp -zeta only) | with_reducible apply bump_runs
    | with_reducible apply trace_runs | with_reducible apply modQueue_runs
    | (with_reducible refine runs_foldl ?_ _ _ (fun v x hv => ?_); rotate_left; try dsimp -zeta only)
    | (extract_lets +onlyGivenNames x; refine runs_cut (v := x) ?_ ?_; dsimp -zeta only [x]; clear x; rotate_left; intro _; clear_value x)
    | extract_lets +onlyGivenNames x | split | apply runs_mk

theorem writeSkipBlock_runs {ks : Bool} {s₀ u₀ : State} (h₀ : Runs ks s₀ u₀) (z0 : ApplySlot) (keys : List Nat) :
    Runs ks s₀ (writeSkipBlock u₀ z0 keys) := by
  unfold writeSkipBlock
  repeat' first
    | with_reducible assumption | (with_reducible intro _; try dsimp -zeta only) | with_reducible apply event_runs
    | with_reducible apply modQueue_runs | with_reducible apply writeBlock_runs
    | (with_reducible refine runs_foldl ?_ _ _ (fun v x hv => ?_); rotate_left; try dsimp -zeta only)
    | (extract_lets +onlyGivenNames x; refine runs_cut (v := x) ?_ ?_; dsimp -zeta only [x]; clear x; rotate_left; intro _; clear_value x)
    | extract_lets +onlyGivenNames x | split | apply runs_mk

/-! ### Join -/

theorem keepRows_runs {ks : Bool} {s₀ t : State} (ht : Runs ks s₀ t) (s : State) (item : Nat) : Runs ks s₀ (keepRows s t item) := by
  unfold keepRows
  split
  · refine runs_ite (fun _ => ?_) (fun _ => ht)
    split
    · dsimp only
      split
      · exact runs_mk ht
      · exact ht
    · exact ht
  · exact ht

theorem execJoinBuild_runs {ks : Bool} {s₀ u₀ : State} (h₀ : Runs ks s₀ u₀) (item : Nat) : RunsOut ks s₀ (execJoinBuild item u₀) :=
  runsOut_finish (keepRows_runs (runOp_runs h₀ _ _ _) _ _)

theorem commitJoins_runs {ks : Bool} {s₀ u₀ : State} (h₀ : Runs ks s₀ u₀) (id : Nat) :
    Runs ks s₀ (commitJoins u₀ id) := by
  unfold commitJoins
  repeat' first
    | with_reducible assumption | (with_reducible intro _; try dsimp -zeta only) | with_reducible apply deckWrite_runs
    | with_reducible apply modItem_runs
    | (with_reducible refine runs_foldl ?_ _ _ (fun v x hv => ?_); rotate_left; try dsimp -zeta only)
    | (extract_lets +onlyGivenNames x; refine runs_cut (v := x) ?_ ?_; dsimp -zeta only [x]; clear x; rotate_left; intro _; clear_value x)
    | extract_lets +onlyGivenNames x | split | apply runs_mk

theorem markTables_runs {ks : Bool} {s₀ u₀ : State} (h₀ : Runs ks s₀ u₀) (c : Nat) (k : Nat) (n : Nat) (state : Nat) :
    Runs ks s₀ (markTables u₀ c k n state) := by
  unfold markTables
  repeat' first
    | with_reducible assumption | (with_reducible intro _; try dsimp -zeta only) | with_reducible apply deckWrite_runs
    | (with_reducible refine runs_foldl ?_ _ _ (fun v x hv => ?_); rotate_left; try dsimp -zeta only)
    | (extract_lets +onlyGivenNames x; refine runs_cut (v := x) ?_ ?_; dsimp -zeta only [x]; clear x; rotate_left; intro _; clear_value x)
    | extract_lets +onlyGivenNames x | split | apply runs_mk

theorem execJoinProbe_runs {ks : Bool} {s₀ u₀ : State} (h₀ : Runs ks s₀ u₀) (item : Nat) :
    RunsOut ks s₀ (execJoinProbe item u₀) := by
  unfold execJoinProbe
  repeat' first
    | with_reducible assumption | (with_reducible intro _; try dsimp -zeta only) | with_reducible apply runsOut_finish
    | with_reducible apply runOp_runs

/-! ### Cache -/

theorem cacheLookup_runs {ks : Bool} {s₀ u₀ : State} (h₀ : Runs ks s₀ u₀) (c : Nat) (key : List Byte) :
    Runs ks s₀ ((cacheLookup u₀ c key).1) := by
  unfold cacheLookup
  repeat' first
    | with_reducible assumption | (with_reducible intro _; try dsimp -zeta only) | with_reducible apply event_runs
    | with_reducible apply bump_runs | with_reducible apply setCtx_runs
    | (extract_lets +onlyGivenNames x; refine runs_cut (v := x) ?_ ?_; dsimp -zeta only [x]; clear x; rotate_left; intro _; clear_value x)
    | extract_lets +onlyGivenNames x | split | apply runs_mk

theorem cacheInsert_runs {ks : Bool} {s₀ u₀ : State} (h₀ : Runs ks s₀ u₀) (c : Nat) (bs : List Byte) :
    Runs ks s₀ (cacheInsert u₀ c bs) := by
  unfold cacheInsert
  repeat' first
    | with_reducible assumption | (with_reducible intro _; try dsimp -zeta only) | with_reducible apply event_runs
    | with_reducible apply deckWrite_runs | with_reducible apply setCtx_runs
    | (with_reducible refine runs_foldl ?_ _ _ (fun v x hv => ?_); rotate_left; try dsimp -zeta only)
    | (extract_lets +onlyGivenNames x; refine runs_cut (v := x) ?_ ?_; dsimp -zeta only [x]; clear x; rotate_left; intro _; clear_value x)
    | extract_lets +onlyGivenNames x | split | apply runs_mk | apply runs_more

theorem execCacheInvalidate_runs {ks : Bool} {s₀ u₀ : State} (h₀ : Runs ks s₀ u₀) (ctx : Nat) (ring : Nat) :
    RunsOut ks s₀ (execCacheInvalidate ctx ring u₀) := by
  unfold execCacheInvalidate
  repeat' first
    | with_reducible assumption | (with_reducible intro _; try dsimp -zeta only) | with_reducible apply runsOut_finish
    | with_reducible apply setCtx_runs | with_reducible apply completeHead_runs | with_reducible apply command_runs
    | (extract_lets +onlyGivenNames x; refine runsOut_cut (v := x) ?_ ?_; dsimp -zeta only [x]; clear x; rotate_left; intro _; clear_value x)
    | (extract_lets +onlyGivenNames x; refine runs_cut (v := x) ?_ ?_; dsimp -zeta only [x]; clear x; rotate_left; intro _; clear_value x)
    | extract_lets +onlyGivenNames x | apply runs_mk

theorem noteQuars_runs {ks : Bool} {s₀ u₀ : State} (h₀ : Runs ks s₀ u₀) (id : Nat) (it : Item) (o : List Byte) (seg : List Byte) (quars : List Quar) (n : Nat) : Runs ks s₀ (noteQuars u₀ id it o seg quars n) := by
  unfold noteQuars
  repeat' first
    | with_reducible assumption | (with_reducible intro _; try dsimp -zeta only) | with_reducible apply modItem_runs
    | extract_lets +onlyGivenNames x | apply runs_mk

theorem decodeDone_runs {ks : Bool} {s₀ u₀ : State} (h₀ : Runs ks s₀ u₀) (id : Nat) (x : Ctx) (it : Item) (o : List Byte) (out : List Byte) (cost : Nat) (quars : List Quar) (runs : List (Nat × Nat)) (seg : List Byte) (fill : Option (List Byte)) (hit : Bool) : Runs ks s₀ (decodeDone u₀ id x it o out cost quars runs seg fill hit) := by
  unfold decodeDone
  repeat' first
    | with_reducible assumption | (with_reducible intro _; try dsimp -zeta only) | with_reducible apply bump_runs
    | with_reducible apply modItem_runs | with_reducible apply trace_runs | with_reducible apply skipItem_runs
    | with_reducible apply applyRes_runs | with_reducible apply noteQuars_runs
    | (with_reducible refine runs_foldl ?_ _ _ (fun v x hv => ?_); rotate_left; try dsimp -zeta only)
    | (extract_lets +onlyGivenNames x; refine runs_cut (v := x) ?_ ?_; dsimp -zeta only [x]; clear x; rotate_left; intro _; clear_value x)
    | extract_lets +onlyGivenNames x | split | apply runs_mk

theorem lookIf_runs {ks : Bool} {s₀ u₀ : State} (h₀ : Runs ks s₀ u₀) (look : Bool) (c : Nat) (key : List Byte) :
    Runs ks s₀ ((lookIf look u₀ c key).1) := by
  unfold lookIf
  repeat' first
    | with_reducible assumption | with_reducible apply cacheLookup_runs
    | (refine runs_fst (by with_reducible assumption) ?_) | split

theorem runDecode_runs {ks : Bool} {s₀ u₀ : State} (h₀ : Runs ks s₀ u₀) (irc : Bool) (code : Nat) (id : Nat) :
    Runs ks s₀ (runDecode irc code u₀ id) := by
  unfold runDecode
  repeat' first
    | with_reducible assumption
    | (with_reducible intro _; try dsimp -zeta only)
    | with_reducible apply bump_runs
    | with_reducible apply modItem_runs
    | with_reducible apply askExtents_runs
    | with_reducible apply applyRes_runs
    | with_reducible apply noteQuars_runs
    | with_reducible apply decodeDone_runs
    | with_reducible apply lookIf_runs
    | (refine runs_fst (by with_reducible assumption) ?_)
    | (refine runs_snd (by with_reducible assumption) ?_)
    | (with_reducible refine runs_foldl ?_ _ _ (fun v x hv => ?_); rotate_left; try dsimp -zeta only)
    | (extract_lets +onlyGivenNames x; refine runs_cut (v := x) ?_ ?_; dsimp -zeta only [x]; clear x; rotate_left; intro _; clear_value x)
    | extract_lets +onlyGivenNames x
    | split
    | (clear_value *; split)
    | (with_reducible apply runs_mk; first | with_reducible assumption | with_reducible apply bump_runs | with_reducible apply modItem_runs | with_reducible apply askExtents_runs | with_reducible apply applyRes_runs | with_reducible apply noteQuars_runs | with_reducible apply decodeDone_runs | with_reducible apply lookIf_runs)
    | (apply runs_mk; first | with_reducible assumption | with_reducible apply bump_runs | with_reducible apply modItem_runs | with_reducible apply askExtents_runs | with_reducible apply applyRes_runs | with_reducible apply noteQuars_runs | with_reducible apply decodeDone_runs | with_reducible apply lookIf_runs)
    | (apply runs_more; first | with_reducible assumption | with_reducible apply bump_runs | with_reducible apply modItem_runs | with_reducible apply askExtents_runs | with_reducible apply applyRes_runs | with_reducible apply noteQuars_runs | with_reducible apply decodeDone_runs | with_reducible apply lookIf_runs)

theorem execDecodeAvro_runs {ks : Bool} {s₀ u₀ : State} (h₀ : Runs ks s₀ u₀) (item : Nat) :
    RunsOut ks s₀ (execDecodeAvro item u₀) := by
  unfold execDecodeAvro
  repeat' first
    | with_reducible assumption
    | exact runsOut_fault _
    | with_reducible apply runsOut_finish
    | with_reducible apply runsOut_ok
    | (with_reducible intro _; try dsimp -zeta only)
    | with_reducible apply runDecode_runs
    | split
    | (clear_value *; split)
    | (with_reducible apply runs_mk; first | with_reducible assumption | with_reducible apply runDecode_runs)
    | (apply runs_mk; first | with_reducible assumption | with_reducible apply runDecode_runs)
    | (apply runs_more; first | with_reducible assumption | with_reducible apply runDecode_runs)

theorem execDecodeIrc_runs {ks : Bool} {s₀ u₀ : State} (h₀ : Runs ks s₀ u₀) (item : Nat) :
    RunsOut ks s₀ (execDecodeIrc item u₀) := by
  unfold execDecodeIrc
  repeat' first
    | with_reducible assumption
    | exact runsOut_fault _
    | with_reducible apply runsOut_finish
    | with_reducible apply runsOut_ok
    | (with_reducible intro _; try dsimp -zeta only)
    | with_reducible apply runDecode_runs
    | split
    | (clear_value *; split)
    | (with_reducible apply runs_mk; first | with_reducible assumption | with_reducible apply runDecode_runs)
    | (apply runs_mk; first | with_reducible assumption | with_reducible apply runDecode_runs)
    | (apply runs_more; first | with_reducible assumption | with_reducible apply runDecode_runs)

end Sys2Proof.Machine
end

