-- ==== Sys2Proof/Laws/RunsMachine.lean ====
section
/-!
SUPPORT. What items at their end, links, power, scheduling, NVMe, healing and time keep.
-/

namespace Sys2Proof.Machine

open Sys2Proof

set_option linter.tactic.unusedName false

/-! ### Finish -/

theorem commitRun_runs {ks : Bool} {s₀ u₀ : State} (h₀ : Runs ks s₀ u₀) (id : Nat) : Runs ks s₀ (commitRun u₀ id) := by
  unfold commitRun
  repeat' first
    | with_reducible assumption | (with_reducible intro _; try dsimp -zeta only)
    | with_reducible apply commitItem_runs | with_reducible apply skipItem_runs
    | with_reducible apply commitJoins_runs | with_reducible apply cacheInsert_runs
    | (with_reducible refine runs_foldl ?_ _ _ (fun v x hv => ?_); rotate_left; try dsimp -zeta only)
    | (extract_lets +onlyGivenNames x; refine runs_cut (v := x) ?_ ?_; dsimp -zeta only [x]; clear x; rotate_left; intro _; clear_value x)
    | extract_lets +onlyGivenNames x | split | apply runs_mk

theorem execItemCommit_runs {ks : Bool} {s₀ u₀ : State} (h₀ : Runs ks s₀ u₀) (item : Nat) :
    RunsOut ks s₀ (execItemCommit item u₀) := by
  unfold execItemCommit
  repeat' first
    | with_reducible assumption | with_reducible apply runsOut_finish | with_reducible apply runsOut_ok
    | with_reducible apply commitRun_runs | extract_lets +onlyGivenNames x | split | apply runs_mk

theorem execApplySlotCopy_runs {ks : Bool} {s₀ u₀ : State} (h₀ : Runs ks s₀ u₀) (item : Nat) : RunsOut ks s₀ (execApplySlotCopy item u₀) := by
  unfold execApplySlotCopy
  cases getItem u₀ item with
  | none => exact runsOut_ok h₀
  | some it =>
    dsimp -zeta only
    cases slotsOf u₀ item with
    | nil => exact runsOut_ok h₀
    | cons z0 zs =>
      dsimp -zeta only
      extract_lets flagged done skips s1 s2 s3 s4
      have h1 : Runs ks s₀ s1 := freePier_runs (modItem_runs h₀ _ _) _
      clear_value s1
      have h2 : Runs ks s₀ s2 := runs_foldl h1 _ _ (fun v x hv => copySlot_runs hv _ _ _)
      clear_value s2
      have h4 : Runs ks s₀ s4 := advanceApplied_runs (markSlots_runs (landSlots_runs h2 _) _) _ _
      clear_value s4
      split
      · exact runsOut_ok h₀
      · split
        · exact runsOut_finish (modItem_runs (writeSkipBlock_runs h₀ _ _) _ _)
        · split
          · exact runsOut_ok h₀
          · split
            · exact runsOut_finish (commitRun_runs (setSlots_runs (countSlots_runs h4 _) _ _) _)
            · exact runsOut_finish h4

theorem writeTrailer_runs {ks : Bool} {s₀ u₀ : State} (h₀ : Runs ks s₀ u₀) (c : Nat) (r : Nat) (i : Nat) (d : Desc) :
    Runs ks s₀ (writeTrailer u₀ c r i d) := by
  unfold writeTrailer
  repeat' first
    | with_reducible assumption | (with_reducible intro _; try dsimp -zeta only) | with_reducible apply event_runs
    | with_reducible apply bump_runs | with_reducible apply deckWrite_runs | with_reducible apply modDesc_runs
    | with_reducible apply issueWrites_runs
    | (extract_lets +onlyGivenNames x; refine runs_cut (v := x) ?_ ?_; dsimp -zeta only [x]; clear x; rotate_left; intro _; clear_value x)
    | extract_lets +onlyGivenNames x | split | apply runs_mk

theorem sendCloses_runs {ks : Bool} {s₀ u₀ : State} (h₀ : Runs ks s₀ u₀) (c : Nat) (r : Nat) (i : Nat) (x : Ctx) (d : Desc) (o : List Byte) : Runs ks s₀ (sendCloses u₀ c r i x d o) := by
  unfold sendCloses
  repeat' first
    | with_reducible assumption | (with_reducible intro _; try dsimp -zeta only) | with_reducible apply modDesc_runs
    | with_reducible apply issue_runs | with_reducible apply mergeArrive_runs
    | (with_reducible refine runs_foldl ?_ _ _ (fun v x hv => ?_); rotate_left; try dsimp -zeta only)
    | (extract_lets +onlyGivenNames x; refine runs_cut (v := x) ?_ ?_; dsimp -zeta only [x]; clear x; rotate_left; intro _; clear_value x)
    | extract_lets +onlyGivenNames x | split | apply runs_mk

theorem startCloses_runs {ks : Bool} {s₀ u₀ : State} (h₀ : Runs ks s₀ u₀) (c : Nat) (r : Nat) (i : Nat) :
    Runs ks s₀ (startCloses u₀ c r i) := by
  unfold startCloses
  repeat' first
    | with_reducible assumption | (with_reducible intro _; try dsimp -zeta only) | with_reducible apply modDesc_runs
    | with_reducible apply issueReads_runs | with_reducible apply sendCloses_runs
    | (with_reducible refine runs_foldl ?_ _ _ (fun v x hv => ?_); rotate_left; try dsimp -zeta only)
    | (extract_lets +onlyGivenNames x; refine runs_cut (v := x) ?_ ?_; dsimp -zeta only [x]; clear x; rotate_left; intro _; clear_value x)
    | extract_lets +onlyGivenNames x | split | apply runs_mk

theorem lateCloses_runs {ks : Bool} {s₀ u₀ : State} (h₀ : Runs ks s₀ u₀) (c : Nat) (r : Nat) (i : Nat) (d : Desc) :
    Runs ks s₀ (lateCloses u₀ c r i d) := by
  unfold lateCloses
  repeat' first
    | with_reducible assumption | (with_reducible intro _; try dsimp -zeta only) | with_reducible apply modDesc_runs
    | with_reducible apply sendCloses_runs
    | (with_reducible refine runs_foldl ?_ _ _ (fun v x hv => ?_); rotate_left; try dsimp -zeta only)
    | extract_lets +onlyGivenNames x | split | apply runs_mk

theorem descReleased_runs {ks : Bool} {s₀ u₀ : State} (h₀ : Runs ks s₀ u₀) (c : Nat) (r : Nat) (i : Nat) :
    Runs ks s₀ (descReleased u₀ c r i) := by
  unfold descReleased
  repeat' first
    | with_reducible assumption | (with_reducible intro _; try dsimp -zeta only) | with_reducible apply modDesc_runs
    | with_reducible apply startCloses_runs
    | (extract_lets +onlyGivenNames x; refine runs_cut (v := x) ?_ ?_; dsimp -zeta only [x]; clear x; rotate_left; intro _; clear_value x)
    | extract_lets +onlyGivenNames x | split | apply runs_mk

theorem execRelease_runs {ks : Bool} {s₀ u₀ : State} (h₀ : Runs ks s₀ u₀) (flow : Nat) :
    RunsOut ks s₀ (execRelease flow u₀) := by
  unfold execRelease
  repeat' first
    | with_reducible assumption | (with_reducible intro _; try dsimp -zeta only) | with_reducible apply runsOut_finish
    | with_reducible apply runsOut_ok | with_reducible apply modRing_runs | with_reducible apply modDesc_runs
    | with_reducible apply descReleased_runs
    | (extract_lets +onlyGivenNames x; refine runsOut_cut (v := x) ?_ ?_; dsimp -zeta only [x]; clear x; rotate_left; intro _; clear_value x)
    | (extract_lets +onlyGivenNames x; refine runs_cut (v := x) ?_ ?_; dsimp -zeta only [x]; clear x; rotate_left; intro _; clear_value x)
    | extract_lets +onlyGivenNames x | split | apply runs_mk

theorem execCompletionWrite_runs {ks : Bool} {s₀ u₀ : State} (h₀ : Runs ks s₀ u₀) (ctx : Nat) (ring : Nat) :
    RunsOut ks s₀ (execCompletionWrite ctx ring u₀) := by
  unfold execCompletionWrite
  repeat' first
    | with_reducible assumption | (with_reducible intro _; try dsimp -zeta only) | with_reducible apply runsOut_finish
    | with_reducible apply runsOut_ok | with_reducible apply modDesc_runs | with_reducible apply issueWrites_runs
    | with_reducible apply trace_runs | with_reducible apply healLog_runs | with_reducible apply markTables_runs
    | with_reducible apply writeTrailer_runs | with_reducible apply lateCloses_runs
    | (extract_lets +onlyGivenNames x; refine runsOut_cut (v := x) ?_ ?_; dsimp -zeta only [x]; clear x; rotate_left; intro _; clear_value x)
    | (extract_lets +onlyGivenNames x; refine runs_cut (v := x) ?_ ?_; dsimp -zeta only [x]; clear x; rotate_left; intro _; clear_value x)
    | extract_lets +onlyGivenNames x | split | apply runs_mk

/-! ### Trestle -/

theorem execSlotTableSwitch_runs {s₀ u₀ : State} (h₀ : Runs false s₀ u₀)  :
    RunsOut false s₀ (execSlotTableSwitch u₀) := by
  unfold execSlotTableSwitch
  repeat' first
    | with_reducible assumption | with_reducible apply runsOut_ok | with_reducible apply rebookAll_runs
    | extract_lets +onlyGivenNames x | split | apply moves_mk

theorem execLightMessage_runs {ks : Bool} {s₀ u₀ : State} (h₀ : Runs ks s₀ u₀) (src : Nat) :
    RunsOut ks s₀ (execLightMessage src u₀) := by
  unfold execLightMessage
  repeat' first
    | with_reducible assumption | exact runsOut_fault _ | with_reducible apply runsOut_finish
    | with_reducible apply runsOut_ok | with_reducible apply launch_runs
    | (with_reducible apply setPier_runs; rotate_left; first | exact id | exact fun _ => rfl | simp_all)
    | (extract_lets +onlyGivenNames x; refine runsOut_cut (v := x) ?_ ?_; dsimp -zeta only [x]; clear x; rotate_left; intro _; clear_value x)
    | (extract_lets +onlyGivenNames x; refine runs_cut (v := x) ?_ ?_; dsimp -zeta only [x]; clear x; rotate_left; intro _; clear_value x)
    | extract_lets +onlyGivenNames x | split | apply runs_mk

theorem execRelaySend_runs {ks : Bool} {s₀ u₀ : State} (h₀ : Runs ks s₀ u₀) (pier : Nat) (off : Nat) (len : Nat) :
    RunsOut ks s₀ (execRelaySend pier off len u₀) := by
  unfold execRelaySend
  repeat' first
    | with_reducible assumption | (with_reducible intro _; try dsimp -zeta only) | exact runsOut_fault _
    | with_reducible apply runsOut_ok
    | (with_reducible refine runs_foldl ?_ _ _ (fun v x hv => ?_); rotate_left; try dsimp -zeta only)
    | (extract_lets +onlyGivenNames x; refine runsOut_cut (v := x) ?_ ?_; dsimp -zeta only [x]; clear x; rotate_left; intro _; clear_value x)
    | (extract_lets +onlyGivenNames x; refine runs_cut (v := x) ?_ ?_; dsimp -zeta only [x]; clear x; rotate_left; intro _; clear_value x)
    | extract_lets +onlyGivenNames x | split | apply runs_mk

theorem execRefresh_runs {ks : Bool} {s₀ u₀ : State} (h₀ : Runs ks s₀ u₀) (channel : Nat) :
    RunsOut ks s₀ (execRefresh channel u₀) := by
  unfold execRefresh
  repeat' first
    | with_reducible assumption | exact runsOut_fault _ | with_reducible apply runsOut_ok
    | extract_lets +onlyGivenNames x | split | apply runs_mk

/-! ### Sched -/

theorem noteRoots_runs {ks : Bool} {s₀ u₀ : State} (h₀ : Runs ks s₀ u₀) (it : Item) :
    Runs ks s₀ (noteRoots u₀ it) := by
  unfold noteRoots
  repeat' first
    | with_reducible assumption | (with_reducible intro _; try dsimp -zeta only) | with_reducible apply modDesc_runs
    | (extract_lets +onlyGivenNames x; refine runs_cut (v := x) ?_ ?_; dsimp -zeta only [x]; clear x; rotate_left; intro _; clear_value x)
    | extract_lets +onlyGivenNames x | split | apply runs_mk

theorem noteApply_runs {ks : Bool} {s₀ u₀ : State} (h₀ : Runs ks s₀ u₀) (it : Item) :
    Runs ks s₀ (noteApply u₀ it) := by
  unfold noteApply
  repeat' first
    | with_reducible assumption | (with_reducible intro _; try dsimp -zeta only) | with_reducible apply modCtx_runs
    | extract_lets +onlyGivenNames x | split | apply runs_mk

theorem execDispatch_runs {ks : Bool} {s₀ u₀ : State} (h₀ : Runs ks s₀ u₀) (pier : Nat) :
    RunsOut ks s₀ (execDispatch pier u₀) := by
  unfold execDispatch
  repeat' first
    | with_reducible assumption | exact runsOut_fault _ | with_reducible apply runsOut_finish
    | with_reducible apply runsOut_ok | with_reducible apply freeHeld_runs | with_reducible apply modItem_runs
    | with_reducible apply trace_runs | with_reducible apply fetchFrom_runs | with_reducible apply noteRoots_runs
    | with_reducible apply noteApply_runs
    | (with_reducible apply setPier_runs; rotate_left; first | exact id | exact fun _ => rfl | simp_all)
    | (extract_lets +onlyGivenNames x; refine runsOut_cut (v := x) ?_ ?_; dsimp -zeta only [x]; clear x; rotate_left; intro _; clear_value x)
    | (extract_lets +onlyGivenNames x; refine runs_cut (v := x) ?_ ?_; dsimp -zeta only [x]; clear x; rotate_left; intro _; clear_value x)
    | extract_lets +onlyGivenNames x | split | apply runs_mk | apply runs_more

theorem execLaunchGateOpen_runs {ks : Bool} {s₀ u₀ : State} (h₀ : Runs ks s₀ u₀) (item : Nat) :
    RunsOut ks s₀ (execLaunchGateOpen item u₀) := by
  unfold execLaunchGateOpen
  repeat' first
    | with_reducible assumption | (with_reducible intro _; try dsimp -zeta only) | with_reducible apply runsOut_finish
    | with_reducible apply runsOut_ok | with_reducible apply modItem_runs | with_reducible apply trace_runs
    | (extract_lets +onlyGivenNames x; refine runsOut_cut (v := x) ?_ ?_; dsimp -zeta only [x]; clear x; rotate_left; intro _; clear_value x)
    | (extract_lets +onlyGivenNames x; refine runs_cut (v := x) ?_ ?_; dsimp -zeta only [x]; clear x; rotate_left; intro _; clear_value x)
    | extract_lets +onlyGivenNames x | split | apply runs_mk

theorem execCellWaitRelease_runs {ks : Bool} {s₀ u₀ : State} (h₀ : Runs ks s₀ u₀) (item : Nat) :
    RunsOut ks s₀ (execCellWaitRelease item u₀) := by
  unfold execCellWaitRelease
  repeat' first
    | with_reducible assumption | (with_reducible intro _; try dsimp -zeta only) | with_reducible apply runsOut_finish
    | with_reducible apply runsOut_ok | with_reducible apply modItem_runs | with_reducible apply advance_runs
    | extract_lets +onlyGivenNames x | split | apply runs_mk

theorem execWait_runs {ks : Bool} {s₀ u₀ : State} (h₀ : Runs ks s₀ u₀) (item : Nat) :
    RunsOut ks s₀ (execWait item u₀) := by
  unfold execWait
  repeat' first
    | with_reducible assumption | (with_reducible intro _; try dsimp -zeta only) | with_reducible apply runsOut_finish
    | with_reducible apply runsOut_ok | with_reducible apply modItem_runs | with_reducible apply advance_runs
    | (extract_lets +onlyGivenNames x; refine runsOut_cut (v := x) ?_ ?_; dsimp -zeta only [x]; clear x; rotate_left; intro _; clear_value x)
    | (extract_lets +onlyGivenNames x; refine runs_cut (v := x) ?_ ?_; dsimp -zeta only [x]; clear x; rotate_left; intro _; clear_value x)
    | extract_lets +onlyGivenNames x | split | apply runs_mk

theorem execSignal_runs {ks : Bool} {s₀ u₀ : State} (h₀ : Runs ks s₀ u₀) (item : Nat) :
    RunsOut ks s₀ (execSignal item u₀) := by
  unfold execSignal
  repeat' first
    | with_reducible assumption | (with_reducible intro _; try dsimp -zeta only) | with_reducible apply runsOut_finish
    | with_reducible apply runsOut_ok | with_reducible apply modItem_runs | with_reducible apply signalNow_runs
    | with_reducible apply advance_runs
    | (extract_lets +onlyGivenNames x; refine runsOut_cut (v := x) ?_ ?_; dsimp -zeta only [x]; clear x; rotate_left; intro _; clear_value x)
    | (extract_lets +onlyGivenNames x; refine runs_cut (v := x) ?_ ?_; dsimp -zeta only [x]; clear x; rotate_left; intro _; clear_value x)
    | extract_lets +onlyGivenNames x | split | apply runs_mk

theorem execItemBudgetSkip_runs {ks : Bool} {s₀ u₀ : State} (h₀ : Runs ks s₀ u₀) (item : Nat) :
    RunsOut ks s₀ (execItemBudgetSkip item u₀) := by
  unfold execItemBudgetSkip
  repeat' first
    | with_reducible assumption | with_reducible apply runsOut_finish | with_reducible apply runsOut_ok
    | with_reducible apply skipItem_runs | extract_lets +onlyGivenNames x | split | apply runs_mk

theorem dropItemAccs_runs {ks : Bool} {s₀ u₀ : State} (h₀ : Runs ks s₀ u₀) (id : Nat) :
    Runs ks s₀ (dropItemAccs u₀ id) := by
  unfold dropItemAccs
  repeat' first
    | with_reducible assumption | (with_reducible intro _; try dsimp -zeta only) | with_reducible apply orphan_runs
    | with_reducible apply closeRequest_runs
    | (with_reducible refine runs_foldl ?_ _ _ (fun v x hv => ?_); rotate_left; try dsimp -zeta only)

theorem execOutsideTimeout_runs {ks : Bool} {s₀ u₀ : State} (h₀ : Runs ks s₀ u₀) (item : Nat) :
    RunsOut ks s₀ (execOutsideTimeout item u₀) := by
  unfold execOutsideTimeout
  repeat' first
    | with_reducible assumption | with_reducible apply runsOut_finish | with_reducible apply runsOut_ok
    | with_reducible apply event_runs | with_reducible apply skipItem_runs | with_reducible apply dropItemAccs_runs
    | extract_lets +onlyGivenNames x | split | apply runs_mk

theorem execRecordBudgetQuarantine_runs {ks : Bool} {s₀ u₀ : State} (h₀ : Runs ks s₀ u₀) (item : Nat) :
    RunsOut ks s₀ (execRecordBudgetQuarantine item u₀) := by
  unfold execRecordBudgetQuarantine
  repeat' first
    | with_reducible assumption | (with_reducible intro _; try dsimp -zeta only) | with_reducible apply runsOut_ok
    | with_reducible apply modItem_runs | extract_lets +onlyGivenNames x | split | apply runs_mk

theorem swapOut_runs {ks : Bool} {s₀ u₀ : State} (h₀ : Runs ks s₀ u₀) (ctx : Nat) (x : Ctx) :
    Runs ks s₀ (swapOut u₀ ctx x) := by
  unfold swapOut
  repeat' first
    | with_reducible assumption | (with_reducible intro _; try dsimp -zeta only) | with_reducible apply setCtx_runs
    | extract_lets +onlyGivenNames x | apply runs_mk

theorem execSliceBoundary_runs {ks : Bool} {s₀ u₀ : State} (h₀ : Runs ks s₀ u₀) (ctx : Nat) :
    RunsOut ks s₀ (execSliceBoundary ctx u₀) := by
  unfold execSliceBoundary
  repeat' first
    | with_reducible assumption | with_reducible apply runsOut_finish | with_reducible apply runsOut_ok
    | with_reducible apply setCtx_runs | with_reducible apply swapOut_runs | extract_lets +onlyGivenNames x | split
    | apply runs_mk

theorem execSwapIn_runs {ks : Bool} {s₀ u₀ : State} (h₀ : Runs ks s₀ u₀) : RunsOut ks s₀ (execSwapIn u₀) := by
  unfold execSwapIn
  split
  · exact runsOut_ok h₀
  · split
    · exact runsOut_finish (runs_mk (setCtx_runs h₀ _ _))
    · exact runsOut_ok h₀

/-! ### Link -/

theorem setLink_runs {ks : Bool} {s₀ u₀ : State} (h₀ : Runs ks s₀ u₀) (p : Nat) (l : Link) :
    Runs ks s₀ (setLink u₀ p l) := by
  unfold setLink
  repeat' first
    | with_reducible assumption | with_reducible apply setSpanLink_runs | extract_lets +onlyGivenNames x | split
    | apply runs_mk

theorem takeSet_runs {ks : Bool} {s₀ u₀ : State} (h₀ : Runs ks s₀ u₀) (p : Nat) (ty : Nat) (lane : Nat) (set : List Byte) : Runs ks s₀ (takeSet u₀ p ty lane set) := by
  unfold takeSet
  repeat' first
    | with_reducible assumption | with_reducible apply takeFree_runs
    | (refine runs_snd (by with_reducible assumption) ?_) | with_reducible apply setLink_runs
    | (extract_lets +onlyGivenNames x; refine runs_cut (v := x) ?_ ?_; dsimp -zeta only [x]; clear x; rotate_left; intro _; clear_value x)
    | extract_lets +onlyGivenNames x | split

theorem execTs1_runs {ks : Bool} {s₀ u₀ : State} (h₀ : Runs ks s₀ u₀) (port : Fin 9) (lane : Nat) (set : List Byte) :
    RunsOut ks s₀ (execTs1 port lane set u₀) := by
  unfold execTs1
  repeat' first | with_reducible assumption | with_reducible apply runsOut_ok | with_reducible apply takeSet_runs

theorem execTs2_runs {ks : Bool} {s₀ u₀ : State} (h₀ : Runs ks s₀ u₀) (port : Fin 9) (lane : Nat) (set : List Byte) :
    RunsOut ks s₀ (execTs2 port lane set u₀) := by
  unfold execTs2
  repeat' first | with_reducible assumption | with_reducible apply runsOut_ok | with_reducible apply takeSet_runs

theorem enter_runs {ks : Bool} {s₀ u₀ : State} (h₀ : Runs ks s₀ u₀) (p : Nat) (st : LinkState) (f : Link → Link) :
    Runs ks s₀ (enter u₀ p st f) := by
  unfold enter
  repeat' first
    | with_reducible assumption | with_reducible apply setLink_runs
    | (extract_lets +onlyGivenNames x; refine runs_cut (v := x) ?_ ?_; dsimp -zeta only [x]; clear x; rotate_left; intro _; clear_value x)
    | extract_lets +onlyGivenNames x | apply runs_mk

theorem goActive_runs {ks : Bool} {s₀ u₀ : State} (h₀ : Runs ks s₀ u₀) (p : Nat) (st : LinkState) :
    Runs ks s₀ (goActive u₀ p st) := by
  unfold goActive
  repeat' first
    | with_reducible assumption | (with_reducible intro _; try dsimp -zeta only) | with_reducible apply event_runs
    | with_reducible apply healLog_runs | with_reducible apply enter_runs
    | (extract_lets +onlyGivenNames x; refine runs_cut (v := x) ?_ ?_; dsimp -zeta only [x]; clear x; rotate_left; intro _; clear_value x)
    | extract_lets +onlyGivenNames x | split | apply runs_mk

theorem execTrainingStateExit_runs {ks : Bool} {s₀ u₀ : State} (h₀ : Runs ks s₀ u₀) (port : Fin 9) (lanes : List Nat) :
    RunsOut ks s₀ (execTrainingStateExit port lanes u₀) := by
  unfold execTrainingStateExit
  repeat' first
    | with_reducible assumption | (with_reducible intro _; try dsimp -zeta only) | with_reducible apply runsOut_finish
    | with_reducible apply runsOut_ok | with_reducible apply setLink_runs | with_reducible apply enter_runs
    | with_reducible apply goActive_runs
    | (extract_lets +onlyGivenNames x; refine runsOut_cut (v := x) ?_ ?_; dsimp -zeta only [x]; clear x; rotate_left; intro _; clear_value x)
    | (extract_lets +onlyGivenNames x; refine runs_cut (v := x) ?_ ?_; dsimp -zeta only [x]; clear x; rotate_left; intro _; clear_value x)
    | extract_lets +onlyGivenNames x | split | apply runs_mk

theorem failAttempt_runs {ks : Bool} {s₀ u₀ : State} (h₀ : Runs ks s₀ u₀) (p : Nat) :
    Runs ks s₀ (failAttempt u₀ p) := by
  unfold failAttempt
  repeat' first
    | with_reducible assumption | (with_reducible intro _; try dsimp -zeta only) | with_reducible apply event_runs
    | with_reducible apply enter_runs
    | (extract_lets +onlyGivenNames x; refine runs_cut (v := x) ?_ ?_; dsimp -zeta only [x]; clear x; rotate_left; intro _; clear_value x)
    | extract_lets +onlyGivenNames x | split | apply runs_mk

theorem execTrainingStateTimeout_runs {ks : Bool} {s₀ u₀ : State} (h₀ : Runs ks s₀ u₀) (port : Fin 9) :
    RunsOut ks s₀ (execTrainingStateTimeout port u₀) := by
  unfold execTrainingStateTimeout
  repeat' first
    | with_reducible assumption | with_reducible apply runsOut_ok | with_reducible apply failAttempt_runs
    | extract_lets +onlyGivenNames x | split | apply runs_mk

theorem execLinkDownRetry_runs {ks : Bool} {s₀ u₀ : State} (h₀ : Runs ks s₀ u₀) (port : Fin 9) :
    RunsOut ks s₀ (execLinkDownRetry port u₀) := by
  unfold execLinkDownRetry
  repeat' first
    | with_reducible assumption | (with_reducible intro _; try dsimp -zeta only) | with_reducible apply runsOut_ok
    | with_reducible apply enter_runs
    | (extract_lets +onlyGivenNames x; refine runsOut_cut (v := x) ?_ ?_; dsimp -zeta only [x]; clear x; rotate_left; intro _; clear_value x)
    | (extract_lets +onlyGivenNames x; refine runs_cut (v := x) ?_ ?_; dsimp -zeta only [x]; clear x; rotate_left; intro _; clear_value x)
    | extract_lets +onlyGivenNames x | split | apply runs_mk

theorem startTraining_runs {ks : Bool} {s₀ u₀ : State} (h₀ : Runs ks s₀ u₀) (p : Nat) :
    Runs ks s₀ (startTraining u₀ p) := by
  unfold startTraining
  repeat' first
    | with_reducible assumption | (with_reducible intro _; try dsimp -zeta only) | with_reducible apply enter_runs
    | extract_lets +onlyGivenNames x | apply runs_mk

theorem enterRetrain_runs {ks : Bool} {s₀ u₀ : State} (h₀ : Runs ks s₀ u₀) (p : Nat) :
    Runs ks s₀ (enterRetrain u₀ p) := by
  unfold enterRetrain
  repeat' first
    | with_reducible assumption | (with_reducible intro _; try dsimp -zeta only) | with_reducible apply enter_runs
    | (extract_lets +onlyGivenNames x; refine runs_cut (v := x) ?_ ?_; dsimp -zeta only [x]; clear x; rotate_left; intro _; clear_value x)
    | extract_lets +onlyGivenNames x | split | apply runs_mk

theorem rejectFrame_runs {ks : Bool} {s₀ u₀ : State} (h₀ : Runs ks s₀ u₀) (p : Nat) :
    Runs ks s₀ (rejectFrame u₀ p) := by
  unfold rejectFrame
  repeat' first
    | with_reducible assumption | with_reducible apply setLink_runs
    | (extract_lets +onlyGivenNames x; refine runs_cut (v := x) ?_ ?_; dsimp -zeta only [x]; clear x; rotate_left; intro _; clear_value x)
    | extract_lets +onlyGivenNames x | split | apply runs_mk

theorem napDrained_runs {ks : Bool} {s₀ u₀ : State} (h₀ : Runs ks s₀ u₀)  : Runs ks s₀ (napDrained u₀) := by
  unfold napDrained
  repeat' first
    | with_reducible assumption | (with_reducible intro _; try dsimp -zeta only) | with_reducible apply enter_runs
    | extract_lets +onlyGivenNames x | split | apply runs_mk

theorem receiveFrame_runs {ks : Bool} {s₀ u₀ : State} (h₀ : Runs ks s₀ u₀) (p : Nat) (f : Frame) :
    Runs ks s₀ ((receiveFrame u₀ p f).1) := by
  unfold receiveFrame
  repeat' first
    | with_reducible assumption | with_reducible apply bump_runs | with_reducible apply setLink_runs
    | with_reducible apply rejectFrame_runs
    | (extract_lets +onlyGivenNames x; refine runs_cut (v := x) ?_ ?_; dsimp -zeta only [x]; clear x; rotate_left; intro _; clear_value x)
    | extract_lets +onlyGivenNames x | split | apply runs_mk

theorem resendFrames_runs {ks : Bool} {s₀ u₀ : State} (h₀ : Runs ks s₀ u₀) (p : Nat) (ack : Nat) :
    Runs ks s₀ (resendFrames u₀ p ack) := by
  unfold resendFrames
  repeat' first
    | with_reducible assumption | with_reducible apply setLink_runs
    | (extract_lets +onlyGivenNames x; refine runs_cut (v := x) ?_ ?_; dsimp -zeta only [x]; clear x; rotate_left; intro _; clear_value x)
    | extract_lets +onlyGivenNames x | apply runs_mk

theorem execNapRequest_runs {ks : Bool} {s₀ u₀ : State} (h₀ : Runs ks s₀ u₀)  : RunsOut ks s₀ (execNapRequest u₀) := by
  unfold execNapRequest
  repeat' first
    | with_reducible assumption | with_reducible apply runsOut_ok | extract_lets +onlyGivenNames x | split
    | apply runs_mk

theorem napAcked_runs {ks : Bool} {s₀ u₀ : State} (h₀ : Runs ks s₀ u₀)  : Runs ks s₀ (napAcked u₀) := by
  unfold napAcked
  repeat' first
    | with_reducible assumption | with_reducible apply napDrained_runs | extract_lets +onlyGivenNames x | split
    | apply runs_mk

/-! ### Power -/

theorem applyEntries_runs {ks : Bool} {s₀ u₀ : State} (h₀ : Runs ks s₀ u₀) (img : List Byte) :
    Runs ks s₀ (applyEntries u₀ img) := by
  unfold applyEntries
  repeat' first
    | with_reducible assumption | (with_reducible intro _; try dsimp -zeta only) | with_reducible apply rwStore_runs
    | (with_reducible refine runs_foldl ?_ _ _ (fun v x hv => ?_); rotate_left; try dsimp -zeta only)

theorem bringOverlay_runs {s₀ u₀ : State} (h₀ : Runs false s₀ u₀) (ov : Option Nat) (at_ : Nat) :
    Runs false s₀ (bringOverlay u₀ ov at_) := by
  unfold bringOverlay
  repeat' first
    | with_reducible assumption | with_reducible apply applyEntries_runs
    | (extract_lets +onlyGivenNames x; refine runs_cut (v := x) ?_ ?_; dsimp -zeta only [x]; clear x; rotate_left; intro _; clear_value x)
    | extract_lets +onlyGivenNames x | split | apply moves_mk

theorem switchGo_runs {ks : Bool} {s₀ u₀ : State} (h₀ : Runs ks s₀ u₀) (data : Nat) :
    Runs ks s₀ (switchGo u₀ data) := by
  unfold switchGo
  repeat' first
    | with_reducible assumption | with_reducible apply event_runs
    | (extract_lets +onlyGivenNames x; refine runs_cut (v := x) ?_ ?_; dsimp -zeta only [x]; clear x; rotate_left; intro _; clear_value x)
    | extract_lets +onlyGivenNames x | split | apply runs_mk

theorem execCfgSwitchGo_runs {ks : Bool} {s₀ u₀ : State} (h₀ : Runs ks s₀ u₀) (data : Nat) :
    RunsOut ks s₀ (execCfgSwitchGo data u₀) := by
  unfold execCfgSwitchGo
  repeat' first
    | with_reducible assumption | with_reducible apply runsOut_ok | with_reducible apply switchGo_runs | split

theorem traceAll_runs {ks : Bool} {s₀ u₀ : State} (h₀ : Runs ks s₀ u₀) (src : Nat) (kind : Nat) (object : Nat) (detail : Nat) : Runs ks s₀ (traceAll u₀ src kind object detail) := by
  unfold traceAll
  repeat' first
    | with_reducible assumption | (with_reducible intro _; try dsimp -zeta only) | with_reducible apply trace_runs
    | (with_reducible refine runs_foldl ?_ _ _ (fun v x hv => ?_); rotate_left; try dsimp -zeta only)

theorem execOverlaySwitch_runs {s₀ u₀ : State} (h₀ : Runs false s₀ u₀)  : RunsOut false s₀ (execOverlaySwitch u₀) := by
  unfold execOverlaySwitch
  repeat' first
    | with_reducible assumption | with_reducible apply runsOut_finish | with_reducible apply runsOut_ok
    | with_reducible apply event_runs | with_reducible apply bringOverlay_runs | with_reducible apply traceAll_runs
    | (extract_lets +onlyGivenNames x; refine runsOut_cut (v := x) ?_ ?_; dsimp -zeta only [x]; clear x; rotate_left; intro _; clear_value x)
    | (extract_lets +onlyGivenNames x; refine runs_cut (v := x) ?_ ?_; dsimp -zeta only [x]; clear x; rotate_left; intro _; clear_value x)
    | extract_lets +onlyGivenNames x | split | apply moves_mk

theorem requestNap_runs {ks : Bool} {s₀ u₀ : State} (h₀ : Runs ks s₀ u₀)  : Runs ks s₀ (requestNap u₀) := by
  unfold requestNap
  repeat' first
    | with_reducible assumption | with_reducible apply rwStore_runs | with_reducible apply event_runs
    | (extract_lets +onlyGivenNames x; refine runs_cut (v := x) ?_ ?_; dsimp -zeta only [x]; clear x; rotate_left; intro _; clear_value x)
    | extract_lets +onlyGivenNames x | split | apply runs_mk

theorem execPwrRequestNap_runs {ks : Bool} {s₀ u₀ : State} (h₀ : Runs ks s₀ u₀)  :
    RunsOut ks s₀ (execPwrRequestNap u₀) := by
  unfold execPwrRequestNap
  repeat' first
    | with_reducible assumption | with_reducible apply runsOut_ok | with_reducible apply requestNap_runs | split

theorem execPwrRequestRun_runs {ks : Bool} {s₀ u₀ : State} (h₀ : Runs ks s₀ u₀)  :
    RunsOut ks s₀ (execPwrRequestRun u₀) := by
  unfold execPwrRequestRun
  repeat' first
    | with_reducible assumption | with_reducible apply runsOut_ok | with_reducible apply rwStore_runs
    | with_reducible apply wakeUp_runs | split

theorem saveScratch_runs {ks : Bool} {s₀ u₀ : State} (h₀ : Runs ks s₀ u₀)  : Runs ks s₀ (saveScratch u₀) := by
  unfold saveScratch
  repeat' first
    | with_reducible assumption | (with_reducible intro _; try dsimp -zeta only) | extract_lets +onlyGivenNames x
    | split | apply runs_mk

theorem loadScratch_runs {ks : Bool} {s₀ u₀ : State} (h₀ : Runs ks s₀ u₀)  : Runs ks s₀ (loadScratch u₀) := by
  unfold loadScratch
  repeat' first
    | with_reducible assumption | (with_reducible intro _; try dsimp -zeta only)
    | (with_reducible refine runs_foldl ?_ _ _ (fun v x hv => ?_); rotate_left; try dsimp -zeta only)
    | extract_lets +onlyGivenNames x | split | apply runs_mk

theorem portsOff_runs {ks : Bool} {s₀ u₀ : State} (h₀ : Runs ks s₀ u₀)  : Runs ks s₀ (portsOff u₀) := by
  unfold portsOff
  repeat' first
    | with_reducible assumption | (with_reducible intro _; try dsimp -zeta only) | with_reducible apply event_runs
    | with_reducible apply setSpanLink_runs
    | (with_reducible refine runs_foldl ?_ _ _ (fun v x hv => ?_); rotate_left; try dsimp -zeta only)
    | (extract_lets +onlyGivenNames x; refine runs_cut (v := x) ?_ ?_; dsimp -zeta only [x]; clear x; rotate_left; intro _; clear_value x)
    | extract_lets +onlyGivenNames x | split | apply runs_mk

theorem execNapEntryStep_runs {s₀ u₀ : State} (h₀ : Runs false s₀ u₀)  : RunsOut false s₀ (execNapEntryStep u₀) := by
  unfold execNapEntryStep
  repeat' first
    | with_reducible assumption | with_reducible apply runsOut_ok | with_reducible apply event_runs
    | with_reducible apply saveScratch_runs | with_reducible apply portsOff_runs
    | (extract_lets +onlyGivenNames x; refine runsOut_cut (v := x) ?_ ?_; dsimp -zeta only [x]; clear x; rotate_left; intro _; clear_value x)
    | (extract_lets +onlyGivenNames x; refine runs_cut (v := x) ?_ ?_; dsimp -zeta only [x]; clear x; rotate_left; intro _; clear_value x)
    | extract_lets +onlyGivenNames x | split | apply moves_mk

theorem backToRun_runs {s₀ u₀ : State} (h₀ : Runs false s₀ u₀)  : Runs false s₀ (backToRun u₀) := by
  unfold backToRun
  repeat' first
    | with_reducible assumption | (with_reducible intro _; try dsimp -zeta only) | with_reducible apply enter_runs
    | with_reducible apply startTraining_runs | with_reducible apply loadScratch_runs
    | (with_reducible refine runs_foldl ?_ _ _ (fun v x hv => ?_); rotate_left; try dsimp -zeta only)
    | (extract_lets +onlyGivenNames x; refine runs_cut (v := x) ?_ ?_; dsimp -zeta only [x]; clear x; rotate_left; intro _; clear_value x)
    | extract_lets +onlyGivenNames x | split | apply moves_mk

theorem execNapWake_runs {s₀ u₀ : State} (h₀ : Runs false s₀ u₀)  : RunsOut false s₀ (execNapWake u₀) := by
  unfold execNapWake
  repeat' first
    | with_reducible assumption | with_reducible apply runsOut_finish | with_reducible apply runsOut_ok
    | with_reducible apply rwStore_runs | with_reducible apply event_runs | with_reducible apply backToRun_runs
    | (extract_lets +onlyGivenNames x; refine runsOut_cut (v := x) ?_ ?_; dsimp -zeta only [x]; clear x; rotate_left; intro _; clear_value x)
    | (extract_lets +onlyGivenNames x; refine runs_cut (v := x) ?_ ?_; dsimp -zeta only [x]; clear x; rotate_left; intro _; clear_value x)
    | extract_lets +onlyGivenNames x | split | apply moves_mk

theorem execNapAckTimeout_runs {s₀ u₀ : State} (h₀ : Runs false s₀ u₀)  : RunsOut false s₀ (execNapAckTimeout u₀) := by
  unfold execNapAckTimeout
  repeat' first
    | with_reducible assumption | with_reducible apply runsOut_finish | with_reducible apply runsOut_ok
    | with_reducible apply rwStore_runs | with_reducible apply event_runs | with_reducible apply backToRun_runs
    | extract_lets +onlyGivenNames x | split | apply moves_mk

theorem execTrimEvaluation_runs {s₀ u₀ : State} (h₀ : Runs false s₀ u₀) (temps : List Int) (power : Nat) :
    RunsOut false s₀ (execTrimEvaluation temps power u₀) := by
  unfold execTrimEvaluation
  repeat' first
    | with_reducible assumption | with_reducible apply runsOut_ok | with_reducible apply event_runs
    | (extract_lets +onlyGivenNames x; refine runsOut_cut (v := x) ?_ ?_; dsimp -zeta only [x]; clear x; rotate_left; intro _; clear_value x)
    | (extract_lets +onlyGivenNames x; refine runs_cut (v := x) ?_ ?_; dsimp -zeta only [x]; clear x; rotate_left; intro _; clear_value x)
    | extract_lets +onlyGivenNames x | split | apply moves_mk

theorem execTrimGateTick_runs {ks : Bool} {s₀ u₀ : State} (h₀ : Runs ks s₀ u₀)  :
    RunsOut ks s₀ (execTrimGateTick u₀) := by
  unfold execTrimGateTick
  repeat' first
    | with_reducible assumption | with_reducible apply runsOut_ok
    | (extract_lets +onlyGivenNames x; refine runsOut_cut (v := x) ?_ ?_; dsimp -zeta only [x]; clear x; rotate_left; intro _; clear_value x)
    | (extract_lets +onlyGivenNames x; refine runs_cut (v := x) ?_ ?_; dsimp -zeta only [x]; clear x; rotate_left; intro _; clear_value x)
    | extract_lets +onlyGivenNames x | split | apply runs_mk

theorem goOff_runs {s₀ u₀ : State} (h₀ : Runs false s₀ u₀)  : Runs false s₀ (goOff u₀) := by
  unfold goOff
  repeat' first
    | with_reducible assumption | (with_reducible intro _; try dsimp -zeta only) | extract_lets +onlyGivenNames x
    | apply moves_mk

theorem execForcedOff_runs {s₀ u₀ : State} (h₀ : Runs false s₀ u₀) (cause : OffCause) :
    RunsOut false s₀ (execForcedOff cause u₀) := by
  unfold execForcedOff
  repeat' first | with_reducible assumption | with_reducible apply runsOut_ok | with_reducible apply goOff_runs | split

theorem execBrownOut_runs {s₀ u₀ : State} (h₀ : Runs false s₀ u₀) (aux : Bool) (millivolts : Nat) (nanoseconds : Nat) :
    RunsOut false s₀ (execBrownOut aux millivolts nanoseconds u₀) := by
  unfold execBrownOut
  repeat' first
    | with_reducible assumption | with_reducible apply runsOut_ok | with_reducible apply goOff_runs
    | (extract_lets +onlyGivenNames x; refine runsOut_cut (v := x) ?_ ?_; dsimp -zeta only [x]; clear x; rotate_left; intro _; clear_value x)
    | (extract_lets +onlyGivenNames x; refine runs_cut (v := x) ?_ ?_; dsimp -zeta only [x]; clear x; rotate_left; intro _; clear_value x)
    | extract_lets +onlyGivenNames x | split | apply moves_mk

theorem execResetNRelease_runs {s₀ u₀ : State} (h₀ : Runs false s₀ u₀)  : RunsOut false s₀ (execResetNRelease u₀) := by
  unfold execResetNRelease
  repeat' first
    | with_reducible assumption | with_reducible apply runsOut_ok | extract_lets +onlyGivenNames x | split
    | apply moves_mk

theorem execRootPllLock_runs {s₀ u₀ : State} (h₀ : Runs false s₀ u₀)  : RunsOut false s₀ (execRootPllLock u₀) := by
  unfold execRootPllLock
  repeat' first
    | with_reducible assumption | with_reducible apply runsOut_ok | extract_lets +onlyGivenNames x | split
    | apply moves_mk

/-! ### Nvme -/

theorem setCtl_runs {ks : Bool} {s₀ u₀ : State} (h₀ : Runs ks s₀ u₀) (k : Nat) (c : NvmeCtl) :
    Runs ks s₀ (setCtl u₀ k c) := by
  unfold setCtl
  repeat' first | with_reducible assumption | extract_lets +onlyGivenNames x | apply runs_mk

theorem nvmeBad_runs {ks : Bool} {s₀ u₀ : State} (h₀ : Runs ks s₀ u₀)  : Runs ks s₀ (nvmeBad u₀) := by
  unfold nvmeBad
  repeat' first | with_reducible assumption | with_reducible apply bump_runs

theorem execNvmeCompletion_runs {ks : Bool} {s₀ u₀ : State} (h₀ : Runs ks s₀ u₀) (port : Nat) (ctrl : Nat) (queue : Nat) (entry : List Byte) : RunsOut ks s₀ (execNvmeCompletion port ctrl queue entry u₀) := by
  unfold execNvmeCompletion
  repeat' first
    | with_reducible assumption | exact runsOut_fault _ | with_reducible apply runsOut_finish
    | with_reducible apply runsOut_ok | with_reducible apply accDone_runs | with_reducible apply setCtl_runs
    | with_reducible apply nvmeBad_runs
    | (extract_lets +onlyGivenNames x; refine runsOut_cut (v := x) ?_ ?_; dsimp -zeta only [x]; clear x; rotate_left; intro _; clear_value x)
    | (extract_lets +onlyGivenNames x; refine runs_cut (v := x) ?_ ?_; dsimp -zeta only [x]; clear x; rotate_left; intro _; clear_value x)
    | extract_lets +onlyGivenNames x | split | apply runs_mk | apply runs_more

theorem execNvmeInboundRequest_runs {ks : Bool} {s₀ u₀ : State} (h₀ : Runs ks s₀ u₀) (port : Nat) (ctrl : Nat) (write : Bool) (addr : Nat) (len : Nat) (data : List Byte) : RunsOut ks s₀ (execNvmeInboundRequest port ctrl write addr len data u₀) := by
  unfold execNvmeInboundRequest
  repeat' first
    | with_reducible assumption | (with_reducible intro _; try dsimp -zeta only) | exact runsOut_fault _
    | with_reducible apply runsOut_ok | with_reducible apply setCtl_runs | with_reducible apply nvmeBad_runs
    | (extract_lets +onlyGivenNames x; refine runsOut_cut (v := x) ?_ ?_; dsimp -zeta only [x]; clear x; rotate_left; intro _; clear_value x)
    | (extract_lets +onlyGivenNames x; refine runs_cut (v := x) ?_ ?_; dsimp -zeta only [x]; clear x; rotate_left; intro _; clear_value x)
    | extract_lets +onlyGivenNames x | split | apply runs_mk

theorem execNvmeCommandTimeout_runs {ks : Bool} {s₀ u₀ : State} (h₀ : Runs ks s₀ u₀) (acc : Nat) :
    RunsOut ks s₀ (execNvmeCommandTimeout acc u₀) := by
  unfold execNvmeCommandTimeout
  repeat' first
    | with_reducible assumption | (with_reducible intro _; try dsimp -zeta only) | with_reducible apply runsOut_ok
    | with_reducible apply bump_runs | with_reducible apply modAcc_runs | with_reducible apply setCtl_runs
    | (extract_lets +onlyGivenNames x; refine runsOut_cut (v := x) ?_ ?_; dsimp -zeta only [x]; clear x; rotate_left; intro _; clear_value x)
    | (extract_lets +onlyGivenNames x; refine runs_cut (v := x) ?_ ?_; dsimp -zeta only [x]; clear x; rotate_left; intro _; clear_value x)
    | extract_lets +onlyGivenNames x | split | apply runs_mk

theorem execNvmeControllerReset_runs {ks : Bool} {s₀ u₀ : State} (h₀ : Runs ks s₀ u₀) (port : Nat) (ctrl : Nat) :
    RunsOut ks s₀ (execNvmeControllerReset port ctrl u₀) := by
  unfold execNvmeControllerReset
  repeat' first
    | with_reducible assumption | exact runsOut_fault _ | with_reducible apply runsOut_ok
    | with_reducible apply event_runs | with_reducible apply setCtl_runs
    | (extract_lets +onlyGivenNames x; refine runsOut_cut (v := x) ?_ ?_; dsimp -zeta only [x]; clear x; rotate_left; intro _; clear_value x)
    | (extract_lets +onlyGivenNames x; refine runs_cut (v := x) ?_ ?_; dsimp -zeta only [x]; clear x; rotate_left; intro _; clear_value x)
    | extract_lets +onlyGivenNames x | split | apply runs_mk

theorem execNvmeControllerReady_runs {ks : Bool} {s₀ u₀ : State} (h₀ : Runs ks s₀ u₀) (port : Nat) (ctrl : Nat) :
    RunsOut ks s₀ (execNvmeControllerReady port ctrl u₀) := by
  unfold execNvmeControllerReady
  repeat' first
    | with_reducible assumption | exact runsOut_fault _ | with_reducible apply runsOut_ok
    | with_reducible apply setCtl_runs
    | (extract_lets +onlyGivenNames x; refine runsOut_cut (v := x) ?_ ?_; dsimp -zeta only [x]; clear x; rotate_left; intro _; clear_value x)
    | (extract_lets +onlyGivenNames x; refine runs_cut (v := x) ?_ ?_; dsimp -zeta only [x]; clear x; rotate_left; intro _; clear_value x)
    | extract_lets +onlyGivenNames x | split | apply runs_mk

theorem execNvmeLost_runs {ks : Bool} {s₀ u₀ : State} (h₀ : Runs ks s₀ u₀) (port : Nat) (ctrl : Nat) :
    RunsOut ks s₀ (execNvmeLost port ctrl u₀) := by
  unfold execNvmeLost
  repeat' first
    | with_reducible assumption | (with_reducible intro _; try dsimp -zeta only) | exact runsOut_fault _
    | with_reducible apply runsOut_finish | with_reducible apply runsOut_ok | with_reducible apply event_runs
    | with_reducible apply healLog_runs | with_reducible apply accDone_runs | with_reducible apply setCtl_runs
    | (with_reducible refine runs_foldl ?_ _ _ (fun v x hv => ?_); rotate_left; try dsimp -zeta only)
    | (extract_lets +onlyGivenNames x; refine runsOut_cut (v := x) ?_ ?_; dsimp -zeta only [x]; clear x; rotate_left; intro _; clear_value x)
    | (extract_lets +onlyGivenNames x; refine runs_cut (v := x) ?_ ?_; dsimp -zeta only [x]; clear x; rotate_left; intro _; clear_value x)
    | extract_lets +onlyGivenNames x | split | apply runs_mk

/-! ### Heal -/

theorem noteReplay_runs {ks : Bool} {s₀ u₀ : State} (h₀ : Runs ks s₀ u₀) (pier c ring idx object : Nat) :
    Runs ks s₀ (noteReplay u₀ pier c ring idx object) :=
  trace_runs (faultTrace_runs (healLog_runs (event_runs (bump_runs h₀ _ _) _ _) _) _ _ _) _ _ _ _ _

theorem replayItem_runs {ks : Bool} {s₀ u₀ : State} (h₀ : Runs ks s₀ u₀) (id : Nat) (pier : Nat) (it : Item) :
    Runs ks s₀ (replayItem u₀ id pier it) := by
  unfold replayItem
  repeat' first
    | with_reducible assumption | (with_reducible intro _; try dsimp -zeta only) | with_reducible apply modItem_runs
    | with_reducible apply freePier_runs | with_reducible apply dropItemAccs_runs
    | with_reducible apply noteReplay_runs
    | (with_reducible refine runs_foldl ?_ _ _ (fun v x hv => ?_); rotate_left; try dsimp -zeta only)
    | (extract_lets +onlyGivenNames x; refine runs_cut (v := x) ?_ ?_; dsimp -zeta only [x]; clear x; rotate_left; intro _; clear_value x)
    | extract_lets +onlyGivenNames x | split | apply runs_mk | apply runs_more

theorem stopPier_runs {ks : Bool} {s₀ u₀ : State} (h₀ : Runs ks s₀ u₀) (pier : Nat) :
    Runs ks s₀ (stopPier u₀ pier) := by
  unfold stopPier
  repeat' first
    | with_reducible assumption | (with_reducible intro _; try dsimp -zeta only) | with_reducible apply freePier_runs
    | with_reducible apply orphan_runs | with_reducible apply noteReplay_runs | with_reducible apply replayItem_runs
    | (with_reducible refine runs_foldl ?_ _ _ (fun v x hv => ?_); rotate_left; try dsimp -zeta only)
    | (extract_lets +onlyGivenNames x; refine runs_cut (v := x) ?_ ?_; dsimp -zeta only [x]; clear x; rotate_left; intro _; clear_value x)
    | extract_lets +onlyGivenNames x | split | apply runs_mk | apply runs_more

theorem execParityFailure_runs {ks : Bool} {s₀ u₀ : State} (h₀ : Runs ks s₀ u₀) (pier : Nat) :
    RunsOut ks s₀ (execParityFailure pier u₀) := by
  unfold execParityFailure
  repeat' first
    | with_reducible assumption | (with_reducible intro _; try dsimp -zeta only) | exact runsOut_fault _
    | with_reducible apply runsOut_finish | with_reducible apply runsOut_ok | with_reducible apply stopPier_runs
    | (with_reducible apply setPier_runs; rotate_left; first | exact id | exact fun _ => rfl | simp_all)
    | (extract_lets +onlyGivenNames x; refine runsOut_cut (v := x) ?_ ?_; dsimp -zeta only [x]; clear x; rotate_left; intro _; clear_value x)
    | (extract_lets +onlyGivenNames x; refine runs_cut (v := x) ?_ ?_; dsimp -zeta only [x]; clear x; rotate_left; intro _; clear_value x)
    | extract_lets +onlyGivenNames x | split | apply runs_mk

theorem losePier_runs {ks : Bool} {s₀ u₀ : State} (h₀ : Runs ks s₀ u₀) (pier : Nat) :
    Runs ks s₀ (losePier u₀ pier) := by
  unfold losePier
  repeat' first
    | with_reducible assumption | (with_reducible intro _; try dsimp -zeta only) | with_reducible apply event_runs
    | with_reducible apply healLog_runs | with_reducible apply accDone_runs | with_reducible apply stopPier_runs
    | (with_reducible apply setPier_runs; rotate_left; first | exact id | exact fun _ => rfl | simp_all)
    | (with_reducible refine runs_foldl ?_ _ _ (fun v x hv => ?_); rotate_left; try dsimp -zeta only)
    | (extract_lets +onlyGivenNames x; refine runs_cut (v := x) ?_ ?_; dsimp -zeta only [x]; clear x; rotate_left; intro _; clear_value x)
    | extract_lets +onlyGivenNames x | split | apply runs_mk

theorem execPierLost_runs {ks : Bool} {s₀ u₀ : State} (h₀ : Runs ks s₀ u₀) (pier : Nat) (cause : PierCause) :
    RunsOut ks s₀ (execPierLost pier cause u₀) := by
  unfold execPierLost
  repeat' first
    | with_reducible assumption | exact runsOut_fault _ | with_reducible apply runsOut_finish
    | with_reducible apply runsOut_ok | with_reducible apply losePier_runs | split

theorem execHubParityFailure_runs {ks : Bool} {s₀ u₀ : State} (h₀ : Runs ks s₀ u₀) (unit : HubUnit) :
    RunsOut ks s₀ (execHubParityFailure unit u₀) := by
  unfold execHubParityFailure
  repeat' first
    | with_reducible assumption | (with_reducible intro _; try dsimp -zeta only) | with_reducible apply runsOut_ok
    | (extract_lets +onlyGivenNames x; refine runsOut_cut (v := x) ?_ ?_; dsimp -zeta only [x]; clear x; rotate_left; intro _; clear_value x)
    | (extract_lets +onlyGivenNames x; refine runs_cut (v := x) ?_ ?_; dsimp -zeta only [x]; clear x; rotate_left; intro _; clear_value x)
    | extract_lets +onlyGivenNames x | split | apply runs_mk

theorem execConfigFix_runs {ks : Bool} {s₀ u₀ : State} (h₀ : Runs ks s₀ u₀) (off : Nat) :
    RunsOut ks s₀ (execConfigFix off u₀) := by
  unfold execConfigFix
  repeat' first
    | with_reducible assumption | (with_reducible intro _; try dsimp -zeta only) | with_reducible apply runsOut_finish
    | with_reducible apply runsOut_ok | with_reducible apply event_runs | with_reducible apply bump_runs
    | with_reducible apply healLog_runs
    | (extract_lets +onlyGivenNames x; refine runsOut_cut (v := x) ?_ ?_; dsimp -zeta only [x]; clear x; rotate_left; intro _; clear_value x)
    | (extract_lets +onlyGivenNames x; refine runs_cut (v := x) ?_ ?_; dsimp -zeta only [x]; clear x; rotate_left; intro _; clear_value x)
    | extract_lets +onlyGivenNames x | split | apply runs_mk

theorem execParapetBankParity_runs {s₀ u₀ : State} (h₀ : Runs false s₀ u₀) (parapet : Nat) (bank : Nat) :
    RunsOut false s₀ (execParapetBankParity parapet bank u₀) := by
  unfold execParapetBankParity
  repeat' first
    | with_reducible assumption | (with_reducible intro _; try dsimp -zeta only) | exact runsOut_fault _
    | with_reducible apply runsOut_ok | with_reducible apply event_runs
    | (extract_lets +onlyGivenNames x; refine runsOut_cut (v := x) ?_ ?_; dsimp -zeta only [x]; clear x; rotate_left; intro _; clear_value x)
    | (extract_lets +onlyGivenNames x; refine runs_cut (v := x) ?_ ?_; dsimp -zeta only [x]; clear x; rotate_left; intro _; clear_value x)
    | extract_lets +onlyGivenNames x | split | apply moves_mk

theorem execUnitOut_runs {ks : Bool} {s₀ u₀ : State} (h₀ : Runs ks s₀ u₀) (unit : UnitKind) : RunsOut ks s₀ (execUnitOut unit u₀) := by
  unfold execUnitOut
  split
  · exact runsOut_ok h₀
  · cases unit <;> dsimp only
    case compEngine d =>
      repeat' split
      all_goals first
        | exact runsOut_fault _
        | exact runsOut_ok h₀
        | exact runsOut_ok (runs_mk h₀)
        | exact runsOut_finish (healLog_runs (event_runs (runs_mk (runs_mk h₀)) _ _) _)
    case bank p b =>
      repeat' split
      all_goals first
        | exact runsOut_fault _
        | exact runsOut_ok h₀
        | exact runsOut_finish (healLog_runs (event_runs (runs_mk h₀) _ _) _)
    case core =>
      repeat' split
      all_goals first
        | exact runsOut_ok (runs_mk h₀)
        | exact runsOut_finish (healLog_runs (event_runs (runs_mk (runs_mk h₀)) _ _) _)
    case die d =>
      split
      · exact runsOut_fault _
      · split
        · exact runsOut_ok h₀
        · exact runsOut_finish (healLog_runs (event_runs (runs_foldl (runs_foldl (runs_mk h₀) _ _
            (fun v x hv => losePier_runs hv _)) _ _ (fun v x hv => loseChannel_runs hv _)) _ _) _)

theorem execRebuildStart_runs {ks : Bool} {s₀ u₀ : State} (h₀ : Runs ks s₀ u₀) (ver : Nat) (group : Nat) :
    RunsOut ks s₀ (execRebuildStart ver group u₀) := by
  unfold execRebuildStart
  repeat' first
    | with_reducible assumption | (with_reducible intro _; try dsimp -zeta only) | with_reducible apply runsOut_finish
    | with_reducible apply runsOut_ok | with_reducible apply startRebuild_runs
    | (extract_lets +onlyGivenNames x; refine runsOut_cut (v := x) ?_ ?_; dsimp -zeta only [x]; clear x; rotate_left; intro _; clear_value x)
    | (extract_lets +onlyGivenNames x; refine runs_cut (v := x) ?_ ?_; dsimp -zeta only [x]; clear x; rotate_left; intro _; clear_value x)
    | extract_lets +onlyGivenNames x | split | apply runs_mk

theorem failFrames_runs {ks : Bool} {s₀ u₀ : State} (h₀ : Runs ks s₀ u₀) (i : Nat) (bad : List NeedFrame) :
    Runs ks s₀ (failFrames u₀ i bad) := by
  unfold failFrames
  repeat' first
    | with_reducible assumption | (with_reducible intro _; try dsimp -zeta only) | with_reducible apply event_runs
    | with_reducible apply bump_runs | with_reducible apply modRebuild_runs
    | (with_reducible refine runs_foldl ?_ _ _ (fun v x hv => ?_); rotate_left; try dsimp -zeta only)
    | (extract_lets +onlyGivenNames x; refine runs_cut (v := x) ?_ ?_; dsimp -zeta only [x]; clear x; rotate_left; intro _; clear_value x)
    | extract_lets +onlyGivenNames x | apply runs_mk

theorem writeGroup_runs {ks : Bool} {s₀ u₀ : State} (h₀ : Runs ks s₀ u₀) (i : Nat) (v : Nat) (g : Nat) (spill : Option Nat) (bs : List Byte) : Runs ks s₀ (writeGroup u₀ i v g spill bs) := by
  unfold writeGroup
  repeat' first
    | with_reducible assumption | (with_reducible intro _; try dsimp -zeta only) | with_reducible apply deckWrite_runs
    | with_reducible apply issueWrites_runs | with_reducible apply modRebuild_runs
    | (extract_lets +onlyGivenNames x; refine runs_cut (v := x) ?_ ?_; dsimp -zeta only [x]; clear x; rotate_left; intro _; clear_value x)
    | extract_lets +onlyGivenNames x | split | apply runs_mk

theorem endRebuild_runs {ks : Bool} {s₀ u₀ : State} (h₀ : Runs ks s₀ u₀) (v : Nat) (g : Nat) (prior : Nat) (spill : Option Nat) : Runs ks s₀ (endRebuild u₀ v g prior spill) := by
  unfold endRebuild
  repeat' first
    | with_reducible assumption | (with_reducible intro _; try dsimp -zeta only) | with_reducible apply healLog_runs
    | with_reducible apply modGroup_runs
    | (extract_lets +onlyGivenNames x; refine runs_cut (v := x) ?_ ?_; dsimp -zeta only [x]; clear x; rotate_left; intro _; clear_value x)
    | extract_lets +onlyGivenNames x | split | apply runs_mk

theorem releaseHeld_runs {ks : Bool} {s₀ u₀ : State} (h₀ : Runs ks s₀ u₀)  : Runs ks s₀ (releaseHeld u₀) := by
  unfold releaseHeld
  repeat' first
    | with_reducible assumption | (with_reducible intro _; try dsimp -zeta only) | with_reducible apply deckPut_runs
    | with_reducible apply answerPeer_runs | with_reducible apply accGood_runs
    | (with_reducible refine runs_foldl ?_ _ _ (fun v x hv => ?_); rotate_left; try dsimp -zeta only)
    | (extract_lets +onlyGivenNames x; refine runs_cut (v := x) ?_ ?_; dsimp -zeta only [x]; clear x; rotate_left; intro _; clear_value x)
    | extract_lets +onlyGivenNames x | split | apply runs_mk

theorem execRebuildDone_runs {ks : Bool} {s₀ u₀ : State} (h₀ : Runs ks s₀ u₀) (rebuild : Nat) :
    RunsOut ks s₀ (execRebuildDone rebuild u₀) := by
  unfold execRebuildDone
  repeat' first
    | with_reducible assumption | (with_reducible intro _; try dsimp -zeta only) | with_reducible apply runsOut_finish
    | with_reducible apply runsOut_ok | with_reducible apply event_runs | with_reducible apply bump_runs
    | with_reducible apply modRebuild_runs | with_reducible apply askRebuild_runs
    | with_reducible apply givePlaces_runs | with_reducible apply countMalformed_runs
    | with_reducible apply orphan_runs | with_reducible apply failFrames_runs | with_reducible apply writeGroup_runs
    | with_reducible apply endRebuild_runs | with_reducible apply releaseHeld_runs
    | (extract_lets +onlyGivenNames x; refine runsOut_cut (v := x) ?_ ?_; dsimp -zeta only [x]; clear x; rotate_left; intro _; clear_value x)
    | (extract_lets +onlyGivenNames x; refine runs_cut (v := x) ?_ ?_; dsimp -zeta only [x]; clear x; rotate_left; intro _; clear_value x)
    | extract_lets +onlyGivenNames x | split | apply runs_mk

theorem execGroupLost_runs {ks : Bool} {s₀ u₀ : State} (h₀ : Runs ks s₀ u₀) (rebuild : Nat) : RunsOut ks s₀ (execGroupLost rebuild u₀) := by
  unfold execGroupLost
  split
  · exact runsOut_ok h₀
  · split
    · exact runsOut_ok h₀
    · apply runsOut_finish
      apply releaseHeld_runs
      apply givePlaces_runs
      apply runs_mk
      split
      · exact makeLost_runs (makeLost_runs (healLog_runs h₀ _) _ _) _ _
      · exact makeLost_runs (healLog_runs h₀ _) _ _

theorem setAudit_runs {ks : Bool} {s₀ u₀ : State} (h₀ : Runs ks s₀ u₀) (f : Audit → Audit) :
    Runs ks s₀ (setAudit u₀ f) := by
  unfold setAudit
  repeat' first | with_reducible assumption | extract_lets +onlyGivenNames x | apply runs_mk

theorem askAudit_runs {ks : Bool} {s₀ u₀ : State} (h₀ : Runs ks s₀ u₀) (ctx : Nat) (x : Nat × Nat) :
    Runs ks s₀ (askAudit u₀ ctx x) := by
  unfold askAudit
  repeat' first
    | with_reducible assumption | (with_reducible intro _; try dsimp -zeta only)
    | with_reducible apply issueReads_runs | with_reducible apply setAudit_runs | extract_lets +onlyGivenNames x
    | apply runs_mk

theorem endAudit_runs {ks : Bool} {s₀ u₀ : State} (h₀ : Runs ks s₀ u₀)  : Runs ks s₀ (endAudit u₀) := by
  unfold endAudit
  repeat' first
    | with_reducible assumption | (with_reducible intro _; try dsimp -zeta only) | with_reducible apply setAudit_runs
    | extract_lets +onlyGivenNames x | apply runs_mk

theorem auditFailed_runs {ks : Bool} {s₀ u₀ : State} (h₀ : Runs ks s₀ u₀) (v : Nat) (t : TDesc) (e : DEntry) (gen : Nat) (bytes : List Byte) : Runs ks s₀ (auditFailed u₀ v t e gen bytes) := by
  unfold auditFailed
  repeat' first
    | with_reducible assumption | with_reducible apply bump_runs | with_reducible apply issueWrites_runs
    | (extract_lets +onlyGivenNames x; refine runs_cut (v := x) ?_ ?_; dsimp -zeta only [x]; clear x; rotate_left; intro _; clear_value x)
    | extract_lets +onlyGivenNames x | split | apply runs_more

theorem execAuditRead_runs {ks : Bool} {s₀ u₀ : State} (h₀ : Runs ks s₀ u₀)  : RunsOut ks s₀ (execAuditRead u₀) := by
  unfold execAuditRead
  repeat' first
    | with_reducible assumption | (with_reducible intro _; try dsimp -zeta only) | with_reducible apply runsOut_finish
    | with_reducible apply runsOut_ok | with_reducible apply event_runs | with_reducible apply bump_runs
    | with_reducible apply setAudit_runs | with_reducible apply askAudit_runs | with_reducible apply endAudit_runs
    | with_reducible apply auditFailed_runs
    | (extract_lets +onlyGivenNames x; refine runsOut_cut (v := x) ?_ ?_; dsimp -zeta only [x]; clear x; rotate_left; intro _; clear_value x)
    | (extract_lets +onlyGivenNames x; refine runs_cut (v := x) ?_ ?_; dsimp -zeta only [x]; clear x; rotate_left; intro _; clear_value x)
    | extract_lets +onlyGivenNames x | split | apply runs_mk

theorem leaveService_runs {ks : Bool} {s₀ u₀ : State} (h₀ : Runs ks s₀ u₀) : Runs ks s₀ (leaveService u₀) := by
  unfold leaveService
  have h1 : Runs ks s₀ (healLog (event u₀ evHeal 6) { kind := 0x1F }) := healLog_runs (event_runs h₀ _ _) _
  generalize healLog (event u₀ evHeal 6) { kind := 0x1F } = v at h1
  exact ⟨⟨h1.keeps.mem, h1.keeps.pending, h1.keeps.fuses, h1.keeps.free⟩, (fun e => ⟨(h1.still e).clock, (h1.still e).timing, (h1.still e).trestle,
    (h1.still e).parapets, (h1.still e).pads, (h1.still e).fuses, (h1.still e).package⟩), fun _ => rfl, h1.chans, h1.stks, h1.piers⟩

theorem execOutOfService_runs {ks : Bool} {s₀ u₀ : State} (h₀ : Runs ks s₀ u₀)  :
    RunsOut ks s₀ (execOutOfService u₀) := by
  unfold execOutOfService
  repeat' first
    | with_reducible assumption | with_reducible apply runsOut_finish | with_reducible apply runsOut_ok
    | with_reducible apply leaveService_runs | split

/-! ### Time -/

theorem tickBy_runs {s₀ u₀ : State} (h₀ : Runs false s₀ u₀) (d : Nat) : Runs false s₀ (tickBy u₀ d) := by
  unfold tickBy
  repeat' first | with_reducible assumption | extract_lets +onlyGivenNames x | split | apply moves_mk

theorem execKeystoneTick_runs {s₀ u₀ : State} (h₀ : Runs false s₀ u₀)  : RunsOut false s₀ (execKeystoneTick u₀) := by
  unfold execKeystoneTick
  repeat' first
    | with_reducible assumption | with_reducible apply runsOut_ok | with_reducible apply tickBy_runs | split

theorem execCorrectionTick_runs {s₀ u₀ : State} (h₀ : Runs false s₀ u₀)  :
    RunsOut false s₀ (execCorrectionTick u₀) := by
  unfold execCorrectionTick
  repeat' first
    | with_reducible assumption | with_reducible apply runsOut_ok | with_reducible apply tickBy_runs
    | (extract_lets +onlyGivenNames x; refine runsOut_cut (v := x) ?_ ?_; dsimp -zeta only [x]; clear x; rotate_left; intro _; clear_value x)
    | (extract_lets +onlyGivenNames x; refine runs_cut (v := x) ?_ ?_; dsimp -zeta only [x]; clear x; rotate_left; intro _; clear_value x)
    | extract_lets +onlyGivenNames x | split | apply moves_mk

theorem setTiming_runs {s₀ u₀ : State} (h₀ : Runs false s₀ u₀) (p : Nat) (t : PortTiming) :
    Runs false s₀ (setTiming u₀ p t) := by
  unfold setTiming
  repeat' first | with_reducible assumption | extract_lets +onlyGivenNames x | apply moves_mk

theorem execTimingFrameSend_runs {s₀ u₀ : State} (h₀ : Runs false s₀ u₀) (port : Fin 8) (frac : Fin 64) :
    RunsOut false s₀ (execTimingFrameSend port frac u₀) := by
  unfold execTimingFrameSend
  repeat' first
    | with_reducible assumption | with_reducible apply runsOut_ok | with_reducible apply setSpanLink_runs
    | with_reducible apply setTiming_runs
    | (extract_lets +onlyGivenNames x; refine runsOut_cut (v := x) ?_ ?_; dsimp -zeta only [x]; clear x; rotate_left; intro _; clear_value x)
    | (extract_lets +onlyGivenNames x; refine runs_cut (v := x) ?_ ?_; dsimp -zeta only [x]; clear x; rotate_left; intro _; clear_value x)
    | extract_lets +onlyGivenNames x | split | apply moves_mk

theorem forwardStep_runs {s₀ u₀ : State} (h₀ : Runs false s₀ u₀)  : Runs false s₀ (forwardStep u₀) := by
  unfold forwardStep
  repeat' first
    | with_reducible assumption | with_reducible apply event_runs
    | (extract_lets +onlyGivenNames x; refine runs_cut (v := x) ?_ ?_; dsimp -zeta only [x]; clear x; rotate_left; intro _; clear_value x)
    | extract_lets +onlyGivenNames x | split | apply moves_mk

theorem scheduleCorrection_runs {s₀ u₀ : State} (h₀ : Runs false s₀ u₀)  : Runs false s₀ (scheduleCorrection u₀) := by
  unfold scheduleCorrection
  repeat' first | with_reducible assumption | extract_lets +onlyGivenNames x | split | apply moves_mk

theorem gainLock_runs {s₀ u₀ : State} (h₀ : Runs false s₀ u₀)  : Runs false s₀ (gainLock u₀) := by
  unfold gainLock
  repeat' first
    | with_reducible assumption | with_reducible apply event_runs
    | (extract_lets +onlyGivenNames x; refine runs_cut (v := x) ?_ ?_; dsimp -zeta only [x]; clear x; rotate_left; intro _; clear_value x)
    | extract_lets +onlyGivenNames x | split | apply moves_mk

theorem exchange_runs {s₀ u₀ : State} (h₀ : Runs false s₀ u₀) (t1 : Nat) (t2 : Nat) (t3 : Nat) (t4 : Nat) (parentResidual : Int) : Runs false s₀ (exchange u₀ t1 t2 t3 t4 parentResidual) := by
  unfold exchange
  repeat' first
    | with_reducible assumption | with_reducible apply forwardStep_runs | with_reducible apply scheduleCorrection_runs
    | with_reducible apply gainLock_runs
    | (extract_lets +onlyGivenNames x; refine runs_cut (v := x) ?_ ?_; dsimp -zeta only [x]; clear x; rotate_left; intro _; clear_value x)
    | extract_lets +onlyGivenNames x | split | apply moves_mk

theorem execTimingRecord_runs {s₀ u₀ : State} (h₀ : Runs false s₀ u₀) (port : Fin 8) (record : BitVec 128) (frac : Fin 64) (replayed : Bool) : RunsOut false s₀ (execTimingRecord port record frac replayed u₀) := by
  unfold execTimingRecord
  repeat' first
    | with_reducible assumption | with_reducible apply runsOut_ok | with_reducible apply setTiming_runs
    | with_reducible apply gainLock_runs | with_reducible apply exchange_runs
    | (extract_lets +onlyGivenNames x; refine runsOut_cut (v := x) ?_ ?_; dsimp -zeta only [x]; clear x; rotate_left; intro _; clear_value x)
    | (extract_lets +onlyGivenNames x; refine runs_cut (v := x) ?_ ?_; dsimp -zeta only [x]; clear x; rotate_left; intro _; clear_value x)
    | extract_lets +onlyGivenNames x | split | apply moves_mk

theorem execLockLost_runs {s₀ u₀ : State} (h₀ : Runs false s₀ u₀)  : RunsOut false s₀ (execLockLost u₀) := by
  unfold execLockLost
  repeat' first
    | with_reducible assumption | with_reducible apply runsOut_ok | with_reducible apply event_runs
    | (extract_lets +onlyGivenNames x; refine runsOut_cut (v := x) ?_ ?_; dsimp -zeta only [x]; clear x; rotate_left; intro _; clear_value x)
    | (extract_lets +onlyGivenNames x; refine runs_cut (v := x) ?_ ?_; dsimp -zeta only [x]; clear x; rotate_left; intro _; clear_value x)
    | extract_lets +onlyGivenNames x | split | apply moves_mk

theorem execParentTimeout_runs {s₀ u₀ : State} (h₀ : Runs false s₀ u₀)  : RunsOut false s₀ (execParentTimeout u₀) := by
  unfold execParentTimeout
  repeat' first
    | with_reducible assumption | with_reducible apply runsOut_ok | with_reducible apply event_runs
    | (extract_lets +onlyGivenNames x; refine runsOut_cut (v := x) ?_ ?_; dsimp -zeta only [x]; clear x; rotate_left; intro _; clear_value x)
    | (extract_lets +onlyGivenNames x; refine runs_cut (v := x) ?_ ?_; dsimp -zeta only [x]; clear x; rotate_left; intro _; clear_value x)
    | extract_lets +onlyGivenNames x | split | apply moves_mk

theorem takeRoot_runs {s₀ u₀ : State} (h₀ : Runs false s₀ u₀)  : Runs false s₀ (takeRoot u₀) := by
  unfold takeRoot
  repeat' first
    | with_reducible assumption | with_reducible apply event_runs
    | (extract_lets +onlyGivenNames x; refine runs_cut (v := x) ?_ ?_; dsimp -zeta only [x]; clear x; rotate_left; intro _; clear_value x)
    | extract_lets +onlyGivenNames x | split | apply moves_mk

theorem execRootTimeout_runs {s₀ u₀ : State} (h₀ : Runs false s₀ u₀)  : RunsOut false s₀ (execRootTimeout u₀) := by
  unfold execRootTimeout
  repeat' first
    | with_reducible assumption | with_reducible apply runsOut_ok | with_reducible apply takeRoot_runs | split

end Sys2Proof.Machine
end

