-- ==== Sys2Proof/Laws/RunsBoundary.lean ====
section
/-!
SUPPORT. What boot, pads, registers, contexts, Span, transfers, streams, versions, SUBMIT and the wire keep.
-/

namespace Sys2Proof.Machine

open Sys2Proof

set_option linter.tactic.unusedName false

/-! ### Transfer -/

theorem putWrite_runs {ks : Bool} {s₀ u₀ : State} (h₀ : Runs ks s₀ u₀) (id : Nat) (ctx : Nat) (ch : Nat) (spread : Bool) (w : Nat × List Byte) : Runs ks s₀ (putWrite u₀ id ctx ch spread w) := by
  unfold putWrite
  repeat' first
    | with_reducible assumption | (with_reducible intro _; try dsimp -zeta only) | with_reducible apply modItem_runs
    | with_reducible apply issue_runs | with_reducible apply itemDeckWrite_runs
    | (extract_lets +onlyGivenNames x; refine runs_cut (v := x) ?_ ?_; dsimp -zeta only [x]; clear x; rotate_left; intro _; clear_value x)
    | extract_lets +onlyGivenNames x | split | apply runs_mk

theorem getReads_runs {ks : Bool} {s₀ u₀ : State} (h₀ : Runs ks s₀ u₀) (id : Nat) (ctx : Nat) (ch : Nat) (spread : Bool) (miss : List (Nat × Nat)) : Runs ks s₀ (getReads u₀ id ctx ch spread miss) := by
  unfold getReads
  repeat' first
    | with_reducible assumption | (with_reducible intro _; try dsimp -zeta only) | with_reducible apply modItem_runs
    | with_reducible apply issue_runs
    | (with_reducible refine runs_foldl ?_ _ _ (fun v x hv => ?_); rotate_left; try dsimp -zeta only)
    | (extract_lets +onlyGivenNames x; refine runs_cut (v := x) ?_ ?_; dsimp -zeta only [x]; clear x; rotate_left; intro _; clear_value x)
    | extract_lets +onlyGivenNames x | apply runs_mk

theorem execPut_runs {ks : Bool} {s₀ u₀ : State} (h₀ : Runs ks s₀ u₀) (item : Nat) :
    RunsOut ks s₀ (execPut item u₀) := by
  unfold execPut
  repeat' first
    | with_reducible assumption
    | exact runsOut_fault _
    | with_reducible apply runsOut_finish
    | with_reducible apply runsOut_ok
    | (with_reducible intro _; try dsimp -zeta only)
    | with_reducible apply modItem_runs
    | with_reducible apply skipItem_runs
    | with_reducible apply advance_runs
    | with_reducible apply putWrite_runs
    | (refine takeOp_moved ?_ (by with_reducible assumption))
    | (refine takeOp_go ?_ (by with_reducible assumption))
    | (with_reducible refine runs_foldl ?_ _ _ (fun v x hv => ?_); rotate_left; try dsimp -zeta only)
    | (extract_lets +onlyGivenNames x; refine runsOut_cut (v := x) ?_ ?_; dsimp -zeta only [x]; clear x; rotate_left; intro _; clear_value x)
    | (extract_lets +onlyGivenNames x; refine runs_cut (v := x) ?_ ?_; dsimp -zeta only [x]; clear x; rotate_left; intro _; clear_value x)
    | extract_lets +onlyGivenNames x
    | split
    | (clear_value *; split)
    | (with_reducible apply runs_mk; first | with_reducible assumption | with_reducible apply modItem_runs | with_reducible apply skipItem_runs | with_reducible apply advance_runs | with_reducible apply putWrite_runs)
    | (apply runs_mk; first | with_reducible assumption | with_reducible apply modItem_runs | with_reducible apply skipItem_runs | with_reducible apply advance_runs | with_reducible apply putWrite_runs)
    | (apply runs_more; first | with_reducible assumption | with_reducible apply modItem_runs | with_reducible apply skipItem_runs | with_reducible apply advance_runs | with_reducible apply putWrite_runs)

theorem execGet_runs {ks : Bool} {s₀ u₀ : State} (h₀ : Runs ks s₀ u₀) (item : Nat) :
    RunsOut ks s₀ (execGet item u₀) := by
  unfold execGet
  repeat' first
    | with_reducible assumption
    | exact runsOut_fault _
    | with_reducible apply runsOut_finish
    | with_reducible apply runsOut_ok
    | (with_reducible intro _; try dsimp -zeta only)
    | with_reducible apply skipItem_runs
    | with_reducible apply applyRes_runs
    | with_reducible apply getReads_runs
    | (refine takeOp_moved ?_ (by with_reducible assumption))
    | (refine takeOp_go ?_ (by with_reducible assumption))
    | (extract_lets +onlyGivenNames x; refine runsOut_cut (v := x) ?_ ?_; dsimp -zeta only [x]; clear x; rotate_left; intro _; clear_value x)
    | (extract_lets +onlyGivenNames x; refine runs_cut (v := x) ?_ ?_; dsimp -zeta only [x]; clear x; rotate_left; intro _; clear_value x)
    | extract_lets +onlyGivenNames x
    | split
    | (clear_value *; split)
    | (with_reducible apply runs_mk; first | with_reducible assumption | with_reducible apply skipItem_runs | with_reducible apply applyRes_runs | with_reducible apply getReads_runs)
    | (apply runs_mk; first | with_reducible assumption | with_reducible apply skipItem_runs | with_reducible apply applyRes_runs | with_reducible apply getReads_runs)
    | (apply runs_more; first | with_reducible assumption | with_reducible apply skipItem_runs | with_reducible apply applyRes_runs | with_reducible apply getReads_runs)

theorem handEntry_runs {ks : Bool} {s₀ u₀ : State} (h₀ : Runs ks s₀ u₀) (id : Nat) (ctx : Nat) (o : List Byte) (p : Nat × List Byte) : Runs ks s₀ (handEntry id ctx o u₀ p) := by
  unfold handEntry
  repeat' first
    | with_reducible assumption | (with_reducible intro _; try dsimp -zeta only) | with_reducible apply modItem_runs
    | with_reducible apply cellOp_runs | with_reducible apply issueAtomic_runs
    | (extract_lets +onlyGivenNames x; refine runs_cut (v := x) ?_ ?_; dsimp -zeta only [x]; clear x; rotate_left; intro _; clear_value x)
    | extract_lets +onlyGivenNames x | split | apply runs_mk

theorem execAtomic_runs {ks : Bool} {s₀ u₀ : State} (h₀ : Runs ks s₀ u₀) (item : Nat) :
    RunsOut ks s₀ (execAtomic item u₀) := by
  unfold execAtomic
  repeat' first
    | with_reducible assumption
    | exact runsOut_fault _
    | with_reducible apply runsOut_finish
    | with_reducible apply runsOut_ok
    | (with_reducible intro _; try dsimp -zeta only)
    | with_reducible apply bump_runs
    | with_reducible apply modItem_runs
    | with_reducible apply skipItem_runs
    | with_reducible apply applyRes_runs
    | with_reducible apply handEntry_runs
    | (refine takeOp_moved ?_ (by with_reducible assumption))
    | (refine takeOp_go ?_ (by with_reducible assumption))
    | (with_reducible refine runs_foldl ?_ _ _ (fun v x hv => ?_); rotate_left; try dsimp -zeta only)
    | (extract_lets +onlyGivenNames x; refine runsOut_cut (v := x) ?_ ?_; dsimp -zeta only [x]; clear x; rotate_left; intro _; clear_value x)
    | (extract_lets +onlyGivenNames x; refine runs_cut (v := x) ?_ ?_; dsimp -zeta only [x]; clear x; rotate_left; intro _; clear_value x)
    | extract_lets +onlyGivenNames x
    | split
    | (clear_value *; split)
    | (with_reducible apply runs_mk; first | with_reducible assumption | with_reducible apply bump_runs | with_reducible apply modItem_runs | with_reducible apply skipItem_runs | with_reducible apply applyRes_runs | with_reducible apply handEntry_runs)
    | (apply runs_mk; first | with_reducible assumption | with_reducible apply bump_runs | with_reducible apply modItem_runs | with_reducible apply skipItem_runs | with_reducible apply applyRes_runs | with_reducible apply handEntry_runs)
    | (apply runs_more; first | with_reducible assumption | with_reducible apply bump_runs | with_reducible apply modItem_runs | with_reducible apply skipItem_runs | with_reducible apply applyRes_runs | with_reducible apply handEntry_runs)

/-! ### Streams -/

theorem execStreamArm_runs {ks : Bool} {s₀ u₀ : State} (h₀ : Runs ks s₀ u₀) (ctx : Nat) (ring : Nat) :
    RunsOut ks s₀ (execStreamArm ctx ring u₀) := by
  unfold execStreamArm
  repeat' first
    | with_reducible assumption | (with_reducible intro _; try dsimp -zeta only) | with_reducible apply runsOut_finish
    | with_reducible apply event_runs | with_reducible apply setCtx_runs | with_reducible apply completeHead_runs
    | with_reducible apply command_runs | with_reducible apply startCommand_runs
    | (extract_lets +onlyGivenNames x; refine runsOut_cut (v := x) ?_ ?_; dsimp -zeta only [x]; clear x; rotate_left; intro _; clear_value x)
    | (extract_lets +onlyGivenNames x; refine runs_cut (v := x) ?_ ?_; dsimp -zeta only [x]; clear x; rotate_left; intro _; clear_value x)
    | extract_lets +onlyGivenNames x | split | apply runs_mk

theorem moveBlock_runs {ks : Bool} {s₀ u₀ : State} (h₀ : Runs ks s₀ u₀) (c : Nat) (k : Nat) (src : TView) (dst : TView) (t : Stream) (b : Block) : Runs ks s₀ (moveBlock u₀ c k src dst t b) := by
  unfold moveBlock
  repeat' first
    | with_reducible assumption | (with_reducible intro _; try dsimp -zeta only) | with_reducible apply bump_runs
    | with_reducible apply issueWrites_runs | with_reducible apply deckWriteFor_runs
    | with_reducible apply modStream_runs | with_reducible apply modBlock_runs
    | (with_reducible refine runs_foldl ?_ _ _ (fun v x hv => ?_); rotate_left; try dsimp -zeta only)
    | (extract_lets +onlyGivenNames x; refine runs_cut (v := x) ?_ ?_; dsimp -zeta only [x]; clear x; rotate_left; intro _; clear_value x)
    | extract_lets +onlyGivenNames x | split | apply runs_mk

theorem startBlock_runs {ks : Bool} {s₀ u₀ : State} (h₀ : Runs ks s₀ u₀) (c : Nat) (k : Nat) (src : TView) (dst : TView) (t : Stream) (i : Nat) (pier : Nat) : Runs ks s₀ (startBlock u₀ c k src dst t i pier) := by
  unfold startBlock
  repeat' first
    | with_reducible assumption | (with_reducible intro _; try dsimp -zeta only)
    | with_reducible apply issueReads_runs | with_reducible apply countQuarantine_runs
    | with_reducible apply modStream_runs | with_reducible apply modBlock_runs | with_reducible apply moveBlock_runs
    | (with_reducible refine runs_foldl ?_ _ _ (fun v x hv => ?_); rotate_left; try dsimp -zeta only)
    | (extract_lets +onlyGivenNames x; refine runs_cut (v := x) ?_ ?_; dsimp -zeta only [x]; clear x; rotate_left; intro _; clear_value x)
    | extract_lets +onlyGivenNames x | split | apply runs_mk

theorem execStreamBlockDispatch_runs {ks : Bool} {s₀ u₀ : State} (h₀ : Runs ks s₀ u₀) (ctx : Nat) (slot : Nat) (pier : Nat) : RunsOut ks s₀ (execStreamBlockDispatch ctx slot pier u₀) := by
  unfold execStreamBlockDispatch
  repeat' first
    | with_reducible assumption | (with_reducible intro _; try dsimp -zeta only) | exact runsOut_fault _
    | with_reducible apply runsOut_finish | with_reducible apply runsOut_ok | with_reducible apply trace_runs
    | with_reducible apply moveBlock_runs | with_reducible apply startBlock_runs
    | (extract_lets +onlyGivenNames x; refine runsOut_cut (v := x) ?_ ?_; dsimp -zeta only [x]; clear x; rotate_left; intro _; clear_value x)
    | (extract_lets +onlyGivenNames x; refine runs_cut (v := x) ?_ ?_; dsimp -zeta only [x]; clear x; rotate_left; intro _; clear_value x)
    | extract_lets +onlyGivenNames x | split | apply runs_mk

theorem writeCell_runs {ks : Bool} {s₀ u₀ : State} (h₀ : Runs ks s₀ u₀) (c : Nat) (k : Nat) (t : Stream) :
    Runs ks s₀ (writeCell u₀ c k t) := by
  unfold writeCell
  repeat' first
    | with_reducible assumption | (with_reducible intro _; try dsimp -zeta only)
    | with_reducible apply issueReads_runs | with_reducible apply cellOp_runs | with_reducible apply issueAtomic_runs
    | with_reducible apply modStream_runs
    | (extract_lets +onlyGivenNames x; refine runs_cut (v := x) ?_ ?_; dsimp -zeta only [x]; clear x; rotate_left; intro _; clear_value x)
    | extract_lets +onlyGivenNames x | split | apply runs_mk

theorem deliver_runs {ks : Bool} {s₀ u₀ : State} (h₀ : Runs ks s₀ u₀) (c : Nat) (k : Nat) :
    Runs ks s₀ (deliver u₀ c k) := by
  unfold deliver
  repeat' first
    | with_reducible assumption | (with_reducible intro _; try dsimp -zeta only) | with_reducible apply bump_runs
    | with_reducible apply trace_runs | with_reducible apply modStream_runs | with_reducible apply writeCell_runs
    | (with_reducible refine runs_foldl ?_ _ _ (fun v x hv => ?_); rotate_left; try dsimp -zeta only)
    | (extract_lets +onlyGivenNames x; refine runs_cut (v := x) ?_ ?_; dsimp -zeta only [x]; clear x; rotate_left; intro _; clear_value x)
    | extract_lets +onlyGivenNames x | split | apply runs_mk

theorem endResume_runs {ks : Bool} {s₀ u₀ : State} (h₀ : Runs ks s₀ u₀) (c : Nat) (h : Nat) (status : Nat) (detail : Nat) : Runs ks s₀ (endResume u₀ c h status detail) := by
  unfold endResume
  repeat' first
    | with_reducible assumption | (with_reducible intro _; try dsimp -zeta only) | with_reducible apply modHalt_runs
    | with_reducible apply completeDesc_runs | extract_lets +onlyGivenNames x | split | apply runs_mk

theorem closeHalt_runs {ks : Bool} {s₀ u₀ : State} (h₀ : Runs ks s₀ u₀) (c : Nat) (h : Nat) :
    Runs ks s₀ (closeHalt u₀ c h) := by
  unfold closeHalt
  repeat' first
    | with_reducible assumption | (with_reducible intro _; try dsimp -zeta only) | with_reducible apply modCtx_runs
    | extract_lets +onlyGivenNames x | apply runs_mk

theorem endSlot_runs {ks : Bool} {s₀ u₀ : State} (h₀ : Runs ks s₀ u₀) (c : Nat) (k : Nat) (last : Nat × Nat) :
    Runs ks s₀ (endSlot u₀ c k last) := by
  unfold endSlot
  repeat' first
    | with_reducible assumption | (with_reducible intro _; try dsimp -zeta only) | with_reducible apply modStream_runs
    | with_reducible apply orphan_runs | extract_lets +onlyGivenNames x | split | apply runs_mk

theorem finishStream_runs {ks : Bool} {s₀ u₀ : State} (h₀ : Runs ks s₀ u₀) (c : Nat) (k : Nat) (t : Stream) :
    Runs ks s₀ (finishStream u₀ c k t) := by
  unfold finishStream
  repeat' first
    | with_reducible assumption | with_reducible apply event_runs | with_reducible apply completeDesc_runs
    | with_reducible apply endResume_runs | with_reducible apply closeHalt_runs | with_reducible apply endSlot_runs
    | (extract_lets +onlyGivenNames x; refine runs_cut (v := x) ?_ ?_; dsimp -zeta only [x]; clear x; rotate_left; intro _; clear_value x)
    | extract_lets +onlyGivenNames x | split | apply runs_mk

theorem failStream_runs {ks : Bool} {s₀ u₀ : State} (h₀ : Runs ks s₀ u₀) (c : Nat) (k : Nat) (t : Stream) (status : Nat) : Runs ks s₀ (failStream u₀ c k t status) := by
  unfold failStream
  repeat' first
    | with_reducible assumption | (with_reducible intro _; try dsimp -zeta only) | with_reducible apply modStream_runs
    | with_reducible apply modHalt_runs | with_reducible apply orphan_runs | with_reducible apply completeDesc_runs
    | with_reducible apply endResume_runs | with_reducible apply endSlot_runs
    | (extract_lets +onlyGivenNames x; refine runs_cut (v := x) ?_ ?_; dsimp -zeta only [x]; clear x; rotate_left; intro _; clear_value x)
    | extract_lets +onlyGivenNames x | split | apply runs_mk

theorem execStreamBlockDelivered_runs {ks : Bool} {s₀ u₀ : State} (h₀ : Runs ks s₀ u₀) (ctx : Nat) (slot : Nat) :
    RunsOut ks s₀ (execStreamBlockDelivered ctx slot u₀) := by
  unfold execStreamBlockDelivered
  repeat' first
    | with_reducible assumption | (with_reducible intro _; try dsimp -zeta only) | with_reducible apply runsOut_finish
    | with_reducible apply runsOut_ok | with_reducible apply deliver_runs | with_reducible apply finishStream_runs
    | with_reducible apply failStream_runs
    | (extract_lets +onlyGivenNames x; refine runsOut_cut (v := x) ?_ ?_; dsimp -zeta only [x]; clear x; rotate_left; intro _; clear_value x)
    | (extract_lets +onlyGivenNames x; refine runs_cut (v := x) ?_ ?_; dsimp -zeta only [x]; clear x; rotate_left; intro _; clear_value x)
    | extract_lets +onlyGivenNames x | split | apply runs_mk

theorem noteHalt_runs {ks : Bool} {s₀ u₀ : State} (h₀ : Runs ks s₀ u₀) (c : Nat) (id : Nat) (h : Halt) (record : List Byte) : Runs ks s₀ (noteHalt u₀ c id h record) := by
  unfold noteHalt
  repeat' first
    | with_reducible assumption | (with_reducible intro _; try dsimp -zeta only) | with_reducible apply event_runs
    | with_reducible apply bump_runs | with_reducible apply modCtx_runs | with_reducible apply logWrite_runs
    | (extract_lets +onlyGivenNames x; refine runs_cut (v := x) ?_ ?_; dsimp -zeta only [x]; clear x; rotate_left; intro _; clear_value x)
    | extract_lets +onlyGivenNames x | split | apply runs_mk

theorem haltItem_runs {ks : Bool} {s₀ u₀ : State} (h₀ : Runs ks s₀ u₀) (id : Nat) (x : Ctx) (it : Item) (k : Nat) (i : OpIn) (m : Move) (f : Nat × Nat × Bool) : Runs ks s₀ (haltItem u₀ id x it k i m f) := by
  unfold haltItem
  repeat' first
    | with_reducible assumption | (with_reducible intro _; try dsimp -zeta only) | with_reducible apply modCtx_runs
    | with_reducible apply modItem_runs | with_reducible apply commitRun_runs | with_reducible apply noteHalt_runs
    | (extract_lets +onlyGivenNames x; refine runs_cut (v := x) ?_ ?_; dsimp -zeta only [x]; clear x; rotate_left; intro _; clear_value x)
    | extract_lets +onlyGivenNames x | split | apply runs_mk | apply runs_more

theorem itemFault_runs {ks : Bool} {s₀ u₀ : State} (h₀ : Runs ks s₀ u₀) (id : Nat) : Runs ks s₀ (itemFault u₀ id) := by
  unfold itemFault
  cases getItem u₀ id with
  | none => exact h₀
  | some it =>
    dsimp only
    cases itemCtx u₀ it with
    | none => exact h₀
    | some x =>
      refine runs_ite (fun _ => h₀) (fun _ => ?_)
      generalize haltedOp u₀ x it = q
      obtain ⟨k, i⟩ := q
      dsimp only
      cases moveOf u₀ x it i with
      | none => exact h₀
      | some m =>
        dsimp only
        split
        · exact runs_foldl (modItem_runs h₀ _ _) _ _ (fun v w hv => putWrite_runs hv _ _ _ _ _)
        · exact haltItem_runs h₀ _ _ _ _ _ _ _

theorem streamFault_runs {ks : Bool} {s₀ u₀ : State} (h₀ : Runs ks s₀ u₀) (c : Nat) (k : Nat) :
    Runs ks s₀ (streamFault u₀ c k) := by
  unfold streamFault
  repeat' first
    | with_reducible assumption
    | (with_reducible intro _; try dsimp -zeta only)
    | with_reducible apply modCtx_runs
    | with_reducible apply modStream_runs
    | with_reducible apply completeDesc_runs
    | with_reducible apply deliver_runs
    | with_reducible apply endResume_runs
    | with_reducible apply noteHalt_runs
    | (with_reducible refine runs_foldl ?_ _ _ (fun v x hv => ?_); rotate_left; try dsimp -zeta only)
    | (extract_lets +onlyGivenNames x; refine runs_cut (v := x) ?_ ?_; dsimp -zeta only [x]; clear x; rotate_left; intro _; clear_value x)
    | extract_lets +onlyGivenNames x
    | split
    | (clear_value *; split)
    | (with_reducible apply runs_mk; first | with_reducible assumption | with_reducible apply modCtx_runs | with_reducible apply modStream_runs | with_reducible apply completeDesc_runs | with_reducible apply deliver_runs | with_reducible apply endResume_runs | with_reducible apply noteHalt_runs)
    | (apply runs_mk; first | with_reducible assumption | with_reducible apply modCtx_runs | with_reducible apply modStream_runs | with_reducible apply completeDesc_runs | with_reducible apply deliver_runs | with_reducible apply endResume_runs | with_reducible apply noteHalt_runs)
    | (apply runs_more; first | with_reducible assumption | with_reducible apply modCtx_runs | with_reducible apply modStream_runs | with_reducible apply completeDesc_runs | with_reducible apply deliver_runs | with_reducible apply endResume_runs | with_reducible apply noteHalt_runs)

theorem resumeWrites_runs {ks : Bool} {s₀ u₀ : State} (h₀ : Runs ks s₀ u₀) (c : Nat) (id : Nat) (h : Halt) (hi : Nat) :
    Runs ks s₀ (resumeWrites u₀ c id h hi) := by
  unfold resumeWrites
  repeat' first
    | with_reducible assumption | (with_reducible intro _; try dsimp -zeta only) | with_reducible apply issue_runs
    | with_reducible apply deckWriteFor_runs | with_reducible apply modHalt_runs
    | (with_reducible refine runs_foldl ?_ _ _ (fun v x hv => ?_); rotate_left; try dsimp -zeta only)
    | (extract_lets +onlyGivenNames x; refine runs_cut (v := x) ?_ ?_; dsimp -zeta only [x]; clear x; rotate_left; intro _; clear_value x)
    | extract_lets +onlyGivenNames x | split | apply runs_mk

theorem startResume_runs {ks : Bool} {s₀ u₀ : State} (h₀ : Runs ks s₀ u₀) (c : Nat) (id : Nat) (h : Halt) :
    Runs ks s₀ (startResume u₀ c id h) := by
  unfold startResume
  repeat' first
    | with_reducible assumption | (with_reducible intro _; try dsimp -zeta only) | with_reducible apply issue_runs
    | with_reducible apply modHalt_runs | with_reducible apply resumeWrites_runs
    | (with_reducible refine runs_foldl ?_ _ _ (fun v x hv => ?_); rotate_left; try dsimp -zeta only)
    | (extract_lets +onlyGivenNames x; refine runs_cut (v := x) ?_ ?_; dsimp -zeta only [x]; clear x; rotate_left; intro _; clear_value x)
    | extract_lets +onlyGivenNames x | split | apply runs_mk

theorem resumeFault_runs {ks : Bool} {s₀ u₀ : State} (h₀ : Runs ks s₀ u₀) (c : Nat) (id : Nat) :
    Runs ks s₀ (resumeFault u₀ c id) := by
  unfold resumeFault
  repeat' first
    | with_reducible assumption | (with_reducible intro _; try dsimp -zeta only) | with_reducible apply endResume_runs
    | with_reducible apply noteHalt_runs | with_reducible apply resumeWrites_runs
    | (extract_lets +onlyGivenNames x; refine runs_cut (v := x) ?_ ?_; dsimp -zeta only [x]; clear x; rotate_left; intro _; clear_value x)
    | extract_lets +onlyGivenNames x | split | apply runs_mk

theorem execPageFault_runs {ks : Bool} {s₀ u₀ : State} (h₀ : Runs ks s₀ u₀) (target : FaultAt) :
    RunsOut ks s₀ (execPageFault target u₀) := by
  unfold execPageFault
  repeat' first
    | with_reducible assumption | with_reducible apply runsOut_finish | with_reducible apply runsOut_ok
    | with_reducible apply itemFault_runs | with_reducible apply streamFault_runs
    | with_reducible apply resumeFault_runs | extract_lets +onlyGivenNames x | split | apply runs_mk

theorem stepResume_runs {ks : Bool} {s₀ u₀ : State} (h₀ : Runs ks s₀ u₀) (c : Nat) (id : Nat) (h : Halt) :
    Runs ks s₀ (stepResume u₀ c id h) := by
  unfold stepResume
  repeat' first
    | with_reducible assumption | (with_reducible intro _; try dsimp -zeta only) | with_reducible apply event_runs
    | with_reducible apply modHalt_runs | with_reducible apply endResume_runs | with_reducible apply closeHalt_runs
    | with_reducible apply resumeWrites_runs | extract_lets +onlyGivenNames x | split | apply runs_mk

theorem execStreamResume_runs {ks : Bool} {s₀ u₀ : State} (h₀ : Runs ks s₀ u₀) (ctx : Nat) (ring : Nat) :
    RunsOut ks s₀ (execStreamResume ctx ring u₀) := by
  unfold execStreamResume
  repeat' first
    | with_reducible assumption | (with_reducible intro _; try dsimp -zeta only) | exact runsOut_fault _
    | with_reducible apply runsOut_finish | with_reducible apply modHalt_runs | with_reducible apply completeHead_runs
    | with_reducible apply command_runs | with_reducible apply startCommand_runs
    | with_reducible apply startResume_runs | with_reducible apply stepResume_runs
    | (extract_lets +onlyGivenNames x; refine runsOut_cut (v := x) ?_ ?_; dsimp -zeta only [x]; clear x; rotate_left; intro _; clear_value x)
    | (extract_lets +onlyGivenNames x; refine runs_cut (v := x) ?_ ?_; dsimp -zeta only [x]; clear x; rotate_left; intro _; clear_value x)
    | extract_lets +onlyGivenNames x | split | apply runs_mk

theorem closeCancelled_runs {ks : Bool} {s₀ u₀ : State} (h₀ : Runs ks s₀ u₀) (c : Nat) (id : Nat) (h : Halt) (last : Nat × Nat) : Runs ks s₀ (closeCancelled u₀ c id h last) := by
  unfold closeCancelled
  repeat' first
    | with_reducible assumption | with_reducible apply event_runs | with_reducible apply endResume_runs
    | with_reducible apply closeHalt_runs | with_reducible apply endSlot_runs
    | (extract_lets +onlyGivenNames x; refine runs_cut (v := x) ?_ ?_; dsimp -zeta only [x]; clear x; rotate_left; intro _; clear_value x)
    | extract_lets +onlyGivenNames x | split

theorem execStreamCancel_runs {ks : Bool} {s₀ u₀ : State} (h₀ : Runs ks s₀ u₀) (ctx : Nat) (ring : Nat) :
    RunsOut ks s₀ (execStreamCancel ctx ring u₀) := by
  unfold execStreamCancel
  repeat' first
    | with_reducible assumption | (with_reducible intro _; try dsimp -zeta only) | with_reducible apply runsOut_finish
    | with_reducible apply modHalt_runs | with_reducible apply completeHead_runs
    | with_reducible apply completeDesc_runs | with_reducible apply command_runs
    | with_reducible apply startCommand_runs | with_reducible apply closeCancelled_runs
    | (extract_lets +onlyGivenNames x; refine runsOut_cut (v := x) ?_ ?_; dsimp -zeta only [x]; clear x; rotate_left; intro _; clear_value x)
    | (extract_lets +onlyGivenNames x; refine runs_cut (v := x) ?_ ?_; dsimp -zeta only [x]; clear x; rotate_left; intro _; clear_value x)
    | extract_lets +onlyGivenNames x | split | apply runs_mk

theorem requestTimedOut_runs {ks : Bool} {s₀ u₀ : State} (h₀ : Runs ks s₀ u₀) (i : Nat) (a : Acc) :
    Runs ks s₀ (requestTimedOut u₀ i a) := by
  unfold requestTimedOut
  repeat' first
    | with_reducible assumption | (with_reducible intro _; try dsimp -zeta only) | with_reducible apply modDesc_runs
    | with_reducible apply modHalt_runs | with_reducible apply dropAcc_runs | with_reducible apply orphan_runs
    | with_reducible apply closeRequest_runs | with_reducible apply endResume_runs
    | with_reducible apply failStream_runs
    | (extract_lets +onlyGivenNames x; refine runs_cut (v := x) ?_ ?_; dsimp -zeta only [x]; clear x; rotate_left; intro _; clear_value x)
    | extract_lets +onlyGivenNames x | split | apply runs_mk | apply runs_more

theorem execDeviceRequestTimeout_runs {ks : Bool} {s₀ u₀ : State} (h₀ : Runs ks s₀ u₀) (acc : Nat) :
    RunsOut ks s₀ (execDeviceRequestTimeout acc u₀) := by
  unfold execDeviceRequestTimeout
  repeat' first
    | with_reducible assumption | with_reducible apply runsOut_finish | with_reducible apply runsOut_ok
    | with_reducible apply requestTimedOut_runs | extract_lets +onlyGivenNames x | split | apply runs_mk

/-! ### Boot -/

theorem fuses_grow (s : State) (o : Nat) (qs : List (Nat × Byte)) (m : NMap Byte)
    (hm : ∀ a i, (fuseAt s a).toNat.testBit i = true → (NMap.getD m a (shippedFuse a)).toNat.testBit i = true) (a i : Nat)
    (h : (fuseAt s a).toNat.testBit i = true) :
    (NMap.getD (qs.foldl (fun m q => NMap.set m (o + q.1) (fuseAt s (o + q.1) ||| q.2)) m) a (shippedFuse a)).toNat.testBit i = true := by
  induction qs generalizing m with
  | nil => exact hm a i h
  | cons q qs ih =>
    refine ih _ (fun b j hb => ?_)
    by_cases he : b = o + q.1
    · subst he
      simp [NMap.getD, BitVec.toNat_or, Nat.testBit_or, hb]
    · have := hm b j hb
      simpa [NMap.getD, find_set_other _ _ _ _ he] using this

theorem blow_runs {s₀ u₀ : State} (h₀ : Runs false s₀ u₀) (o : Nat) (bs : List Byte) : Runs false s₀ (blow u₀ o bs) := by
  unfold blow
  refine ⟨⟨h₀.keeps.mem, h₀.keeps.pending, fun a i h => ?_, h₀.keeps.free⟩, (fun e => by cases e), h₀.out, h₀.chans, h₀.stks, h₀.piers⟩
  exact fuses_grow u₀ o _ u₀.boot.fuses (fun _ _ hb => hb) a i (h₀.keeps.fuses a i h)

theorem execRomPhaseEnd_runs {ks : Bool} {s₀ u₀ : State} (h₀ : Runs ks s₀ u₀)  :
    RunsOut ks s₀ (execRomPhaseEnd u₀) := by
  unfold execRomPhaseEnd
  repeat' first
    | with_reducible assumption | with_reducible apply runsOut_ok | with_reducible apply startTraining_runs
    | (extract_lets +onlyGivenNames x; refine runsOut_cut (v := x) ?_ ?_; dsimp -zeta only [x]; clear x; rotate_left; intro _; clear_value x)
    | (extract_lets +onlyGivenNames x; refine runs_cut (v := x) ?_ ?_; dsimp -zeta only [x]; clear x; rotate_left; intro _; clear_value x)
    | extract_lets +onlyGivenNames x | split | apply runs_mk

theorem execInitPhaseEnd_runs {ks : Bool} {s₀ u₀ : State} (h₀ : Runs ks s₀ u₀) (badChannels badPiers : List Nat) :
    RunsOut ks s₀ (execInitPhaseEnd badChannels badPiers u₀) := by
  unfold execInitPhaseEnd
  split
  · exact runsOut_fault _
  · exact runsOut_fault _
  · split
    · exact runsOut_ok h₀
    · extract_lets s1
      have h1 : Runs ks s₀ s1 := runs_foldl (runs_foldl h₀ _ _ (fun v x hv => loseChannel_runs hv _)) _ _
        (fun v x hv => losePier_runs hv _)
      clear_value s1
      split
      · exact runsOut_finish (leaveService_runs h1)
      · exact runsOut_finish (runs_foldl (runs_mk h1) _ _ (fun v x hv => startTraining_runs hv _))

theorem mbxEnd_runs {ks : Bool} {s₀ u₀ : State} (h₀ : Runs ks s₀ u₀) (status : Nat) (detail : Nat) :
    Runs ks s₀ (mbxEnd u₀ status detail) := by
  unfold mbxEnd
  repeat' first | with_reducible assumption | extract_lets +onlyGivenNames x | apply runs_mk

theorem mbxOut_runs {ks : Bool} {s₀ u₀ : State} (h₀ : Runs ks s₀ u₀) (o : Nat) (bs : List Byte) :
    Runs ks s₀ (mbxOut u₀ o bs) := by
  unfold mbxOut
  repeat' first | with_reducible assumption | extract_lets +onlyGivenNames x | apply runs_mk

theorem execIdentity_runs {ks : Bool} {s₀ u₀ : State} (h₀ : Runs ks s₀ u₀)  : RunsOut ks s₀ (execIdentity u₀) := by
  unfold execIdentity
  repeat' first
    | with_reducible assumption | with_reducible apply runsOut_ok | with_reducible apply mbxEnd_runs
    | with_reducible apply mbxOut_runs
    | (extract_lets +onlyGivenNames x; refine runsOut_cut (v := x) ?_ ?_; dsimp -zeta only [x]; clear x; rotate_left; intro _; clear_value x)
    | (extract_lets +onlyGivenNames x; refine runs_cut (v := x) ?_ ?_; dsimp -zeta only [x]; clear x; rotate_left; intro _; clear_value x)
    | extract_lets +onlyGivenNames x | split

theorem execAttest_runs {ks : Bool} {s₀ u₀ : State} (h₀ : Runs ks s₀ u₀)  : RunsOut ks s₀ (execAttest u₀) := by
  unfold execAttest
  repeat' first
    | with_reducible assumption | with_reducible apply runsOut_ok | with_reducible apply mbxEnd_runs
    | with_reducible apply mbxOut_runs
    | (extract_lets +onlyGivenNames x; refine runsOut_cut (v := x) ?_ ?_; dsimp -zeta only [x]; clear x; rotate_left; intro _; clear_value x)
    | (extract_lets +onlyGivenNames x; refine runs_cut (v := x) ?_ ?_; dsimp -zeta only [x]; clear x; rotate_left; intro _; clear_value x)
    | extract_lets +onlyGivenNames x | split

theorem execOwnerSet_runs {s₀ u₀ : State} (h₀ : Runs false s₀ u₀) : RunsOut false s₀ (execOwnerSet u₀) := by
  unfold execOwnerSet
  split
  · exact runsOut_ok h₀
  · split
    · exact runsOut_ok (mbxEnd_runs h₀ _ _)
    · exact runsOut_ok (mbxEnd_runs (blow_runs (blow_runs h₀ _ _) _ _) _ _)

theorem actOnFlags_runs {s₀ u₀ : State} (h₀ : Runs false s₀ u₀) : Runs false s₀ (actOnFlags u₀) := by
  unfold actOnFlags
  refine runs_ite (fun _ => h₀) (fun _ => ?_)
  apply moves_mk
  exact runs_ite (fun _ => blow_runs (runs_ite (fun _ => blow_runs h₀ _ _) (fun _ => h₀)) _ _)
    (fun _ => runs_ite (fun _ => blow_runs h₀ _ _) (fun _ => h₀))

theorem startTiming_runs {s₀ u₀ : State} (h₀ : Runs false s₀ u₀)  : Runs false s₀ (startTiming u₀) := by
  unfold startTiming
  repeat' first
    | with_reducible assumption | with_reducible apply event_runs | with_reducible apply takeRoot_runs
    | (extract_lets +onlyGivenNames x; refine runs_cut (v := x) ?_ ?_; dsimp -zeta only [x]; clear x; rotate_left; intro _; clear_value x)
    | extract_lets +onlyGivenNames x | split | apply moves_mk

theorem putInForce_runs {s₀ u₀ : State} (h₀ : Runs false s₀ u₀) (p : List Byte) : Runs false s₀ (putInForce u₀ p) := by
  unfold putInForce
  refine actOnFlags_runs (moves_mk (bringOverlay_runs (applyEntries_runs (startTiming_runs (runs_ite (fun _ => ?_)
    (fun _ => moves_mk ?_))) _) _ _))
  all_goals
    refine runs_ite (fun _ => moves_mk h₀) (fun _ => ?_)
    exact ⟨⟨fun _ => rfl, h₀.keeps.pending, h₀.keeps.fuses, h₀.keeps.free⟩, (fun e => by cases e), h₀.out, h₀.chans, h₀.stks, h₀.piers⟩

theorem mbxRead_runs {s₀ u₀ t : State} {n : Nat} (hq : mbxRead u₀ n = .ask t) (h₀ : Runs false s₀ u₀) : Runs false s₀ t := by
  unfold mbxRead at hq
  extract_lets a m g at hq
  repeat' split at hq
  all_goals first
    | (cases hq; exact issueReads_runs (moves_mk h₀) _ _ _ _)
    | cases hq

theorem execLoadConfig_runs {s₀ u₀ : State} (h₀ : Runs false s₀ u₀) : RunsOut false s₀ (execLoadConfig u₀) := by
  unfold execLoadConfig
  split
  · exact runsOut_ok h₀
  · split
    · exact runsOut_ok (mbxEnd_runs h₀ _ _)
    · generalize hq : mbxRead u₀ (2 ^ 44) = q
      cases q with
      | outside => exact runsOut_ok (mbxEnd_runs h₀ _ _)
      | ask t => exact runsOut_finish (mbxRead_runs hq h₀)
      | waits => exact runsOut_ok h₀
      | failed => exact runsOut_ok (mbxEnd_runs h₀ _ _)
      | got p =>
        dsimp only
        split
        · exact runsOut_ok (mbxEnd_runs h₀ _ _)
        · exact runsOut_finish (putInForce_runs (mbxEnd_runs h₀ _ _) _)

/-! ### Pads -/

theorem execMgmtBlockRead_runs {s₀ u₀ : State} (h₀ : Runs false s₀ u₀) (command : Nat) (write : Bool) :
    RunsOut false s₀ (execMgmtBlockRead command write u₀) := by
  unfold execMgmtBlockRead
  repeat' first
    | with_reducible assumption | with_reducible apply runsOut_ok | with_reducible apply command_runs
    | extract_lets +onlyGivenNames x | split | apply moves_mk

/-! ### Slow -/

theorem mbxWrite_runs {ks : Bool} {s₀ u₀ : State} (h₀ : Runs ks s₀ u₀) (v : Nat) : Runs ks s₀ (mbxWrite u₀ v) := by
  unfold mbxWrite
  repeat' first
    | with_reducible assumption | with_reducible apply wakeUp_runs | with_reducible apply mbxEnd_runs
    | (extract_lets +onlyGivenNames x; refine runs_cut (v := x) ?_ ?_; dsimp -zeta only [x]; clear x; rotate_left; intro _; clear_value x)
    | extract_lets +onlyGivenNames x | split | apply runs_mk

theorem slowWrite_runs {ks : Bool} {s₀ u₀ : State} (h₀ : Runs ks s₀ u₀) (dom : Nat) (o : Nat) (v : Nat) :
    Runs ks s₀ ((slowWrite u₀ dom o v).1) := by
  unfold slowWrite
  repeat' first
    | with_reducible assumption | with_reducible apply mbxWrite_runs | extract_lets +onlyGivenNames x | split
    | apply runs_mk

theorem slowGood_runs {ks : Bool} {s₀ u₀ : State} (h₀ : Runs ks s₀ u₀)  : Runs ks s₀ (slowGood u₀) := by
  unfold slowGood
  repeat' first
    | with_reducible assumption | with_reducible apply rwStore_runs
    | (extract_lets +onlyGivenNames x; refine runs_cut (v := x) ?_ ?_; dsimp -zeta only [x]; clear x; rotate_left; intro _; clear_value x)
    | extract_lets +onlyGivenNames x | split | apply runs_mk

theorem slowFail_runs {ks : Bool} {s₀ u₀ : State} (h₀ : Runs ks s₀ u₀) (cause : Nat) :
    Runs ks s₀ (slowFail u₀ cause) := by
  unfold slowFail
  repeat' first
    | with_reducible assumption | with_reducible apply event_runs | extract_lets +onlyGivenNames x | apply runs_mk

theorem slowTakeRead_runs {ks : Bool} {s₀ u₀ : State} (h₀ : Runs ks s₀ u₀)  : Runs ks s₀ ((slowTakeRead u₀).1) := by
  unfold slowTakeRead
  repeat' first
    | with_reducible assumption | with_reducible apply slowGood_runs | with_reducible apply slowFail_runs
    | (extract_lets +onlyGivenNames x; refine runs_cut (v := x) ?_ ?_; dsimp -zeta only [x]; clear x; rotate_left; intro _; clear_value x)
    | extract_lets +onlyGivenNames x | split | apply runs_mk | apply runs_more

theorem slowTakeWrite_runs {ks : Bool} {s₀ u₀ : State} (h₀ : Runs ks s₀ u₀) (kind : Nat) (v : Nat) :
    Runs ks s₀ (slowTakeWrite u₀ kind v) := by
  unfold slowTakeWrite
  repeat' first
    | with_reducible assumption | with_reducible apply slowWrite_runs
    | (refine runs_fst (by with_reducible assumption) ?_) | with_reducible apply slowGood_runs
    | with_reducible apply slowFail_runs
    | (extract_lets +onlyGivenNames x; refine runs_cut (v := x) ?_ ?_; dsimp -zeta only [x]; clear x; rotate_left; intro _; clear_value x)
    | extract_lets +onlyGivenNames x | split | apply runs_mk | apply runs_more

/-! ### Registers -/

theorem regAnswer_runs {ks : Bool} {s₀ u₀ : State} (h₀ : Runs ks s₀ u₀) (tag : Nat) (status : Nat) (v : Nat) :
    Runs ks s₀ (regAnswer u₀ tag status v) := by
  unfold regAnswer
  repeat' first | with_reducible assumption | with_reducible apply kidSend_runs

theorem busError_runs {ks : Bool} {s₀ u₀ : State} (h₀ : Runs ks s₀ u₀) (off : Nat) (len : Nat) (write : Bool) :
    Runs ks s₀ (busError u₀ off len write) := by
  unfold busError
  repeat' first
    | with_reducible assumption | with_reducible apply event_runs | with_reducible apply bump_runs
    | (extract_lets +onlyGivenNames x; refine runs_cut (v := x) ?_ ?_; dsimp -zeta only [x]; clear x; rotate_left; intro _; clear_value x)
    | extract_lets +onlyGivenNames x | split | apply runs_mk

theorem readPairLo_runs {ks : Bool} {s₀ u₀ : State} (h₀ : Runs ks s₀ u₀) (p : Nat) :
    Runs ks s₀ ((readPairLo u₀ p).1) := by
  unfold readPairLo
  repeat' first
    | with_reducible assumption
    | (extract_lets +onlyGivenNames x; refine runs_cut (v := x) ?_ ?_; dsimp -zeta only [x]; clear x; rotate_left; intro _; clear_value x)
    | extract_lets +onlyGivenNames x | apply runs_mk

theorem readWord_runs {ks : Bool} {s₀ u₀ : State} (h₀ : Runs ks s₀ u₀) (off : Nat) :
    Runs ks s₀ ((readWord u₀ off).1) := by
  unfold readWord
  repeat' first
    | with_reducible assumption | with_reducible apply readPairLo_runs
    | (refine runs_fst (by with_reducible assumption) ?_) | extract_lets +onlyGivenNames x | split | apply runs_mk

theorem readBytes_runs {ks : Bool} {s₀ u₀ : State} (h₀ : Runs ks s₀ u₀) (off : Nat) (len : Nat) :
    Runs ks s₀ ((readBytes u₀ off len).1) := by
  unfold readBytes
  repeat' first
    | with_reducible assumption | with_reducible apply readPairLo_runs
    | (refine runs_fst (by with_reducible assumption) ?_) | with_reducible apply readWord_runs
    | (extract_lets +onlyGivenNames x; refine runs_cut (v := x) ?_ ?_; dsimp -zeta only [x]; clear x; rotate_left; intro _; clear_value x)
    | extract_lets +onlyGivenNames x | split

theorem adminGo_runs {ks : Bool} {s₀ u₀ : State} (h₀ : Runs ks s₀ u₀) (v : Nat) : Runs ks s₀ (adminGo u₀ v) := by
  unfold adminGo
  repeat' first
    | with_reducible assumption | with_reducible apply event_runs | with_reducible apply wakeUp_runs
    | (extract_lets +onlyGivenNames x; refine runs_cut (v := x) ?_ ?_; dsimp -zeta only [x]; clear x; rotate_left; intro _; clear_value x)
    | extract_lets +onlyGivenNames x | split | apply runs_mk

theorem storeWord_runs {ks : Bool} {s₀ u₀ : State} (h₀ : Runs ks s₀ u₀) (off : Nat) (v : Nat) :
    Runs ks s₀ (storeWord u₀ off v) := by
  unfold storeWord
  repeat' first
    | with_reducible assumption | with_reducible apply rwStore_runs | with_reducible apply wakeUp_runs
    | with_reducible apply requestNap_runs
    | (extract_lets +onlyGivenNames x; refine runs_cut (v := x) ?_ ?_; dsimp -zeta only [x]; clear x; rotate_left; intro _; clear_value x)
    | extract_lets +onlyGivenNames x | split

theorem writeWord_runs {ks : Bool} {s₀ u₀ : State} (h₀ : Runs ks s₀ u₀) (off : Nat) (v : Nat) :
    Runs ks s₀ (writeWord u₀ off v) := by
  unfold writeWord
  repeat' first
    | with_reducible assumption | with_reducible apply sqClear_runs | with_reducible apply switchGo_runs
    | with_reducible apply adminGo_runs | with_reducible apply storeWord_runs | split

theorem writePairHalf_runs {ks : Bool} {s₀ u₀ : State} (h₀ : Runs ks s₀ u₀) (p : Nat) (hi : Bool) (v : Nat) :
    Runs ks s₀ (writePairHalf u₀ p hi v) := by
  unfold writePairHalf
  repeat' first | with_reducible assumption | extract_lets +onlyGivenNames x | split | apply runs_mk

theorem writePair_runs {ks : Bool} {s₀ u₀ : State} (h₀ : Runs ks s₀ u₀) (p : Nat) (v : Nat) :
    Runs ks s₀ (writePair u₀ p v) := by
  unfold writePair
  repeat' first | with_reducible assumption | extract_lets +onlyGivenNames x | split | apply runs_mk

theorem putWord_runs {ks : Bool} {s₀ u₀ : State} (h₀ : Runs ks s₀ u₀) (kind : Nat) (off : Nat) (v : Nat) :
    Runs ks s₀ (putWord u₀ kind off v) := by
  unfold putWord
  repeat' first
    | with_reducible assumption | with_reducible apply storeWord_runs | with_reducible apply writeWord_runs
    | with_reducible apply writePairHalf_runs | extract_lets +onlyGivenNames x | split | apply runs_mk

theorem slowStart_runs {ks : Bool} {s₀ u₀ : State} (h₀ : Runs ks s₀ u₀) (kind : Nat) (v : Nat) :
    Runs ks s₀ (slowStart u₀ kind v) := by
  unfold slowStart
  repeat' first | with_reducible assumption | extract_lets +onlyGivenNames x | apply runs_mk

theorem doRead_runs {ks : Bool} {s₀ u₀ : State} (h₀ : Runs ks s₀ u₀) (off : Nat) (len : Nat) (tag : Nat) :
    Runs ks s₀ (doRead u₀ off len tag) := by
  unfold doRead
  repeat' first
    | with_reducible assumption | with_reducible apply regAnswer_runs | with_reducible apply busError_runs
    | with_reducible apply readBytes_runs | (refine runs_fst (by with_reducible assumption) ?_)
    | with_reducible apply slowStart_runs
    | (extract_lets +onlyGivenNames x; refine runs_cut (v := x) ?_ ?_; dsimp -zeta only [x]; clear x; rotate_left; intro _; clear_value x)
    | extract_lets +onlyGivenNames x | split

theorem doWrite_runs {ks : Bool} {s₀ u₀ : State} (h₀ : Runs ks s₀ u₀) (off : Nat) (len : Nat) (v : Nat) :
    Runs ks s₀ (doWrite u₀ off len v) := by
  unfold doWrite
  repeat' first
    | with_reducible assumption | with_reducible apply kidBad_runs | with_reducible apply busError_runs
    | with_reducible apply writePair_runs | with_reducible apply putWord_runs | with_reducible apply slowStart_runs
    | (extract_lets +onlyGivenNames x; refine runs_cut (v := x) ?_ ?_; dsimp -zeta only [x]; clear x; rotate_left; intro _; clear_value x)
    | extract_lets +onlyGivenNames x | split

theorem takeAccess_runs {ks : Bool} {s₀ u₀ : State} (h₀ : Runs ks s₀ u₀) (a : HostAccess) :
    Runs ks s₀ (takeAccess u₀ a) := by
  unfold takeAccess
  repeat' first
    | with_reducible assumption | with_reducible apply hostDoorbell_runs | with_reducible apply doRead_runs
    | with_reducible apply doWrite_runs | split

theorem unpark_runs {ks : Bool} {s₀ u₀ : State} (n : Nat) (h₀ : Runs ks s₀ u₀) : Runs ks s₀ (unpark n u₀) := by
  induction n generalizing u₀ with
  | zero => exact h₀
  | succ n ih =>
    unfold unpark
    split
    · exact h₀
    · split
      · exact h₀
      · exact ih (takeAccess_runs (runs_mk h₀) _)

theorem hostAccess_runs {ks : Bool} {s₀ u₀ : State} (h₀ : Runs ks s₀ u₀) (a : HostAccess) :
    Runs ks s₀ (hostAccess u₀ a) := by
  unfold hostAccess
  repeat' first
    | with_reducible assumption | with_reducible apply takeAccess_runs | extract_lets +onlyGivenNames x | split
    | apply runs_mk

theorem slowEnd_runs {ks : Bool} {s₀ u₀ : State} (h₀ : Runs ks s₀ u₀)  : Runs ks s₀ (slowEnd u₀) := by
  unfold slowEnd
  repeat' first
    | with_reducible apply unpark_runs | with_reducible assumption | with_reducible apply slowTakeRead_runs
    | (refine runs_fst (by with_reducible assumption) ?_) | with_reducible apply slowTakeWrite_runs
    | with_reducible apply regAnswer_runs
    | (extract_lets +onlyGivenNames x; refine runs_cut (v := x) ?_ ?_; dsimp -zeta only [x]; clear x; rotate_left; intro _; clear_value x)
    | extract_lets +onlyGivenNames x | split | apply runs_mk

theorem execRegRead_runs {ks : Bool} {s₀ u₀ : State} (h₀ : Runs ks s₀ u₀) (off : Nat) (len : Nat) (tag : Nat) :
    RunsOut ks s₀ (execRegRead off len tag u₀) := by
  unfold execRegRead
  repeat' first
    | with_reducible assumption | with_reducible apply runsOut_finish | with_reducible apply hostAccess_runs

theorem execRegWrite_runs {ks : Bool} {s₀ u₀ : State} (h₀ : Runs ks s₀ u₀) (off : Nat) (len : Nat) (data : Nat) :
    RunsOut ks s₀ (execRegWrite off len data u₀) := by
  unfold execRegWrite
  repeat' first
    | with_reducible assumption | with_reducible apply runsOut_finish | with_reducible apply hostAccess_runs

theorem execDoorbell_runs {ks : Bool} {s₀ u₀ : State} (h₀ : Runs ks s₀ u₀) (off : Nat) (data : Nat) :
    RunsOut ks s₀ (execDoorbell off data u₀) := by
  unfold execDoorbell
  repeat' first
    | with_reducible assumption | with_reducible apply runsOut_finish | with_reducible apply hostAccess_runs

theorem execSetAliasWrite_runs {ks : Bool} {s₀ u₀ : State} (h₀ : Runs ks s₀ u₀) (off : Nat) (data : Nat) :
    RunsOut ks s₀ (execSetAliasWrite off data u₀) := by
  unfold execSetAliasWrite
  repeat' first
    | with_reducible assumption | with_reducible apply runsOut_finish | with_reducible apply hostAccess_runs

theorem execClearAliasWrite_runs {ks : Bool} {s₀ u₀ : State} (h₀ : Runs ks s₀ u₀) (off : Nat) (data : Nat) :
    RunsOut ks s₀ (execClearAliasWrite off data u₀) := by
  unfold execClearAliasWrite
  repeat' first
    | with_reducible assumption | with_reducible apply runsOut_finish | with_reducible apply hostAccess_runs

theorem execToggleAliasWrite_runs {ks : Bool} {s₀ u₀ : State} (h₀ : Runs ks s₀ u₀) (off : Nat) (data : Nat) :
    RunsOut ks s₀ (execToggleAliasWrite off data u₀) := by
  unfold execToggleAliasWrite
  repeat' first
    | with_reducible assumption | with_reducible apply runsOut_finish | with_reducible apply hostAccess_runs

theorem execSqWrite_runs {ks : Bool} {s₀ u₀ : State} (h₀ : Runs ks s₀ u₀) (off : Nat) (data : Nat) :
    RunsOut ks s₀ (execSqWrite off data u₀) := by
  unfold execSqWrite
  repeat' first
    | with_reducible assumption | with_reducible apply runsOut_finish | with_reducible apply runsOut_ok
    | with_reducible apply hostAccess_runs | split

theorem execPairLoRead_runs {ks : Bool} {s₀ u₀ : State} (h₀ : Runs ks s₀ u₀) (off : Nat) (tag : Nat) :
    RunsOut ks s₀ (execPairLoRead off tag u₀) := by
  unfold execPairLoRead
  repeat' first
    | with_reducible assumption | with_reducible apply runsOut_finish | with_reducible apply runsOut_ok
    | with_reducible apply hostAccess_runs | split

theorem execPairLoWrite_runs {ks : Bool} {s₀ u₀ : State} (h₀ : Runs ks s₀ u₀) (off : Nat) (data : Nat) :
    RunsOut ks s₀ (execPairLoWrite off data u₀) := by
  unfold execPairLoWrite
  repeat' first
    | with_reducible assumption | with_reducible apply runsOut_finish | with_reducible apply runsOut_ok
    | with_reducible apply hostAccess_runs | split

theorem execPairHiWrite_runs {ks : Bool} {s₀ u₀ : State} (h₀ : Runs ks s₀ u₀) (off : Nat) (data : Nat) :
    RunsOut ks s₀ (execPairHiWrite off data u₀) := by
  unfold execPairHiWrite
  repeat' first
    | with_reducible assumption | with_reducible apply runsOut_finish | with_reducible apply runsOut_ok
    | with_reducible apply hostAccess_runs | split

theorem execSlowDataRead_runs {ks : Bool} {s₀ u₀ : State} (h₀ : Runs ks s₀ u₀) (tag : Nat) :
    RunsOut ks s₀ (execSlowDataRead tag u₀) := by
  unfold execSlowDataRead
  repeat' first
    | with_reducible assumption | with_reducible apply runsOut_finish | with_reducible apply runsOut_ok
    | with_reducible apply hostAccess_runs | with_reducible apply slowEnd_runs
    | (extract_lets +onlyGivenNames x; refine runsOut_cut (v := x) ?_ ?_; dsimp -zeta only [x]; clear x; rotate_left; intro _; clear_value x)
    | (extract_lets +onlyGivenNames x; refine runs_cut (v := x) ?_ ?_; dsimp -zeta only [x]; clear x; rotate_left; intro _; clear_value x)
    | extract_lets +onlyGivenNames x | split | apply runs_mk

theorem execSlowDataWrite_runs {ks : Bool} {s₀ u₀ : State} (h₀ : Runs ks s₀ u₀) (data : Nat) :
    RunsOut ks s₀ (execSlowDataWrite data u₀) := by
  unfold execSlowDataWrite
  repeat' first
    | with_reducible assumption | with_reducible apply runsOut_finish | with_reducible apply runsOut_ok
    | with_reducible apply hostAccess_runs | with_reducible apply slowEnd_runs
    | (extract_lets +onlyGivenNames x; refine runsOut_cut (v := x) ?_ ?_; dsimp -zeta only [x]; clear x; rotate_left; intro _; clear_value x)
    | (extract_lets +onlyGivenNames x; refine runs_cut (v := x) ?_ ?_; dsimp -zeta only [x]; clear x; rotate_left; intro _; clear_value x)
    | extract_lets +onlyGivenNames x | split | apply runs_mk

theorem execSlowAccessTimeout_runs {ks : Bool} {s₀ u₀ : State} (h₀ : Runs ks s₀ u₀)  :
    RunsOut ks s₀ (execSlowAccessTimeout u₀) := by
  unfold execSlowAccessTimeout
  repeat' first
    | with_reducible apply unpark_runs | with_reducible assumption | with_reducible apply runsOut_finish
    | with_reducible apply runsOut_ok | with_reducible apply slowFail_runs | with_reducible apply regAnswer_runs
    | (extract_lets +onlyGivenNames x; refine runsOut_cut (v := x) ?_ ?_; dsimp -zeta only [x]; clear x; rotate_left; intro _; clear_value x)
    | (extract_lets +onlyGivenNames x; refine runs_cut (v := x) ?_ ?_; dsimp -zeta only [x]; clear x; rotate_left; intro _; clear_value x)
    | extract_lets +onlyGivenNames x | split | apply runs_mk

theorem snoop_runs {ks : Bool} {s₀ u₀ : State} (h₀ : Runs ks s₀ u₀) (addr : Nat) (tag : Nat) :
    Runs ks s₀ (snoop u₀ addr tag) := by
  unfold snoop
  repeat' first
    | with_reducible assumption | (with_reducible intro _; try dsimp -zeta only) | with_reducible apply kidSend_runs
    | (extract_lets +onlyGivenNames x; refine runs_cut (v := x) ?_ ?_; dsimp -zeta only [x]; clear x; rotate_left; intro _; clear_value x)
    | extract_lets +onlyGivenNames x | apply runs_mk

theorem execSnpInv_runs {ks : Bool} {s₀ u₀ : State} (h₀ : Runs ks s₀ u₀) (addr : Nat) (tag : Nat) :
    RunsOut ks s₀ (execSnpInv addr tag u₀) := by
  unfold execSnpInv
  repeat' first | with_reducible assumption | with_reducible apply runsOut_ok | with_reducible apply snoop_runs | split

/-! ### Admin -/

theorem adminEnd_runs {ks : Bool} {s₀ u₀ : State} (h₀ : Runs ks s₀ u₀) (status : Nat) :
    Runs ks s₀ (adminEnd u₀ status) := by
  unfold adminEnd
  repeat' first
    | with_reducible assumption | with_reducible apply event_runs | extract_lets +onlyGivenNames x | apply runs_mk

theorem createFrom_runs {ks : Bool} {s₀ u₀ : State} (h₀ : Runs ks s₀ u₀) (b : List Byte) :
    Runs ks s₀ (createFrom u₀ b) := by
  unfold createFrom
  repeat' first
    | with_reducible assumption | with_reducible apply setCtx_runs | with_reducible apply adminEnd_runs
    | (extract_lets +onlyGivenNames x; refine runs_cut (v := x) ?_ ?_; dsimp -zeta only [x]; clear x; rotate_left; intro _; clear_value x)
    | extract_lets +onlyGivenNames x | split

theorem execCreate_runs {ks : Bool} {s₀ u₀ : State} (h₀ : Runs ks s₀ u₀)  : RunsOut ks s₀ (execCreate u₀) := by
  unfold execCreate
  repeat' first
    | with_reducible assumption | with_reducible apply runsOut_finish | with_reducible apply runsOut_ok
    | with_reducible apply issue_runs | with_reducible apply adminEnd_runs | with_reducible apply createFrom_runs
    | (extract_lets +onlyGivenNames x; refine runsOut_cut (v := x) ?_ ?_; dsimp -zeta only [x]; clear x; rotate_left; intro _; clear_value x)
    | (extract_lets +onlyGivenNames x; refine runs_cut (v := x) ?_ ?_; dsimp -zeta only [x]; clear x; rotate_left; intro _; clear_value x)
    | extract_lets +onlyGivenNames x | split | apply runs_mk

theorem abortAll_runs {ks : Bool} {s₀ u₀ : State} (h₀ : Runs ks s₀ u₀) (c : Nat) : Runs ks s₀ (abortAll u₀ c) := by
  unfold abortAll
  repeat' first
    | with_reducible assumption | (with_reducible intro _; try dsimp -zeta only) | with_reducible apply modCtx_runs
    | with_reducible apply orphan_runs
    | (extract_lets +onlyGivenNames x; refine runs_cut (v := x) ?_ ?_; dsimp -zeta only [x]; clear x; rotate_left; intro _; clear_value x)
    | extract_lets +onlyGivenNames x | apply runs_mk

theorem freeCtx_runs {s₀ u₀ : State} (h₀ : Runs false s₀ u₀) (c : Nat) (x : Ctx) : Runs false s₀ (freeCtx u₀ c x) := by
  unfold freeCtx
  repeat' first
    | with_reducible assumption | (with_reducible intro _; try dsimp -zeta only) | with_reducible apply orphan_runs
    | with_reducible apply freeSet_runs
    | (with_reducible refine runs_foldl ?_ _ _ (fun v x hv => ?_); rotate_left; try dsimp -zeta only)
    | (extract_lets +onlyGivenNames x; refine runs_cut (v := x) ?_ ?_; dsimp -zeta only [x]; clear x; rotate_left; intro _; clear_value x)
    | extract_lets +onlyGivenNames x | apply moves_mk | apply moves_more

theorem execDestroy_runs {s₀ u₀ : State} (h₀ : Runs false s₀ u₀)  : RunsOut false s₀ (execDestroy u₀) := by
  unfold execDestroy
  repeat' first
    | with_reducible assumption | (with_reducible intro _; try dsimp -zeta only) | with_reducible apply runsOut_finish
    | with_reducible apply runsOut_ok | with_reducible apply setCtx_runs | with_reducible apply adminEnd_runs
    | with_reducible apply abortAll_runs | with_reducible apply freeCtx_runs
    | (extract_lets +onlyGivenNames x; refine runsOut_cut (v := x) ?_ ?_; dsimp -zeta only [x]; clear x; rotate_left; intro _; clear_value x)
    | (extract_lets +onlyGivenNames x; refine runs_cut (v := x) ?_ ?_; dsimp -zeta only [x]; clear x; rotate_left; intro _; clear_value x)
    | extract_lets +onlyGivenNames x | split | apply moves_mk | apply moves_more

theorem writeSave_runs {ks : Bool} {s₀ u₀ : State} (h₀ : Runs ks s₀ u₀) (c : Nat) (x : Ctx) :
    Runs ks s₀ (writeSave u₀ c x) := by
  unfold writeSave
  repeat' first
    | with_reducible assumption | (with_reducible intro _; try dsimp -zeta only) | with_reducible apply deckWrite_runs
    | with_reducible apply setCtx_runs | with_reducible apply issueWrites_runs | with_reducible apply adminEnd_runs
    | (extract_lets +onlyGivenNames x; refine runs_cut (v := x) ?_ ?_; dsimp -zeta only [x]; clear x; rotate_left; intro _; clear_value x)
    | extract_lets +onlyGivenNames x | split | apply runs_mk | apply runs_more

theorem execPause_runs {ks : Bool} {s₀ u₀ : State} (h₀ : Runs ks s₀ u₀)  : RunsOut ks s₀ (execPause u₀) := by
  unfold execPause
  repeat' first
    | with_reducible assumption | with_reducible apply runsOut_finish | with_reducible apply runsOut_ok
    | with_reducible apply setCtx_runs | with_reducible apply trace_runs | with_reducible apply adminEnd_runs
    | with_reducible apply writeSave_runs
    | (extract_lets +onlyGivenNames x; refine runsOut_cut (v := x) ?_ ?_; dsimp -zeta only [x]; clear x; rotate_left; intro _; clear_value x)
    | (extract_lets +onlyGivenNames x; refine runs_cut (v := x) ?_ ?_; dsimp -zeta only [x]; clear x; rotate_left; intro _; clear_value x)
    | extract_lets +onlyGivenNames x | split | apply runs_mk

theorem reload_runs {ks : Bool} {s₀ u₀ : State} (h₀ : Runs ks s₀ u₀) (c : Nat) (x : Ctx) (v : Save) :
    Runs ks s₀ (reload u₀ c x v) := by
  unfold reload
  repeat' first
    | with_reducible assumption | (with_reducible intro _; try dsimp -zeta only) | with_reducible apply setCtx_runs
    | (with_reducible refine runs_foldl ?_ _ _ (fun v x hv => ?_); rotate_left; try dsimp -zeta only)
    | (extract_lets +onlyGivenNames x; refine runs_cut (v := x) ?_ ?_; dsimp -zeta only [x]; clear x; rotate_left; intro _; clear_value x)
    | extract_lets +onlyGivenNames x | split | apply runs_mk

theorem resumeFrom_runs {ks : Bool} {s₀ u₀ : State} (h₀ : Runs ks s₀ u₀) (c : Nat) (x : Ctx) (img : List Byte) :
    Runs ks s₀ (resumeFrom u₀ c x img) := by
  unfold resumeFrom
  repeat' first
    | with_reducible assumption | (with_reducible intro _; try dsimp -zeta only) | with_reducible apply modCtx_runs
    | with_reducible apply trace_runs | with_reducible apply adminEnd_runs | with_reducible apply reload_runs
    | (extract_lets +onlyGivenNames x; refine runs_cut (v := x) ?_ ?_; dsimp -zeta only [x]; clear x; rotate_left; intro _; clear_value x)
    | extract_lets +onlyGivenNames x | split | apply runs_mk

theorem execResume_runs {ks : Bool} {s₀ u₀ : State} (h₀ : Runs ks s₀ u₀)  : RunsOut ks s₀ (execResume u₀) := by
  unfold execResume
  repeat' first
    | with_reducible assumption | with_reducible apply runsOut_finish | with_reducible apply runsOut_ok
    | with_reducible apply issueReads_runs | with_reducible apply adminEnd_runs | with_reducible apply resumeFrom_runs
    | (extract_lets +onlyGivenNames x; refine runsOut_cut (v := x) ?_ ?_; dsimp -zeta only [x]; clear x; rotate_left; intro _; clear_value x)
    | (extract_lets +onlyGivenNames x; refine runs_cut (v := x) ?_ ?_; dsimp -zeta only [x]; clear x; rotate_left; intro _; clear_value x)
    | extract_lets +onlyGivenNames x | split | apply runs_mk

/-! ### Span -/

theorem spanBad_runs {ks : Bool} {s₀ u₀ : State} (h₀ : Runs ks s₀ u₀)  : Runs ks s₀ (spanBad u₀) := by
  unfold spanBad
  repeat' first | with_reducible assumption | with_reducible apply event_runs | with_reducible apply bump_runs

theorem forward_runs {ks : Bool} {s₀ u₀ : State} (h₀ : Runs ks s₀ u₀) (h : SpanHdr) (data : List Byte) :
    Runs ks s₀ (forward u₀ h data) := by
  unfold forward
  repeat' first
    | with_reducible assumption | with_reducible apply routeSend_runs | with_reducible apply spanBad_runs
    | extract_lets +onlyGivenNames x | split | apply runs_mk

theorem inOrder_runs {ks : Bool} {s₀ u₀ : State} (h₀ : Runs ks s₀ u₀) (h : SpanHdr) (f : State → State)
    (hf : ∀ v, Runs ks s₀ v → Runs ks s₀ (f v)) : Runs ks s₀ (inOrder u₀ h f) := by
  unfold inOrder
  refine runs_ite (fun _ => hf _ (runs_mk h₀)) (fun _ => runs_ite (fun _ => ?_) (fun _ => spanBad_runs h₀))
  split
  · exact routeSend_runs (bump_runs h₀ _ _) _ _ _
  · exact bump_runs h₀ _ _

theorem requestIn_runs {ks : Bool} {s₀ u₀ : State} (h₀ : Runs ks s₀ u₀) (port : Nat) (h : SpanHdr) (opcode : Nat) (data : List Byte)
    (f : State → State) (hf : ∀ v, Runs ks s₀ v → Runs ks s₀ (f v)) : Runs ks s₀ (requestIn u₀ port h opcode data f) := by
  unfold requestIn
  refine runs_ite (fun _ => h₀) (fun _ => runs_ite (fun _ => spanBad_runs h₀) (fun _ =>
    runs_ite (fun _ => forward_runs h₀ _ _) (fun _ => inOrder_runs h₀ _ _ (fun v hv => ?_))))
  exact runs_ite (fun _ => hf v hv) (fun _ => answerPeer_runs hv _ _ _)

theorem putApply_runs {ks : Bool} {s₀ u₀ : State} (h₀ : Runs ks s₀ u₀) (h : SpanHdr) (data : List Byte) :
    Runs ks s₀ (putApply u₀ h data) := by
  unfold putApply
  repeat' first
    | with_reducible assumption | with_reducible apply issue_runs | with_reducible apply deckWriteFor_runs
    | with_reducible apply answerPeer_runs
    | (extract_lets +onlyGivenNames x; refine runs_cut (v := x) ?_ ?_; dsimp -zeta only [x]; clear x; rotate_left; intro _; clear_value x)
    | extract_lets +onlyGivenNames x | split | apply runs_mk

theorem getApply_runs {ks : Bool} {s₀ u₀ : State} (h₀ : Runs ks s₀ u₀) (h : SpanHdr) : Runs ks s₀ (getApply u₀ h) := by
  unfold getApply
  cases admits u₀ h 0 h.length with
  | none => exact answerPeer_runs h₀ _ _ _
  | some fl =>
    refine runs_ite (fun _ => ?_) (fun _ => issue_runs h₀ _)
    extract_lets a bad s1
    have h1 : Runs ks s₀ s1 := runs_foldl h₀ _ _ (fun v x hv => blockRead_runs hv _ _)
    clear_value s1
    exact runs_ite (fun _ => answerPeer_runs h1 _ _ _) (fun _ => answerPeer_runs h1 _ _ _)

theorem atomicApply_runs {ks : Bool} {s₀ u₀ : State} (h₀ : Runs ks s₀ u₀) (h : SpanHdr) (data : List Byte) :
    Runs ks s₀ (atomicApply u₀ h data) := by
  unfold atomicApply
  repeat' first
    | with_reducible assumption | with_reducible apply cellOp_runs | with_reducible apply answerPeer_runs
    | (extract_lets +onlyGivenNames x; refine runs_cut (v := x) ?_ ?_; dsimp -zeta only [x]; clear x; rotate_left; intro _; clear_value x)
    | extract_lets +onlyGivenNames x | split | apply runs_mk

theorem execPutRequest_runs {ks : Bool} {s₀ u₀ : State} (h₀ : Runs ks s₀ u₀) (port : Fin 8) (hdr : SpanHdr) (data : List Byte) : RunsOut ks s₀ (execPutRequest port hdr data u₀) := by
  unfold execPutRequest
  repeat' first
    | with_reducible assumption | (with_reducible intro _; try dsimp -zeta only) | with_reducible apply runsOut_finish
    | with_reducible apply requestIn_runs | with_reducible apply putApply_runs

theorem execGetRequest_runs {ks : Bool} {s₀ u₀ : State} (h₀ : Runs ks s₀ u₀) (port : Fin 8) (hdr : SpanHdr) :
    RunsOut ks s₀ (execGetRequest port hdr u₀) := by
  unfold execGetRequest
  repeat' first
    | with_reducible assumption | (with_reducible intro _; try dsimp -zeta only) | with_reducible apply runsOut_finish
    | with_reducible apply requestIn_runs | with_reducible apply getApply_runs

theorem execAtomicRequest_runs {ks : Bool} {s₀ u₀ : State} (h₀ : Runs ks s₀ u₀) (port : Fin 8) (hdr : SpanHdr) (data : List Byte) : RunsOut ks s₀ (execAtomicRequest port hdr data u₀) := by
  unfold execAtomicRequest
  repeat' first
    | with_reducible assumption | (with_reducible intro _; try dsimp -zeta only) | with_reducible apply runsOut_finish
    | with_reducible apply requestIn_runs | with_reducible apply atomicApply_runs

theorem responseIn_runs {ks : Bool} {s₀ u₀ : State} (h₀ : Runs ks s₀ u₀) (port : Nat) (h : SpanHdr) (opcode : Nat) (data : List Byte) : Runs ks s₀ (responseIn u₀ port h opcode data) := by
  unfold responseIn
  repeat' first
    | with_reducible assumption | (with_reducible intro _; try dsimp -zeta only) | with_reducible apply accDone_runs
    | with_reducible apply nextWaiting_runs | with_reducible apply spanBad_runs | with_reducible apply forward_runs
    | (extract_lets +onlyGivenNames x; refine runs_cut (v := x) ?_ ?_; dsimp -zeta only [x]; clear x; rotate_left; intro _; clear_value x)
    | extract_lets +onlyGivenNames x | split | apply runs_mk

theorem execPutDone_runs {ks : Bool} {s₀ u₀ : State} (h₀ : Runs ks s₀ u₀) (port : Fin 8) (hdr : SpanHdr) :
    RunsOut ks s₀ (execPutDone port hdr u₀) := by
  unfold execPutDone
  repeat' first
    | with_reducible assumption | with_reducible apply runsOut_finish | with_reducible apply responseIn_runs

theorem execGetData_runs {ks : Bool} {s₀ u₀ : State} (h₀ : Runs ks s₀ u₀) (port : Fin 8) (hdr : SpanHdr) (data : List Byte) : RunsOut ks s₀ (execGetData port hdr data u₀) := by
  unfold execGetData
  repeat' first
    | with_reducible assumption | with_reducible apply runsOut_finish | with_reducible apply responseIn_runs

theorem execAtomicDone_runs {ks : Bool} {s₀ u₀ : State} (h₀ : Runs ks s₀ u₀) (port : Fin 8) (hdr : SpanHdr) (data : List Byte) : RunsOut ks s₀ (execAtomicDone port hdr data u₀) := by
  unfold execAtomicDone
  repeat' first
    | with_reducible assumption | with_reducible apply runsOut_finish | with_reducible apply responseIn_runs

theorem execMergeDone_runs {ks : Bool} {s₀ u₀ : State} (h₀ : Runs ks s₀ u₀) (port : Fin 8) (hdr : SpanHdr) :
    RunsOut ks s₀ (execMergeDone port hdr u₀) := by
  unfold execMergeDone
  repeat' first
    | with_reducible assumption | with_reducible apply runsOut_finish | with_reducible apply responseIn_runs

theorem resendChannel_runs {ks : Bool} {s₀ u₀ : State} (h₀ : Runs ks s₀ u₀) (k : Nat) :
    Runs ks s₀ (resendChannel u₀ k) := by
  unfold resendChannel
  repeat' first
    | with_reducible assumption | (with_reducible intro _; try dsimp -zeta only) | with_reducible apply event_runs
    | with_reducible apply bump_runs | with_reducible apply spanSend_runs
    | (with_reducible refine runs_foldl ?_ _ _ (fun v x hv => ?_); rotate_left; try dsimp -zeta only)
    | (extract_lets +onlyGivenNames x; refine runs_cut (v := x) ?_ ?_; dsimp -zeta only [x]; clear x; rotate_left; intro _; clear_value x)
    | extract_lets +onlyGivenNames x | split | apply runs_mk

theorem execSpanResend_runs {ks : Bool} {s₀ u₀ : State} (h₀ : Runs ks s₀ u₀) (dst : Nat) (channel : Nat) :
    RunsOut ks s₀ (execSpanResend dst channel u₀) := by
  unfold execSpanResend
  repeat' first
    | with_reducible assumption | (with_reducible intro _; try dsimp -zeta only) | with_reducible apply runsOut_ok
    | with_reducible apply resendChannel_runs
    | (extract_lets +onlyGivenNames x; refine runsOut_cut (v := x) ?_ ?_; dsimp -zeta only [x]; clear x; rotate_left; intro _; clear_value x)
    | (extract_lets +onlyGivenNames x; refine runs_cut (v := x) ?_ ?_; dsimp -zeta only [x]; clear x; rotate_left; intro _; clear_value x)
    | extract_lets +onlyGivenNames x | split

theorem landPulled_runs {ks : Bool} {s₀ u₀ : State} (h₀ : Runs ks s₀ u₀) (port : Nat) :
    Runs ks s₀ (landPulled u₀ port) := by
  unfold landPulled
  repeat' first
    | with_reducible assumption | with_reducible apply issue_runs | with_reducible apply deckWriteFor_runs
    | (extract_lets +onlyGivenNames x; refine runs_cut (v := x) ?_ ?_; dsimp -zeta only [x]; clear x; rotate_left; intro _; clear_value x)
    | extract_lets +onlyGivenNames x | split | apply runs_mk | apply runs_more

theorem execRetrain_runs {ks : Bool} {s₀ u₀ : State} (h₀ : Runs ks s₀ u₀) (port : Fin 9) :
    RunsOut ks s₀ (execRetrain port u₀) := by
  unfold execRetrain
  repeat' first
    | with_reducible assumption | with_reducible apply runsOut_ok | with_reducible apply event_runs
    | with_reducible apply bump_runs | with_reducible apply enterRetrain_runs | with_reducible apply landPulled_runs
    | (extract_lets +onlyGivenNames x; refine runsOut_cut (v := x) ?_ ?_; dsimp -zeta only [x]; clear x; rotate_left; intro _; clear_value x)
    | (extract_lets +onlyGivenNames x; refine runs_cut (v := x) ?_ ?_; dsimp -zeta only [x]; clear x; rotate_left; intro _; clear_value x)
    | extract_lets +onlyGivenNames x | split

theorem execSpanPortDown_runs {ks : Bool} {s₀ u₀ : State} (h₀ : Runs ks s₀ u₀) (port : Fin 8) :
    RunsOut ks s₀ (execSpanPortDown port u₀) := by
  unfold execSpanPortDown
  repeat' first
    | with_reducible assumption | (with_reducible intro _; try dsimp -zeta only) | with_reducible apply runsOut_ok
    | with_reducible apply event_runs | with_reducible apply enterRetrain_runs
    | with_reducible apply resendChannel_runs | with_reducible apply landPulled_runs
    | (with_reducible refine runs_foldl ?_ _ _ (fun v x hv => ?_); rotate_left; try dsimp -zeta only)
    | (extract_lets +onlyGivenNames x; refine runsOut_cut (v := x) ?_ ?_; dsimp -zeta only [x]; clear x; rotate_left; intro _; clear_value x)
    | (extract_lets +onlyGivenNames x; refine runs_cut (v := x) ?_ ?_; dsimp -zeta only [x]; clear x; rotate_left; intro _; clear_value x)
    | extract_lets +onlyGivenNames x | split

/-! ### Versions -/

theorem writeLeaves_runs {ks : Bool} {s₀ u₀ : State} (h₀ : Runs ks s₀ u₀) (mem : Mem) (a : Nat) :
    Runs ks s₀ (writeLeaves u₀ mem a) := by
  unfold writeLeaves
  repeat' first
    | with_reducible assumption | (with_reducible intro _; try dsimp -zeta only) | with_reducible apply bump_runs
    | with_reducible apply deckWrite_runs
    | (with_reducible refine runs_foldl ?_ _ _ (fun v x hv => ?_); rotate_left; try dsimp -zeta only)
    | (extract_lets +onlyGivenNames x; refine runs_cut (v := x) ?_ ?_; dsimp -zeta only [x]; clear x; rotate_left; intro _; clear_value x)
    | extract_lets +onlyGivenNames x | split | apply runs_mk

theorem switchIn_runs {ks : Bool} {s₀ u₀ : State} (h₀ : Runs ks s₀ u₀) (set : Nat) (k : Nat) (id : Nat) (ctx : Nat) (a : Nat) (by_ : Option (Nat × Nat × Nat)) : Runs ks s₀ (switchIn u₀ set k id ctx a by_) := by
  unfold switchIn
  repeat' first
    | with_reducible assumption | (with_reducible intro _; try dsimp -zeta only) | with_reducible apply modVer_runs
    | with_reducible apply writeSlot_runs | with_reducible apply halveHits_runs
    | (extract_lets +onlyGivenNames x; refine runs_cut (v := x) ?_ ?_; dsimp -zeta only [x]; clear x; rotate_left; intro _; clear_value x)
    | extract_lets +onlyGivenNames x | split | apply runs_mk | apply runs_more

theorem newVersionId_runs {ks : Bool} {s₀ u₀ : State} (h₀ : Runs ks s₀ u₀)  : Runs ks s₀ ((newVersionId u₀).2) := by
  unfold newVersionId
  repeat' first | with_reducible assumption | extract_lets +onlyGivenNames x | apply runs_mk

theorem switchRefused_runs {ks : Bool} {s₀ u₀ : State} (h₀ : Runs ks s₀ u₀) (c : Nat) (r : Nat) (raw : List Byte) (detail : Nat) : Runs ks s₀ (switchRefused u₀ c r raw detail) := by
  unfold switchRefused
  repeat' first | with_reducible assumption | with_reducible apply event_runs | with_reducible apply completeHead_runs

theorem askFresh_runs {ks : Bool} {s₀ u₀ : State} (h₀ : Runs ks s₀ u₀) (c : Nat) (r : Nat) (miss : List (Nat × Nat)) :
    Runs ks s₀ (askFresh u₀ c r miss) := by
  unfold askFresh
  repeat' first
    | with_reducible assumption | (with_reducible intro _; try dsimp -zeta only) | with_reducible apply modRing_runs
    | with_reducible apply issueReads_runs
    | (with_reducible refine runs_foldl ?_ _ _ (fun v x hv => ?_); rotate_left; try dsimp -zeta only)
    | extract_lets +onlyGivenNames x | apply runs_mk

theorem execTableSwitch_runs {ks : Bool} {s₀ u₀ : State} (h₀ : Runs ks s₀ u₀) (ctx : Nat) (ring : Nat) :
    RunsOut ks s₀ (execTableSwitch ctx ring u₀) := by
  unfold execTableSwitch
  repeat' first
    | with_reducible assumption | (with_reducible intro _; try dsimp -zeta only) | with_reducible apply runsOut_finish
    | with_reducible apply completeHead_runs | with_reducible apply command_runs
    | with_reducible apply startCommand_runs | with_reducible apply writeLeaves_runs
    | with_reducible apply switchIn_runs | with_reducible apply newVersionId_runs
    | (refine runs_snd (by with_reducible assumption) ?_) | with_reducible apply switchRefused_runs
    | with_reducible apply askFresh_runs
    | (extract_lets +onlyGivenNames x; refine runsOut_cut (v := x) ?_ ?_; dsimp -zeta only [x]; clear x; rotate_left; intro _; clear_value x)
    | (extract_lets +onlyGivenNames x; refine runs_cut (v := x) ?_ ?_; dsimp -zeta only [x]; clear x; rotate_left; intro _; clear_value x)
    | extract_lets +onlyGivenNames x | split | apply runs_mk

theorem releaseVersion_runs {ks : Bool} {s₀ u₀ : State} (h₀ : Runs ks s₀ u₀) (ver : Nat) (x : Version) :
    Runs ks s₀ (releaseVersion u₀ ver x) := by
  unfold releaseVersion
  repeat' first
    | with_reducible assumption | (with_reducible intro _; try dsimp -zeta only) | with_reducible apply modVer_runs
    | with_reducible apply completeDesc_runs | extract_lets +onlyGivenNames x | split | apply runs_mk

theorem execVersionRetire_runs {ks : Bool} {s₀ u₀ : State} (h₀ : Runs ks s₀ u₀) (ver : Nat) :
    RunsOut ks s₀ (execVersionRetire ver u₀) := by
  unfold execVersionRetire
  repeat' first
    | with_reducible assumption | (with_reducible intro _; try dsimp -zeta only) | with_reducible apply runsOut_finish
    | with_reducible apply runsOut_ok | with_reducible apply event_runs | with_reducible apply modVer_runs
    | with_reducible apply modEntry_runs | with_reducible apply releaseVersion_runs
    | (with_reducible refine runs_foldl ?_ _ _ (fun v x hv => ?_); rotate_left; try dsimp -zeta only)
    | (extract_lets +onlyGivenNames x; refine runsOut_cut (v := x) ?_ ?_; dsimp -zeta only [x]; clear x; rotate_left; intro _; clear_value x)
    | (extract_lets +onlyGivenNames x; refine runs_cut (v := x) ?_ ?_; dsimp -zeta only [x]; clear x; rotate_left; intro _; clear_value x)
    | extract_lets +onlyGivenNames x | split | apply runs_mk

theorem startCommit_runs {ks : Bool} {s₀ u₀ : State} (h₀ : Runs ks s₀ u₀) (c : Nat) (r : Nat) (y : Ring) (raw : List Byte) (b : List Byte) (v : Nat) : Runs ks s₀ (startCommit u₀ c r y raw b v) := by
  unfold startCommit
  repeat' first
    | with_reducible assumption | (with_reducible intro _; try dsimp -zeta only) | with_reducible apply skipItem_runs
    | with_reducible apply completeHead_runs | with_reducible apply startCommand_runs
    | with_reducible apply newVersionId_runs | (refine runs_snd (by with_reducible assumption) ?_)
    | (with_reducible refine runs_foldl ?_ _ _ (fun v x hv => ?_); rotate_left; try dsimp -zeta only)
    | (extract_lets +onlyGivenNames x; refine runs_cut (v := x) ?_ ?_; dsimp -zeta only [x]; clear x; rotate_left; intro _; clear_value x)
    | extract_lets +onlyGivenNames x | split | apply runs_mk

theorem endCommit_runs {ks : Bool} {s₀ u₀ : State} (h₀ : Runs ks s₀ u₀) (job : Nat) (m : Commit) (status : Nat) (placed : Bool) :
    Runs ks s₀ (endCommit u₀ job m status placed) := by
  unfold endCommit
  exact completeDesc_runs (runs_ite (fun _ => runs_mk h₀) (fun _ => runs_mk h₀)) _ _ _ _ _

theorem placeSuccessor_runs {ks : Bool} {s₀ u₀ : State} (h₀ : Runs ks s₀ u₀) (job : Nat) (m : Commit) (v : Version) (t : TDesc) : Runs ks s₀ (placeSuccessor u₀ job m v t) := by
  unfold placeSuccessor
  repeat' first
    | with_reducible assumption | (with_reducible intro _; try dsimp -zeta only) | with_reducible apply event_runs
    | with_reducible apply bump_runs | with_reducible apply deckWrite_runs | with_reducible apply modDesc_runs
    | with_reducible apply modCommit_runs | with_reducible apply writeBlock_runs | with_reducible apply switchIn_runs
    | (extract_lets +onlyGivenNames x; refine runs_cut (v := x) ?_ ?_; dsimp -zeta only [x]; clear x; rotate_left; intro _; clear_value x)
    | extract_lets +onlyGivenNames x | split | apply runs_mk

theorem planGroup_runs {ks : Bool} {s₀ : State} {p : PlanAcc} (h : Runs ks s₀ p.s) (job : Nat) (m : Commit) (t : TDesc) (g : Nat)
    (e : DEntry) : Runs ks s₀ (planGroup job m t p g e).s := by
  unfold planGroup
  extract_lets s old due size up
  have h₀ : Runs ks s₀ s := h
  clear_value s up
  split
  · exact event_runs (bump_runs h₀ _ _) _ _
  · refine issueWrites_runs (modCommit_runs (bump_runs (bump_runs (bump_runs (runs_ite (fun _ => ?_) (fun _ => ?_)) _ _) _ _) _ _) _ _) _ _ _ _
    · exact countMalformed_runs (event_runs (bump_runs (deckWrite_runs h₀ _ _) _ _) _ _) _
    · exact runs_ite (fun _ => event_runs (bump_runs h₀ _ _) _ _) (fun _ => h₀)

theorem planFold_runs {ks : Bool} {s₀ : State} (job : Nat) (m : Commit) (t : TDesc) (qs : List (Nat × DEntry)) (p : PlanAcc)
    (h : Runs ks s₀ p.s) : Runs ks s₀ (qs.foldl (fun p q => planGroup job m t p q.1 q.2) p).s := by
  induction qs generalizing p with
  | nil => exact h
  | cons q qs ih => exact ih _ (planGroup_runs h _ _ _ _ _)

theorem commitGather_runs {ks : Bool} {s₀ u₀ : State} (h₀ : Runs ks s₀ u₀) (job : Nat) (m : Commit) (t : TDesc) :
    Runs ks s₀ (commitGather u₀ job m t) := by
  unfold commitGather
  refine runs_ite (fun _ => h₀) (fun _ => runs_ite (fun _ => endCommit_runs h₀ _ _ _ _) (fun _ => ?_))
  refine runs_ite (fun _ => ?_) (fun _ => runs_ite (fun _ => ?_) (fun _ => ?_))
  · exact runs_foldl (modCommit_runs h₀ _ _) _ _ (fun v x hv => startRebuild_runs hv _ _ _)
  · exact runs_foldl h₀ _ _ (fun v x hv => issueReads_runs (modCommit_runs hv _ _) _ _ _ _)
  · exact modCommit_runs (planFold_runs _ _ _ _ _ h₀) _ _

theorem commitStep_runs {ks : Bool} {s₀ u₀ : State} (h₀ : Runs ks s₀ u₀) (job : Nat) (m : Commit) (v : Version) :
    Runs ks s₀ (commitStep u₀ job m v) := by
  refine runs_ite (fun _ => commitGather_runs h₀ _ _ _) (fun _ => runs_ite (fun _ => ?_) (fun _ => ?_))
  · refine runs_ite (fun _ => runs_ite (fun _ => endCommit_runs (orphan_runs h₀ _) _ _ _ _) (fun _ => h₀)) (fun _ => ?_)
    exact runs_ite (fun _ => h₀) (fun _ => placeSuccessor_runs h₀ _ _ _ _)
  · exact runs_ite (fun _ => h₀) (fun _ => endCommit_runs h₀ _ _ _ _)

theorem execVersionCommit_runs {ks : Bool} {s₀ u₀ : State} (h₀ : Runs ks s₀ u₀) (ctx : Nat) (ring : Nat) :
    RunsOut ks s₀ (execVersionCommit ctx ring u₀) := by
  unfold execVersionCommit
  repeat' first
    | with_reducible assumption | (with_reducible intro _; try dsimp -zeta only) | with_reducible apply runsOut_finish
    | with_reducible apply runsOut_ok | with_reducible apply completeHead_runs | with_reducible apply command_runs
    | with_reducible apply startCommit_runs | with_reducible apply endCommit_runs
    | with_reducible apply commitStep_runs | extract_lets +onlyGivenNames x | split | apply runs_mk

/-! ### Submit -/

theorem execChainInstall_runs {ks : Bool} {s₀ u₀ : State} (h₀ : Runs ks s₀ u₀) (ctx : Nat) (ring : Nat) :
    RunsOut ks s₀ (execChainInstall ctx ring u₀) := by
  unfold execChainInstall
  repeat' first
    | with_reducible assumption | (with_reducible intro _; try dsimp -zeta only) | with_reducible apply runsOut_finish
    | with_reducible apply setCtx_runs | with_reducible apply completeHead_runs | with_reducible apply command_runs
    | (with_reducible refine runs_foldl ?_ _ _ (fun v x hv => ?_); rotate_left; try dsimp -zeta only)
    | (extract_lets +onlyGivenNames x; refine runsOut_cut (v := x) ?_ ?_; dsimp -zeta only [x]; clear x; rotate_left; intro _; clear_value x)
    | (extract_lets +onlyGivenNames x; refine runs_cut (v := x) ?_ ?_; dsimp -zeta only [x]; clear x; rotate_left; intro _; clear_value x)
    | extract_lets +onlyGivenNames x | split | apply runs_mk

theorem linkDep_runs {ks : Bool} {s₀ u₀ : State} (h₀ : Runs ks s₀ u₀) (c : Nat) (id : Nat) (i : Nat) (d : Nat × Nat × Bool) : Runs ks s₀ (linkDep c id i u₀ d) := by
  unfold linkDep
  repeat' first
    | with_reducible assumption | (with_reducible intro _; try dsimp -zeta only) | with_reducible apply modDesc_runs
    | with_reducible apply modItem_runs | extract_lets +onlyGivenNames x | split | apply runs_mk

theorem createItems_runs {ks : Bool} {s₀ u₀ : State} (h₀ : Runs ks s₀ u₀) (c : Nat) (r : Nat) (x : Ctx) (y : Ring) (raw : List Byte) (img : List Byte) (deps : List (Nat × Nat × Bool)) : Runs ks s₀ (createItems u₀ c r x y raw img deps) := by
  unfold createItems
  repeat' first
    | with_reducible assumption | (with_reducible intro _; try dsimp -zeta only) | with_reducible apply bump_runs
    | with_reducible apply consume_runs | with_reducible apply markTables_runs | with_reducible apply linkDep_runs
    | (with_reducible refine runs_foldl ?_ _ _ (fun v x hv => ?_); rotate_left; try dsimp -zeta only)
    | (extract_lets +onlyGivenNames x; refine runs_cut (v := x) ?_ ?_; dsimp -zeta only [x]; clear x; rotate_left; intro _; clear_value x)
    | extract_lets +onlyGivenNames x | split | apply runs_mk

theorem blockRing_runs {ks : Bool} {s₀ u₀ : State} (h₀ : Runs ks s₀ u₀) (c : Nat) (r : Nat) (x : Ctx) :
    Runs ks s₀ (blockRing u₀ c r x) := by
  unfold blockRing
  repeat' first
    | with_reducible assumption | (with_reducible intro _; try dsimp -zeta only) | with_reducible apply event_runs
    | with_reducible apply modRing_runs
    | (with_reducible refine runs_foldl ?_ _ _ (fun v x hv => ?_); rotate_left; try dsimp -zeta only)
    | (extract_lets +onlyGivenNames x; refine runs_cut (v := x) ?_ ?_; dsimp -zeta only [x]; clear x; rotate_left; intro _; clear_value x)
    | extract_lets +onlyGivenNames x | apply runs_mk

theorem overflow_runs {ks : Bool} {s₀ u₀ : State} (h₀ : Runs ks s₀ u₀) (c : Nat) (r : Nat) (n : Nat) (x : Ctx) (raw : List Byte) : Runs ks s₀ (overflow u₀ c r n x raw) := by
  unfold overflow
  repeat' first
    | with_reducible assumption | with_reducible apply event_runs | with_reducible apply completeHead_runs
    | with_reducible apply blockRing_runs
    | (extract_lets +onlyGivenNames x; refine runs_cut (v := x) ?_ ?_; dsimp -zeta only [x]; clear x; rotate_left; intro _; clear_value x)
    | extract_lets +onlyGivenNames x | split

theorem execSubmit_runs {ks : Bool} {s₀ u₀ : State} (h₀ : Runs ks s₀ u₀) (ctx : Nat) (ring : Nat) :
    RunsOut ks s₀ (execSubmit ctx ring u₀) := by
  unfold execSubmit
  repeat' first
    | with_reducible assumption | (with_reducible intro _; try dsimp -zeta only) | with_reducible apply runsOut_finish
    | with_reducible apply runsOut_ok | with_reducible apply modRing_runs | with_reducible apply completeHead_runs
    | with_reducible apply createItems_runs | with_reducible apply overflow_runs | extract_lets +onlyGivenNames x
    | split | apply runs_mk

theorem execBlockedRingAccept_runs {ks : Bool} {s₀ u₀ : State} (h₀ : Runs ks s₀ u₀) (ctx : Nat) (ring : Nat) :
    RunsOut ks s₀ (execBlockedRingAccept ctx ring u₀) := by
  unfold execBlockedRingAccept
  repeat' first
    | with_reducible assumption | with_reducible apply runsOut_finish | with_reducible apply runsOut_ok
    | with_reducible apply completeHead_runs | with_reducible apply createItems_runs | extract_lets +onlyGivenNames x
    | split | apply runs_mk

theorem execDependenceTimeout_runs {ks : Bool} {s₀ u₀ : State} (h₀ : Runs ks s₀ u₀) (ctx : Nat) (ring : Nat) :
    RunsOut ks s₀ (execDependenceTimeout ctx ring u₀) := by
  unfold execDependenceTimeout
  repeat' first
    | with_reducible assumption | with_reducible apply runsOut_finish | with_reducible apply runsOut_ok
    | with_reducible apply completeHead_runs | extract_lets +onlyGivenNames x | split | apply runs_mk

/-! ### Wire -/

theorem hostHeader_runs {ks : Bool} {s₀ u₀ : State} (h₀ : Runs ks s₀ u₀) (h : List Byte) :
    Runs ks s₀ (hostHeader u₀ h) := by
  unfold hostHeader
  repeat' first
    | with_reducible assumption | with_reducible apply kidBad_runs | with_reducible apply hostReadDone_runs
    | with_reducible apply hostWriteDone_runs | with_reducible apply hostAccess_runs | with_reducible apply snoop_runs
    | (extract_lets +onlyGivenNames x; refine runs_cut (v := x) ?_ ?_; dsimp -zeta only [x]; clear x; rotate_left; intro _; clear_value x)
    | extract_lets +onlyGivenNames x | split

theorem hostSlot_runs {ks : Bool} {s₀ u₀ : State} (h₀ : Runs ks s₀ u₀) (q : Nat × Nat × List Byte) :
    Runs ks s₀ (hostSlot u₀ q) := by
  unfold hostSlot
  repeat' first
    | with_reducible assumption | (with_reducible intro _; try dsimp -zeta only) | with_reducible apply kidBad_runs
    | with_reducible apply hostRead_runs
    | (extract_lets +onlyGivenNames x; refine runs_cut (v := x) ?_ ?_; dsimp -zeta only [x]; clear x; rotate_left; intro _; clear_value x)
    | extract_lets +onlyGivenNames x | split | apply runs_mk

theorem hostFrame_runs {ks : Bool} {s₀ u₀ : State} (h₀ : Runs ks s₀ u₀) (b : List Byte) :
    Runs ks s₀ (hostFrame u₀ b) := by
  unfold hostFrame
  repeat' first
    | with_reducible assumption | with_reducible apply kidBad_runs | with_reducible apply hostHeader_runs
    | with_reducible apply hostSlot_runs
    | (with_reducible refine runs_foldl ?_ _ _ (fun v x hv => ?_); rotate_left; try dsimp -zeta only)
    | (extract_lets +onlyGivenNames x; refine runs_cut (v := x) ?_ ?_; dsimp -zeta only [x]; clear x; rotate_left; intro _; clear_value x)
    | extract_lets +onlyGivenNames x | split | apply runs_mk

theorem mergeApply_runs {ks : Bool} {s₀ u₀ : State} (h₀ : Runs ks s₀ u₀) (h : SpanHdr) (data : List Byte) :
    Runs ks s₀ (mergeApply u₀ h data) := by
  unfold mergeApply
  repeat' first
    | with_reducible assumption | (with_reducible intro _; try dsimp -zeta only)
    | with_reducible apply answerPeer_runs | with_reducible apply mergeDropped_runs
    | with_reducible apply mergeArrive_runs
    | (with_reducible refine runs_foldl ?_ _ _ (fun v x hv => ?_); rotate_left; try dsimp -zeta only)
    | (extract_lets +onlyGivenNames x; refine runs_cut (v := x) ?_ ?_; dsimp -zeta only [x]; clear x; rotate_left; intro _; clear_value x)
    | extract_lets +onlyGivenNames x | split | apply runs_mk

theorem execMergeRequest_runs {ks : Bool} {s₀ u₀ : State} (h₀ : Runs ks s₀ u₀) (port : Fin 8) (hdr : SpanHdr) (data : List Byte) : RunsOut ks s₀ (execMergeRequest port hdr data u₀) := by
  unfold execMergeRequest
  repeat' first
    | with_reducible assumption | (with_reducible intro _; try dsimp -zeta only) | with_reducible apply runsOut_finish
    | with_reducible apply requestIn_runs | with_reducible apply mergeApply_runs

theorem spanTake_runs {ks : Bool} {s₀ u₀ : State} (h₀ : Runs ks s₀ u₀) (p : Nat) (h : SpanHdr) (data : List Byte) :
    Runs ks s₀ (spanTake u₀ p h data) := by
  unfold spanTake
  repeat' first
    | with_reducible assumption | (with_reducible intro _; try dsimp -zeta only) | with_reducible apply spanBad_runs
    | with_reducible apply requestIn_runs | with_reducible apply putApply_runs | with_reducible apply getApply_runs
    | with_reducible apply atomicApply_runs | with_reducible apply responseIn_runs
    | with_reducible apply mergeApply_runs | split

theorem spanHeader_runs {ks : Bool} {s₀ u₀ : State} (h₀ : Runs ks s₀ u₀) (p : Nat) (b : List Byte) :
    Runs ks s₀ (spanHeader p u₀ b) := by
  unfold spanHeader
  repeat' first
    | with_reducible assumption | with_reducible apply setSpanLink_runs | with_reducible apply spanBad_runs
    | (extract_lets +onlyGivenNames x; refine runs_cut (v := x) ?_ ?_; dsimp -zeta only [x]; clear x; rotate_left; intro _; clear_value x)
    | extract_lets +onlyGivenNames x | split | apply runs_mk

theorem spanSlot_runs {ks : Bool} {s₀ u₀ : State} (h₀ : Runs ks s₀ u₀) (p : Nat) (q : Nat × Nat × List Byte) :
    Runs ks s₀ (spanSlot p u₀ q) := by
  unfold spanSlot
  repeat' first
    | with_reducible assumption | with_reducible apply setSpanLink_runs | with_reducible apply spanBad_runs
    | (extract_lets +onlyGivenNames x; refine runs_cut (v := x) ?_ ?_; dsimp -zeta only [x]; clear x; rotate_left; intro _; clear_value x)
    | extract_lets +onlyGivenNames x | split | apply runs_mk

theorem staleDrain_runs {ks : Bool} {s₀ u₀ : State} (h₀ : Runs ks s₀ u₀) (p : Nat) : Runs ks s₀ (staleDrain p u₀) := by
  unfold staleDrain
  repeat' first
    | with_reducible assumption | (with_reducible intro _; try dsimp -zeta only) | with_reducible apply bump_runs
    | with_reducible apply setSpanLink_runs
    | (with_reducible refine runs_foldl ?_ _ _ (fun v x hv => ?_); rotate_left; try dsimp -zeta only)
    | (extract_lets +onlyGivenNames x; refine runs_cut (v := x) ?_ ?_; dsimp -zeta only [x]; clear x; rotate_left; intro _; clear_value x)
    | extract_lets +onlyGivenNames x | split | apply runs_mk

theorem spanDrain_runs {ks : Bool} {s₀ u₀ : State} (p n : Nat) (h₀ : Runs ks s₀ u₀) : Runs ks s₀ (spanDrain p n u₀) := by
  induction n generalizing u₀ with
  | zero => exact h₀
  | succ n ih =>
    unfold spanDrain
    extract_lets l
    split
    · exact h₀
    · split
      · exact h₀
      · exact ih (spanTake_runs (setSpanLink_runs h₀ _ _) _ _ _)

theorem spanFrame_runs {ks : Bool} {s₀ u₀ : State} (h₀ : Runs ks s₀ u₀) (p : Nat) (b : List Byte) :
    Runs ks s₀ (spanFrame u₀ p b) := by
  unfold spanFrame
  repeat' first
    | with_reducible apply spanDrain_runs | with_reducible assumption | with_reducible apply setSpanLink_runs
    | with_reducible apply spanBad_runs | with_reducible apply spanHeader_runs | with_reducible apply spanSlot_runs
    | with_reducible apply staleDrain_runs
    | (with_reducible refine runs_foldl ?_ _ _ (fun v x hv => ?_); rotate_left; try dsimp -zeta only)
    | (extract_lets +onlyGivenNames x; refine runs_cut (v := x) ?_ ?_; dsimp -zeta only [x]; clear x; rotate_left; intro _; clear_value x)
    | extract_lets +onlyGivenNames x | split

theorem frameIn_runs {ks : Bool} {s₀ u₀ : State} (h₀ : Runs ks s₀ u₀) (p : Nat) (f : Frame) :
    Runs ks s₀ (frameIn u₀ p f) := by
  unfold frameIn
  repeat' first
    | with_reducible assumption | with_reducible apply napDrained_runs | with_reducible apply receiveFrame_runs
    | (refine runs_fst (by with_reducible assumption) ?_) | with_reducible apply resendFrames_runs
    | with_reducible apply napAcked_runs | with_reducible apply hostFrame_runs | with_reducible apply spanFrame_runs
    | (extract_lets +onlyGivenNames x; refine runs_cut (v := x) ?_ ?_; dsimp -zeta only [x]; clear x; rotate_left; intro _; clear_value x)
    | extract_lets +onlyGivenNames x | split

theorem execNormal_runs {ks : Bool} {s₀ u₀ : State} (h₀ : Runs ks s₀ u₀) (port : Fin 9) (frame : Frame) :
    RunsOut ks s₀ (execNormal port frame u₀) := by
  unfold execNormal
  repeat' first
    | with_reducible assumption | with_reducible apply runsOut_finish | with_reducible apply runsOut_ok
    | with_reducible apply frameIn_runs
    | (extract_lets +onlyGivenNames x; refine runsOut_cut (v := x) ?_ ?_; dsimp -zeta only [x]; clear x; rotate_left; intro _; clear_value x)
    | (extract_lets +onlyGivenNames x; refine runs_cut (v := x) ?_ ?_; dsimp -zeta only [x]; clear x; rotate_left; intro _; clear_value x)
    | extract_lets +onlyGivenNames x | split

theorem execReplayRequest_runs {ks : Bool} {s₀ u₀ : State} (h₀ : Runs ks s₀ u₀) (port : Fin 9) (frame : Frame) :
    RunsOut ks s₀ (execReplayRequest port frame u₀) := by
  unfold execReplayRequest
  repeat' first
    | with_reducible assumption | with_reducible apply runsOut_finish | with_reducible apply runsOut_ok
    | with_reducible apply frameIn_runs | split

theorem execNapAck_runs {ks : Bool} {s₀ u₀ : State} (h₀ : Runs ks s₀ u₀) (frame : Frame) :
    RunsOut ks s₀ (execNapAck frame u₀) := by
  unfold execNapAck
  repeat' first
    | with_reducible assumption | with_reducible apply runsOut_finish | with_reducible apply runsOut_ok
    | with_reducible apply frameIn_runs | split

end Sys2Proof.Machine
end

