-- ==== Sys2Proof/Laws/Cold.lean ====
section
/-!
SUPPORT. What a cold reset keeps, and what the commands that may start one keep.
-/

namespace Sys2Proof.Machine

open Sys2Proof

/-- A next state of a command keeps what every command keeps. -/
def KeepsOut (s : State) (o : Host.Outcome State Fault Refusal) : Prop := ∀ t, o = .next t → Keeps s t

theorem keepsOut_ok {s u : State} (h : Keeps s u) : KeepsOut s (ok u) := by
  rintro t ht
  cases ht
  exact h

theorem keepsOut_of_runsOut {s : State} {k : Bool} {o : Host.Outcome State Fault Refusal}
    (h : RunsOut k s o) : KeepsOut s o :=
  fun t ht => (h t ht).keeps

theorem coldState_keeps {s u : State} (h : Keeps s u) : Keeps s (coldState u) :=
  ⟨fun _ => rfl, h.pending, h.fuses, h.free⟩

theorem setPads_keeps {s u : State} (h : Keeps s u) (p : Pads) : Keeps s { u with pads := p } :=
  ⟨h.mem, h.pending, h.fuses, h.free⟩

theorem loadJtag_keeps {s u : State} (h : Keeps s u) (ir : Nat) : Keeps s (loadJtag u ir) := by
  unfold loadJtag
  dsimp only
  split
  · exact coldState_keeps (setPads_keeps h _)
  · exact setPads_keeps h _

theorem execColdReset_keeps {s u : State} (h : Keeps s u) : KeepsOut s (execColdReset u) := keepsOut_ok (coldState_keeps h)

theorem execResetNLow_keeps {s u : State} (h : Keeps s u) (b : Bool) (n : Nat) : KeepsOut s (execResetNLow b n u) := by
  unfold execResetNLow
  split
  · exact keepsOut_ok h
  · exact keepsOut_ok (setPads_keeps (coldState_keeps h) _)

theorem execBypass_keeps {s u : State} (h : Keeps s u) (c t : Nat) : KeepsOut s (execBypass c t u) :=
  keepsOut_ok (setPads_keeps (loadJtag_keeps h _) _)

theorem execIdcode_keeps {s u : State} (h : Keeps s u) : KeepsOut s (execIdcode u) :=
  keepsOut_ok (setPads_keeps (loadJtag_keeps h _) _)

theorem execSamplePreload_keeps {s u : State} (h : Keeps s u) (cells : List Bool) :
    KeepsOut s (execSamplePreload cells u) := by
  have h1 := loadJtag_keeps h 1
  exact keepsOut_ok ⟨h1.mem, h1.pending, h1.fuses, Nat.le_succ_of_le h1.free⟩

theorem execExtest_keeps {s u : State} (h : Keeps s u) : KeepsOut s (execExtest u) := keepsOut_ok (loadJtag_keeps h _)

theorem execClamp_keeps {s u : State} (h : Keeps s u) : KeepsOut s (execClamp u) := keepsOut_ok (loadJtag_keeps h _)

theorem execHighz_keeps {s u : State} (h : Keeps s u) : KeepsOut s (execHighz u) := keepsOut_ok (loadJtag_keeps h _)

theorem execFlashWrite_keeps {s u : State} (h : Runs false s u) : KeepsOut s (execFlashWrite u) := by
  unfold execFlashWrite
  split
  · exact keepsOut_ok h.keeps
  · generalize hq : mbxRead u (15 * 2 ^ 20) = q
    cases q with
    | outside => exact keepsOut_ok (mbxEnd_runs h _ _).keeps
    | ask t => exact keepsOut_of_runsOut (runsOut_finish (mbxRead_runs hq h))
    | waits => exact keepsOut_ok h.keeps
    | failed => exact keepsOut_ok (mbxEnd_runs h _ _).keeps
    | got bs =>
      dsimp only
      have h1 := mbxEnd_runs (u₀ := { u with boot := { u.boot with flash := memPut Config.flashByte u.boot.flash 0 bs } })
        (runs_mk h) 0 0
      split
      · exact keepsOut_ok (coldState_keeps h1.keeps)
      · exact keepsOut_ok h1.keeps

end Sys2Proof.Machine
end

