-- ==== Sys2Proof/Laws/Dispatch.lean ====
section
/-!
SUPPORT. The meaning that `exec` gives each command, one equation per constructor; no proof need unfold `exec`.
-/

namespace Sys2Proof.Machine

open Sys2Proof

@[simp] theorem exec_keystoneTick {s : State} : exec .keystoneTick s = execKeystoneTick s := rfl
@[simp] theorem exec_correctionTick {s : State} : exec .correctionTick s = execCorrectionTick s := rfl
@[simp] theorem exec_timingFrameSend {s : State} {port} {frac} :
    exec (.timingFrameSend port frac) s = execTimingFrameSend port frac s := rfl
@[simp] theorem exec_timingRecord {s : State} {port} {record} {frac} {replayed} :
    exec (.timingRecord port record frac replayed) s = execTimingRecord port record frac replayed s := rfl
@[simp] theorem exec_lockLost {s : State} : exec .lockLost s = execLockLost s := rfl
@[simp] theorem exec_parentTimeout {s : State} : exec .parentTimeout s = execParentTimeout s := rfl
@[simp] theorem exec_rootTimeout {s : State} : exec .rootTimeout s = execRootTimeout s := rfl
@[simp] theorem exec_launchGateOpen {s : State} {item} :
    exec (.launchGateOpen item) s = execLaunchGateOpen item s := rfl
@[simp] theorem exec_slotTableSwitch {s : State} : exec .slotTableSwitch s = execSlotTableSwitch s := rfl
@[simp] theorem exec_lightMessage {s : State} {src} : exec (.lightMessage src) s = execLightMessage src s := rfl
@[simp] theorem exec_relaySend {s : State} {pier} {off} {len} :
    exec (.relaySend pier off len) s = execRelaySend pier off len s := rfl
@[simp] theorem exec_deckReadData {s : State} {pier} {entry} {block} {errBytes} :
    exec (.deckReadData pier entry block errBytes) s = execDeckReadData pier entry block errBytes s := rfl
@[simp] theorem exec_dispatch {s : State} {pier} : exec (.dispatch pier) s = execDispatch pier s := rfl
@[simp] theorem exec_itemCommit {s : State} {item} : exec (.itemCommit item) s = execItemCommit item s := rfl
@[simp] theorem exec_release {s : State} {flow} : exec (.release flow) s = execRelease flow s := rfl
@[simp] theorem exec_itemBudgetSkip {s : State} {item} :
    exec (.itemBudgetSkip item) s = execItemBudgetSkip item s := rfl
@[simp] theorem exec_recordBudgetQuarantine {s : State} {item} :
    exec (.recordBudgetQuarantine item) s = execRecordBudgetQuarantine item s := rfl
@[simp] theorem exec_outsideTimeout {s : State} {item} :
    exec (.outsideTimeout item) s = execOutsideTimeout item s := rfl
@[simp] theorem exec_sliceBoundary {s : State} {ctx} : exec (.sliceBoundary ctx) s = execSliceBoundary ctx s := rfl
@[simp] theorem exec_swapIn {s : State} : exec .swapIn s = execSwapIn s := rfl
@[simp] theorem exec_blockedRingAccept {s : State} {ctx} {ring} :
    exec (.blockedRingAccept ctx ring) s = execBlockedRingAccept ctx ring s := rfl
@[simp] theorem exec_cellWaitRelease {s : State} {item} :
    exec (.cellWaitRelease item) s = execCellWaitRelease item s := rfl
@[simp] theorem exec_decodeAvro {s : State} {item} : exec (.decodeAvro item) s = execDecodeAvro item s := rfl
@[simp] theorem exec_decodeIrc {s : State} {item} : exec (.decodeIrc item) s = execDecodeIrc item s := rfl
@[simp] theorem exec_project {s : State} {item} : exec (.project item) s = execProject item s := rfl
@[simp] theorem exec_filter {s : State} {item} : exec (.filter item) s = execFilter item s := rfl
@[simp] theorem exec_hash {s : State} {item} : exec (.hash item) s = execHash item s := rfl
@[simp] theorem exec_bucket {s : State} {item} : exec (.bucket item) s = execBucket item s := rfl
@[simp] theorem exec_cross {s : State} {item} : exec (.cross item) s = execCross item s := rfl
@[simp] theorem exec_norm {s : State} {item} : exec (.norm item) s = execNorm item s := rfl
@[simp] theorem exec_clip {s : State} {item} : exec (.clip item) s = execClip item s := rfl
@[simp] theorem exec_partition {s : State} {item} : exec (.partition item) s = execPartition item s := rfl
@[simp] theorem exec_joinBuild {s : State} {item} : exec (.joinBuild item) s = execJoinBuild item s := rfl
@[simp] theorem exec_joinProbe {s : State} {item} : exec (.joinProbe item) s = execJoinProbe item s := rfl
@[simp] theorem exec_groupAgg {s : State} {item} : exec (.groupAgg item) s = execGroupAgg item s := rfl
@[simp] theorem exec_sort {s : State} {item} : exec (.sort item) s = execSort item s := rfl
@[simp] theorem exec_unique {s : State} {item} : exec (.unique item) s = execUnique item s := rfl
@[simp] theorem exec_topk {s : State} {item} : exec (.topk item) s = execTopk item s := rfl
@[simp] theorem exec_selMerge {s : State} {item} : exec (.selMerge item) s = execSelMerge item s := rfl
@[simp] theorem exec_countMatch {s : State} {item} : exec (.countMatch item) s = execCountMatch item s := rfl
@[simp] theorem exec_parapetUpdate {s : State} {item} : exec (.parapetUpdate item) s = execParapetUpdate item s := rfl
@[simp] theorem exec_parapetApply {s : State} {item} : exec (.parapetApply item) s = execParapetApply item s := rfl
@[simp] theorem exec_gather {s : State} {item} : exec (.gather item) s = execGather item s := rfl
@[simp] theorem exec_gatherPool {s : State} {item} : exec (.gatherPool item) s = execGatherPool item s := rfl
@[simp] theorem exec_scatterMerge {s : State} {item} : exec (.scatterMerge item) s = execScatterMerge item s := rfl
@[simp] theorem exec_rowApply {s : State} {item} : exec (.rowApply item) s = execRowApply item s := rfl
@[simp] theorem exec_convert {s : State} {item} : exec (.convert item) s = execConvert item s := rfl
@[simp] theorem exec_quant {s : State} {item} : exec (.quant item) s = execQuant item s := rfl
@[simp] theorem exec_copyLayout {s : State} {item} : exec (.copyLayout item) s = execCopyLayout item s := rfl
@[simp] theorem exec_storeFused {s : State} {item} : exec (.storeFused item) s = execStoreFused item s := rfl
@[simp] theorem exec_compress {s : State} {item} : exec (.compress item) s = execCompress item s := rfl
@[simp] theorem exec_decompress {s : State} {item} : exec (.decompress item) s = execDecompress item s := rfl
@[simp] theorem exec_digest {s : State} {item} : exec (.digest item) s = execDigest item s := rfl
@[simp] theorem exec_put {s : State} {item} : exec (.put item) s = execPut item s := rfl
@[simp] theorem exec_get {s : State} {item} : exec (.get item) s = execGet item s := rfl
@[simp] theorem exec_atomic {s : State} {item} : exec (.atomic item) s = execAtomic item s := rfl
@[simp] theorem exec_signal {s : State} {item} : exec (.signal item) s = execSignal item s := rfl
@[simp] theorem exec_wait {s : State} {item} : exec (.wait item) s = execWait item s := rfl
@[simp] theorem exec_migrate {s : State} {ctx} {ring} : exec (.migrate ctx ring) s = execMigrate ctx ring s := rfl
@[simp] theorem exec_migrationDrainDone {s : State} {mig} :
    exec (.migrationDrainDone mig) s = execMigrationDrainDone mig s := rfl
@[simp] theorem exec_migrationFlip {s : State} {mig} : exec (.migrationFlip mig) s = execMigrationFlip mig s := rfl
@[simp] theorem exec_migrationFree {s : State} {mig} : exec (.migrationFree mig) s = execMigrationFree mig s := rfl
@[simp] theorem exec_migrationAbandon {s : State} {mig} :
    exec (.migrationAbandon mig) s = execMigrationAbandon mig s := rfl
@[simp] theorem exec_tableSwitch {s : State} {ctx} {ring} :
    exec (.tableSwitch ctx ring) s = execTableSwitch ctx ring s := rfl
@[simp] theorem exec_versionRetire {s : State} {ver} : exec (.versionRetire ver) s = execVersionRetire ver s := rfl
@[simp] theorem exec_mergeRecord {s : State} {ctx} {queue} {rec} :
    exec (.mergeRecord ctx queue rec) s = execMergeRecord ctx queue rec s := rfl
@[simp] theorem exec_stepFinalise {s : State} {ctx} {queue} :
    exec (.stepFinalise ctx queue) s = execStepFinalise ctx queue s := rfl
@[simp] theorem exec_journalFrameAck {s : State} {ctx} {frame} :
    exec (.journalFrameAck ctx frame) s = execJournalFrameAck ctx frame s := rfl
@[simp] theorem exec_journalSpaceFreed {s : State} {ctx} :
    exec (.journalSpaceFreed ctx) s = execJournalSpaceFreed ctx s := rfl
@[simp] theorem exec_applySlotCopy {s : State} {item} : exec (.applySlotCopy item) s = execApplySlotCopy item s := rfl
@[simp] theorem exec_versionCommit {s : State} {ctx} {ring} :
    exec (.versionCommit ctx ring) s = execVersionCommit ctx ring s := rfl
@[simp] theorem exec_backingWriteRetry {s : State} {acc} :
    exec (.backingWriteRetry acc) s = execBackingWriteRetry acc s := rfl
@[simp] theorem exec_chainInstall {s : State} {ctx} {ring} :
    exec (.chainInstall ctx ring) s = execChainInstall ctx ring s := rfl
@[simp] theorem exec_chainRemove {s : State} {ctx} {ring} :
    exec (.chainRemove ctx ring) s = execChainRemove ctx ring s := rfl
@[simp] theorem exec_flowOpen {s : State} {ctx} {ring} : exec (.flowOpen ctx ring) s = execFlowOpen ctx ring s := rfl
@[simp] theorem exec_flowClose {s : State} {ctx} {ring} : exec (.flowClose ctx ring) s = execFlowClose ctx ring s := rfl
@[simp] theorem exec_rangeAdd {s : State} {ctx} {ring} : exec (.rangeAdd ctx ring) s = execRangeAdd ctx ring s := rfl
@[simp] theorem exec_rangeRemove {s : State} {ctx} {ring} :
    exec (.rangeRemove ctx ring) s = execRangeRemove ctx ring s := rfl
@[simp] theorem exec_tensorCreate {s : State} {ctx} {ring} :
    exec (.tensorCreate ctx ring) s = execTensorCreate ctx ring s := rfl
@[simp] theorem exec_tensorDestroy {s : State} {ctx} {ring} :
    exec (.tensorDestroy ctx ring) s = execTensorDestroy ctx ring s := rfl
@[simp] theorem exec_streamArm {s : State} {ctx} {ring} : exec (.streamArm ctx ring) s = execStreamArm ctx ring s := rfl
@[simp] theorem exec_streamResume {s : State} {ctx} {ring} :
    exec (.streamResume ctx ring) s = execStreamResume ctx ring s := rfl
@[simp] theorem exec_streamCancel {s : State} {ctx} {ring} :
    exec (.streamCancel ctx ring) s = execStreamCancel ctx ring s := rfl
@[simp] theorem exec_streamBlockDispatch {s : State} {ctx} {slot} {pier} :
    exec (.streamBlockDispatch ctx slot pier) s = execStreamBlockDispatch ctx slot pier s := rfl
@[simp] theorem exec_streamBlockDelivered {s : State} {ctx} {slot} :
    exec (.streamBlockDelivered ctx slot) s = execStreamBlockDelivered ctx slot s := rfl
@[simp] theorem exec_pageFault {s : State} {target} : exec (.pageFault target) s = execPageFault target s := rfl
@[simp] theorem exec_cacheInvalidate {s : State} {ctx} {ring} :
    exec (.cacheInvalidate ctx ring) s = execCacheInvalidate ctx ring s := rfl
@[simp] theorem exec_mergeQueueCreate {s : State} {ctx} {ring} :
    exec (.mergeQueueCreate ctx ring) s = execMergeQueueCreate ctx ring s := rfl
@[simp] theorem exec_mergeQueueDestroy {s : State} {ctx} {ring} :
    exec (.mergeQueueDestroy ctx ring) s = execMergeQueueDestroy ctx ring s := rfl
@[simp] theorem exec_mergeQueueSet {s : State} {ctx} {ring} :
    exec (.mergeQueueSet ctx ring) s = execMergeQueueSet ctx ring s := rfl
@[simp] theorem exec_parapetSetCreate {s : State} {ctx} {ring} :
    exec (.parapetSetCreate ctx ring) s = execParapetSetCreate ctx ring s := rfl
@[simp] theorem exec_parapetSetDestroy {s : State} {ctx} {ring} :
    exec (.parapetSetDestroy ctx ring) s = execParapetSetDestroy ctx ring s := rfl
@[simp] theorem exec_submit {s : State} {ctx} {ring} : exec (.submit ctx ring) s = execSubmit ctx ring s := rfl
@[simp] theorem exec_descriptorFetch {s : State} {ctx} {ring} :
    exec (.descriptorFetch ctx ring) s = execDescriptorFetch ctx ring s := rfl
@[simp] theorem exec_dependenceTimeout {s : State} {ctx} {ring} :
    exec (.dependenceTimeout ctx ring) s = execDependenceTimeout ctx ring s := rfl
@[simp] theorem exec_completionWrite {s : State} {ctx} {ring} :
    exec (.completionWrite ctx ring) s = execCompletionWrite ctx ring s := rfl
@[simp] theorem exec_statusWordWrite {s : State} {ctx} {ring} :
    exec (.statusWordWrite ctx ring) s = execStatusWordWrite ctx ring s := rfl
@[simp] theorem exec_msgWake {s : State} {ctx} {ring} : exec (.msgWake ctx ring) s = execMsgWake ctx ring s := rfl
@[simp] theorem exec_hostReadRetry {s : State} {acc} : exec (.hostReadRetry acc) s = execHostReadRetry acc s := rfl
@[simp] theorem exec_hostWriteRetry {s : State} {acc} : exec (.hostWriteRetry acc) s = execHostWriteRetry acc s := rfl
@[simp] theorem exec_submissionTail {s : State} {ctx} {ring} {value} :
    exec (.submissionTail ctx ring value) s = execSubmissionTail ctx ring value s := rfl
@[simp] theorem exec_completionHead {s : State} {ctx} {ring} {value} :
    exec (.completionHead ctx ring value) s = execCompletionHead ctx ring value s := rfl
@[simp] theorem exec_quarantineLogHead {s : State} {ctx} {value} :
    exec (.quarantineLogHead ctx value) s = execQuarantineLogHead ctx value s := rfl
@[simp] theorem exec_haltLogHead {s : State} {ctx} {value} :
    exec (.haltLogHead ctx value) s = execHaltLogHead ctx value s := rfl
@[simp] theorem exec_eventTraceHead {s : State} {ctx} {value} :
    exec (.eventTraceHead ctx value) s = execEventTraceHead ctx value s := rfl
@[simp] theorem exec_create {s : State} : exec .create s = execCreate s := rfl
@[simp] theorem exec_destroy {s : State} : exec .destroy s = execDestroy s := rfl
@[simp] theorem exec_pause {s : State} : exec .pause s = execPause s := rfl
@[simp] theorem exec_resume {s : State} : exec .resume s = execResume s := rfl
@[simp] theorem exec_ts1 {s : State} {port} {lane} {set} : exec (.ts1 port lane set) s = execTs1 port lane set s := rfl
@[simp] theorem exec_ts2 {s : State} {port} {lane} {set} : exec (.ts2 port lane set) s = execTs2 port lane set s := rfl
@[simp] theorem exec_trainingStateExit {s : State} {port} {lanes} :
    exec (.trainingStateExit port lanes) s = execTrainingStateExit port lanes s := rfl
@[simp] theorem exec_trainingStateTimeout {s : State} {port} :
    exec (.trainingStateTimeout port) s = execTrainingStateTimeout port s := rfl
@[simp] theorem exec_linkDownRetry {s : State} {port} : exec (.linkDownRetry port) s = execLinkDownRetry port s := rfl
@[simp] theorem exec_normal {s : State} {port} {frame} : exec (.normal port frame) s = execNormal port frame s := rfl
@[simp] theorem exec_replayRequest {s : State} {port} {frame} :
    exec (.replayRequest port frame) s = execReplayRequest port frame s := rfl
@[simp] theorem exec_retrain {s : State} {port} : exec (.retrain port) s = execRetrain port s := rfl
@[simp] theorem exec_napRequest {s : State} : exec .napRequest s = execNapRequest s := rfl
@[simp] theorem exec_napAck {s : State} {frame} : exec (.napAck frame) s = execNapAck frame s := rfl
@[simp] theorem exec_napAckTimeout {s : State} : exec .napAckTimeout s = execNapAckTimeout s := rfl
@[simp] theorem exec_regRead {s : State} {off} {len} {tag} :
    exec (.regRead off len tag) s = execRegRead off len tag s := rfl
@[simp] theorem exec_regWrite {s : State} {off} {len} {data} :
    exec (.regWrite off len data) s = execRegWrite off len data s := rfl
@[simp] theorem exec_doorbell {s : State} {off} {data} : exec (.doorbell off data) s = execDoorbell off data s := rfl
@[simp] theorem exec_snpInv {s : State} {addr} {tag} : exec (.snpInv addr tag) s = execSnpInv addr tag s := rfl
@[simp] theorem exec_readData {s : State} {tag} {data} : exec (.readData tag data) s = execReadData tag data s := rfl
@[simp] theorem exec_readDone {s : State} {tag} {status} :
    exec (.readDone tag status) s = execReadDone tag status s := rfl
@[simp] theorem exec_writeDone {s : State} {tag} {status} :
    exec (.writeDone tag status) s = execWriteDone tag status s := rfl
@[simp] theorem exec_putRequest {s : State} {port} {hdr} {data} :
    exec (.putRequest port hdr data) s = execPutRequest port hdr data s := rfl
@[simp] theorem exec_getRequest {s : State} {port} {hdr} :
    exec (.getRequest port hdr) s = execGetRequest port hdr s := rfl
@[simp] theorem exec_atomicRequest {s : State} {port} {hdr} {data} :
    exec (.atomicRequest port hdr data) s = execAtomicRequest port hdr data s := rfl
@[simp] theorem exec_mergeRequest {s : State} {port} {hdr} {data} :
    exec (.mergeRequest port hdr data) s = execMergeRequest port hdr data s := rfl
@[simp] theorem exec_putDone {s : State} {port} {hdr} : exec (.putDone port hdr) s = execPutDone port hdr s := rfl
@[simp] theorem exec_getData {s : State} {port} {hdr} {data} :
    exec (.getData port hdr data) s = execGetData port hdr data s := rfl
@[simp] theorem exec_atomicDone {s : State} {port} {hdr} {data} :
    exec (.atomicDone port hdr data) s = execAtomicDone port hdr data s := rfl
@[simp] theorem exec_mergeDone {s : State} {port} {hdr} : exec (.mergeDone port hdr) s = execMergeDone port hdr s := rfl
@[simp] theorem exec_spanResend {s : State} {dst} {channel} :
    exec (.spanResend dst channel) s = execSpanResend dst channel s := rfl
@[simp] theorem exec_spanPortDown {s : State} {port} : exec (.spanPortDown port) s = execSpanPortDown port s := rfl
@[simp] theorem exec_refresh {s : State} {channel} : exec (.refresh channel) s = execRefresh channel s := rfl
@[simp] theorem exec_patrolScrub {s : State} {channel} {errBytes} :
    exec (.patrolScrub channel errBytes) s = execPatrolScrub channel errBytes s := rfl
@[simp] theorem exec_channelLost {s : State} {channel} {cause} :
    exec (.channelLost channel cause) s = execChannelLost channel cause s := rfl
@[simp] theorem exec_stackLost {s : State} {stack} {cause} :
    exec (.stackLost stack cause) s = execStackLost stack cause s := rfl
@[simp] theorem exec_displacedFill {s : State} {channel} :
    exec (.displacedFill channel) s = execDisplacedFill channel s := rfl
@[simp] theorem exec_plainWithdraw {s : State} : exec .plainWithdraw s = execPlainWithdraw s := rfl
@[simp] theorem exec_auditRead {s : State} : exec .auditRead s = execAuditRead s := rfl
@[simp] theorem exec_nvmeCompletion {s : State} {port} {ctrl} {queue} {entry} :
    exec (.nvmeCompletion port ctrl queue entry) s = execNvmeCompletion port ctrl queue entry s := rfl
@[simp] theorem exec_nvmeInboundRequest {s : State} {port} {ctrl} {write} {addr} {len} {data} :
    exec (.nvmeInboundRequest port ctrl write addr len data) s = execNvmeInboundRequest port ctrl write addr len data s := rfl
@[simp] theorem exec_nvmeCommandTimeout {s : State} {acc} :
    exec (.nvmeCommandTimeout acc) s = execNvmeCommandTimeout acc s := rfl
@[simp] theorem exec_nvmeControllerReset {s : State} {port} {ctrl} :
    exec (.nvmeControllerReset port ctrl) s = execNvmeControllerReset port ctrl s := rfl
@[simp] theorem exec_nvmeLost {s : State} {port} {ctrl} : exec (.nvmeLost port ctrl) s = execNvmeLost port ctrl s := rfl
@[simp] theorem exec_parityFailure {s : State} {pier} : exec (.parityFailure pier) s = execParityFailure pier s := rfl
@[simp] theorem exec_pierLost {s : State} {pier} {cause} :
    exec (.pierLost pier cause) s = execPierLost pier cause s := rfl
@[simp] theorem exec_hubParityFailure {s : State} {unit} :
    exec (.hubParityFailure unit) s = execHubParityFailure unit s := rfl
@[simp] theorem exec_configFix {s : State} {off} : exec (.configFix off) s = execConfigFix off s := rfl
@[simp] theorem exec_parapetBankParity {s : State} {parapet} {bank} :
    exec (.parapetBankParity parapet bank) s = execParapetBankParity parapet bank s := rfl
@[simp] theorem exec_unitOut {s : State} {unit} : exec (.unitOut unit) s = execUnitOut unit s := rfl
@[simp] theorem exec_rebuildStart {s : State} {ver} {group} :
    exec (.rebuildStart ver group) s = execRebuildStart ver group s := rfl
@[simp] theorem exec_rebuildDone {s : State} {rebuild} :
    exec (.rebuildDone rebuild) s = execRebuildDone rebuild s := rfl
@[simp] theorem exec_groupLost {s : State} {rebuild} : exec (.groupLost rebuild) s = execGroupLost rebuild s := rfl
@[simp] theorem exec_outsideAccessRetry {s : State} {acc} :
    exec (.outsideAccessRetry acc) s = execOutsideAccessRetry acc s := rfl
@[simp] theorem exec_outOfService {s : State} : exec .outOfService s = execOutOfService s := rfl
@[simp] theorem exec_setAliasWrite {s : State} {off} {data} :
    exec (.setAliasWrite off data) s = execSetAliasWrite off data s := rfl
@[simp] theorem exec_clearAliasWrite {s : State} {off} {data} :
    exec (.clearAliasWrite off data) s = execClearAliasWrite off data s := rfl
@[simp] theorem exec_toggleAliasWrite {s : State} {off} {data} :
    exec (.toggleAliasWrite off data) s = execToggleAliasWrite off data s := rfl
@[simp] theorem exec_sqWrite {s : State} {off} {data} : exec (.sqWrite off data) s = execSqWrite off data s := rfl
@[simp] theorem exec_pairLoRead {s : State} {off} {tag} : exec (.pairLoRead off tag) s = execPairLoRead off tag s := rfl
@[simp] theorem exec_pairLoWrite {s : State} {off} {data} :
    exec (.pairLoWrite off data) s = execPairLoWrite off data s := rfl
@[simp] theorem exec_pairHiWrite {s : State} {off} {data} :
    exec (.pairHiWrite off data) s = execPairHiWrite off data s := rfl
@[simp] theorem exec_slowDataRead {s : State} {tag} : exec (.slowDataRead tag) s = execSlowDataRead tag s := rfl
@[simp] theorem exec_slowDataWrite {s : State} {data} : exec (.slowDataWrite data) s = execSlowDataWrite data s := rfl
@[simp] theorem exec_slowAccessTimeout {s : State} : exec .slowAccessTimeout s = execSlowAccessTimeout s := rfl
@[simp] theorem exec_cfgSwitchGo {s : State} {data} : exec (.cfgSwitchGo data) s = execCfgSwitchGo data s := rfl
@[simp] theorem exec_overlaySwitch {s : State} : exec .overlaySwitch s = execOverlaySwitch s := rfl
@[simp] theorem exec_pwrRequestNap {s : State} : exec .pwrRequestNap s = execPwrRequestNap s := rfl
@[simp] theorem exec_pwrRequestRun {s : State} : exec .pwrRequestRun s = execPwrRequestRun s := rfl
@[simp] theorem exec_napEntryStep {s : State} : exec .napEntryStep s = execNapEntryStep s := rfl
@[simp] theorem exec_napWake {s : State} : exec .napWake s = execNapWake s := rfl
@[simp] theorem exec_trimEvaluation {s : State} {temps} {power} :
    exec (.trimEvaluation temps power) s = execTrimEvaluation temps power s := rfl
@[simp] theorem exec_trimGateTick {s : State} : exec .trimGateTick s = execTrimGateTick s := rfl
@[simp] theorem exec_forcedOff {s : State} {cause} : exec (.forcedOff cause) s = execForcedOff cause s := rfl
@[simp] theorem exec_coldReset {s : State} : exec .coldReset s = execColdReset s := rfl
@[simp] theorem exec_rootPllLock {s : State} : exec .rootPllLock s = execRootPllLock s := rfl
@[simp] theorem exec_romPhaseEnd {s : State} : exec .romPhaseEnd s = execRomPhaseEnd s := rfl
@[simp] theorem exec_initPhaseEnd {s : State} {badChannels} {badPiers} :
    exec (.initPhaseEnd badChannels badPiers) s = execInitPhaseEnd badChannels badPiers s := rfl
@[simp] theorem exec_identity {s : State} : exec .identity s = execIdentity s := rfl
@[simp] theorem exec_attest {s : State} : exec .attest s = execAttest s := rfl
@[simp] theorem exec_loadConfig {s : State} : exec .loadConfig s = execLoadConfig s := rfl
@[simp] theorem exec_flashWrite {s : State} : exec .flashWrite s = execFlashWrite s := rfl
@[simp] theorem exec_ownerSet {s : State} : exec .ownerSet s = execOwnerSet s := rfl
@[simp] theorem exec_resetNLow {s : State} {boardPg} {nanoseconds} :
    exec (.resetNLow boardPg nanoseconds) s = execResetNLow boardPg nanoseconds s := rfl
@[simp] theorem exec_brownOut {s : State} {aux} {millivolts} {nanoseconds} :
    exec (.brownOut aux millivolts nanoseconds) s = execBrownOut aux millivolts nanoseconds s := rfl
@[simp] theorem exec_mgmtBlockRead {s : State} {command} {write} :
    exec (.mgmtBlockRead command write) s = execMgmtBlockRead command write s := rfl
@[simp] theorem exec_bypass {s : State} {code} {tdi} : exec (.bypass code tdi) s = execBypass code tdi s := rfl
@[simp] theorem exec_idcode {s : State} : exec .idcode s = execIdcode s := rfl
@[simp] theorem exec_samplePreload {s : State} {cells} :
    exec (.samplePreload cells) s = execSamplePreload cells s := rfl
@[simp] theorem exec_extest {s : State} : exec .extest s = execExtest s := rfl
@[simp] theorem exec_clamp {s : State} : exec .clamp s = execClamp s := rfl
@[simp] theorem exec_highz {s : State} : exec .highz s = execHighz s := rfl
@[simp] theorem exec_resetNRelease {s : State} : exec .resetNRelease s = execResetNRelease s := rfl
@[simp] theorem exec_deviceRequestTimeout {s : State} {acc} :
    exec (.deviceRequestTimeout acc) s = execDeviceRequestTimeout acc s := rfl
@[simp] theorem exec_nvmeControllerReady {s : State} {port} {ctrl} :
    exec (.nvmeControllerReady port ctrl) s = execNvmeControllerReady port ctrl s := rfl

theorem step_cons {s : State} {c : Instr} {rest : List Instr} (h : s.pending = c :: rest) :
    step s = exec c { s with pending := rest } := by
  simp only [step, h]

theorem step_nil {s : State} (h : s.pending = []) : step s = .next s := by
  simp only [step, h]

end Sys2Proof.Machine
end

