-- ==== Sys2Proof/Laws/State.lean ====
section
/-!
SUPPORT. What the plain updates of State leave as it was, one equation per field, so that no proof unfolds a record
update.
-/

namespace Sys2Proof.Machine

open Sys2Proof

/-! ### bump -/

@[simp] theorem bump_clock (s : State) (off : Nat) (n : Nat) : (bump s off n).clock = s.clock := rfl
@[simp] theorem bump_timing (s : State) (off : Nat) (n : Nat) : (bump s off n).timing = s.timing := rfl
@[simp] theorem bump_piers (s : State) (off : Nat) (n : Nat) : (bump s off n).piers = s.piers := rfl
@[simp] theorem bump_trestle (s : State) (off : Nat) (n : Nat) : (bump s off n).trestle = s.trestle := rfl
@[simp] theorem bump_sched (s : State) (off : Nat) (n : Nat) : (bump s off n).sched = s.sched := rfl
@[simp] theorem bump_ctxs (s : State) (off : Nat) (n : Nat) : (bump s off n).ctxs = s.ctxs := rfl
@[simp] theorem bump_kidLink (s : State) (off : Nat) (n : Nat) : (bump s off n).kidLink = s.kidLink := rfl
@[simp] theorem bump_spanLinks (s : State) (off : Nat) (n : Nat) : (bump s off n).spanLinks = s.spanLinks := rfl
@[simp] theorem bump_kid (s : State) (off : Nat) (n : Nat) : (bump s off n).kid = s.kid := rfl
@[simp] theorem bump_span (s : State) (off : Nat) (n : Nat) : (bump s off n).span = s.span := rfl
@[simp] theorem bump_deck (s : State) (off : Nat) (n : Nat) : (bump s off n).deck = s.deck := rfl
@[simp] theorem bump_nvme (s : State) (off : Nat) (n : Nat) : (bump s off n).nvme = s.nvme := rfl
@[simp] theorem bump_heal (s : State) (off : Nat) (n : Nat) : (bump s off n).heal = s.heal := rfl
@[simp] theorem bump_tables (s : State) (off : Nat) (n : Nat) : (bump s off n).tables = s.tables := rfl
@[simp] theorem bump_parapets (s : State) (off : Nat) (n : Nat) : (bump s off n).parapets = s.parapets := rfl
@[simp] theorem bump_cfg (s : State) (off : Nat) (n : Nat) : (bump s off n).cfg = s.cfg := rfl
@[simp] theorem bump_power (s : State) (off : Nat) (n : Nat) : (bump s off n).power = s.power := rfl
@[simp] theorem bump_boot (s : State) (off : Nat) (n : Nat) : (bump s off n).boot = s.boot := rfl
@[simp] theorem bump_pads (s : State) (off : Nat) (n : Nat) : (bump s off n).pads = s.pads := rfl
@[simp] theorem bump_free (s : State) (off : Nat) (n : Nat) : (bump s off n).free = s.free := rfl
@[simp] theorem bump_pending (s : State) (off : Nat) (n : Nat) : (bump s off n).pending = s.pending := rfl

/-! ### freeHeld -/

@[simp] theorem freeHeld_clock (s : State) (p : Owner → Bool) : (freeHeld s p).clock = s.clock := rfl
@[simp] theorem freeHeld_timing (s : State) (p : Owner → Bool) : (freeHeld s p).timing = s.timing := rfl
@[simp] theorem freeHeld_piers (s : State) (p : Owner → Bool) : (freeHeld s p).piers = s.piers := rfl
@[simp] theorem freeHeld_trestle (s : State) (p : Owner → Bool) : (freeHeld s p).trestle = s.trestle := rfl
@[simp] theorem freeHeld_sched (s : State) (p : Owner → Bool) : (freeHeld s p).sched = s.sched := rfl
@[simp] theorem freeHeld_ctxs (s : State) (p : Owner → Bool) : (freeHeld s p).ctxs = s.ctxs := rfl
@[simp] theorem freeHeld_kidLink (s : State) (p : Owner → Bool) : (freeHeld s p).kidLink = s.kidLink := rfl
@[simp] theorem freeHeld_spanLinks (s : State) (p : Owner → Bool) : (freeHeld s p).spanLinks = s.spanLinks := rfl
@[simp] theorem freeHeld_kid (s : State) (p : Owner → Bool) : (freeHeld s p).kid = s.kid := rfl
@[simp] theorem freeHeld_span (s : State) (p : Owner → Bool) : (freeHeld s p).span = s.span := rfl
@[simp] theorem freeHeld_nvme (s : State) (p : Owner → Bool) : (freeHeld s p).nvme = s.nvme := rfl
@[simp] theorem freeHeld_heal (s : State) (p : Owner → Bool) : (freeHeld s p).heal = s.heal := rfl
@[simp] theorem freeHeld_tables (s : State) (p : Owner → Bool) : (freeHeld s p).tables = s.tables := rfl
@[simp] theorem freeHeld_parapets (s : State) (p : Owner → Bool) : (freeHeld s p).parapets = s.parapets := rfl
@[simp] theorem freeHeld_regs (s : State) (p : Owner → Bool) : (freeHeld s p).regs = s.regs := rfl
@[simp] theorem freeHeld_cfg (s : State) (p : Owner → Bool) : (freeHeld s p).cfg = s.cfg := rfl
@[simp] theorem freeHeld_power (s : State) (p : Owner → Bool) : (freeHeld s p).power = s.power := rfl
@[simp] theorem freeHeld_boot (s : State) (p : Owner → Bool) : (freeHeld s p).boot = s.boot := rfl
@[simp] theorem freeHeld_pads (s : State) (p : Owner → Bool) : (freeHeld s p).pads = s.pads := rfl
@[simp] theorem freeHeld_free (s : State) (p : Owner → Bool) : (freeHeld s p).free = s.free := rfl
@[simp] theorem freeHeld_pending (s : State) (p : Owner → Bool) : (freeHeld s p).pending = s.pending := rfl

/-! ### setCtx -/

@[simp] theorem setCtx_clock (s : State) (c : Nat) (x : Ctx) : (setCtx s c x).clock = s.clock := rfl
@[simp] theorem setCtx_timing (s : State) (c : Nat) (x : Ctx) : (setCtx s c x).timing = s.timing := rfl
@[simp] theorem setCtx_piers (s : State) (c : Nat) (x : Ctx) : (setCtx s c x).piers = s.piers := rfl
@[simp] theorem setCtx_trestle (s : State) (c : Nat) (x : Ctx) : (setCtx s c x).trestle = s.trestle := rfl
@[simp] theorem setCtx_sched (s : State) (c : Nat) (x : Ctx) : (setCtx s c x).sched = s.sched := rfl
@[simp] theorem setCtx_kidLink (s : State) (c : Nat) (x : Ctx) : (setCtx s c x).kidLink = s.kidLink := rfl
@[simp] theorem setCtx_spanLinks (s : State) (c : Nat) (x : Ctx) : (setCtx s c x).spanLinks = s.spanLinks := rfl
@[simp] theorem setCtx_kid (s : State) (c : Nat) (x : Ctx) : (setCtx s c x).kid = s.kid := rfl
@[simp] theorem setCtx_span (s : State) (c : Nat) (x : Ctx) : (setCtx s c x).span = s.span := rfl
@[simp] theorem setCtx_deck (s : State) (c : Nat) (x : Ctx) : (setCtx s c x).deck = s.deck := rfl
@[simp] theorem setCtx_nvme (s : State) (c : Nat) (x : Ctx) : (setCtx s c x).nvme = s.nvme := rfl
@[simp] theorem setCtx_heal (s : State) (c : Nat) (x : Ctx) : (setCtx s c x).heal = s.heal := rfl
@[simp] theorem setCtx_tables (s : State) (c : Nat) (x : Ctx) : (setCtx s c x).tables = s.tables := rfl
@[simp] theorem setCtx_parapets (s : State) (c : Nat) (x : Ctx) : (setCtx s c x).parapets = s.parapets := rfl
@[simp] theorem setCtx_regs (s : State) (c : Nat) (x : Ctx) : (setCtx s c x).regs = s.regs := rfl
@[simp] theorem setCtx_cfg (s : State) (c : Nat) (x : Ctx) : (setCtx s c x).cfg = s.cfg := rfl
@[simp] theorem setCtx_power (s : State) (c : Nat) (x : Ctx) : (setCtx s c x).power = s.power := rfl
@[simp] theorem setCtx_boot (s : State) (c : Nat) (x : Ctx) : (setCtx s c x).boot = s.boot := rfl
@[simp] theorem setCtx_pads (s : State) (c : Nat) (x : Ctx) : (setCtx s c x).pads = s.pads := rfl
@[simp] theorem setCtx_free (s : State) (c : Nat) (x : Ctx) : (setCtx s c x).free = s.free := rfl
@[simp] theorem setCtx_pending (s : State) (c : Nat) (x : Ctx) : (setCtx s c x).pending = s.pending := rfl

/-! ### modCtx -/

@[simp] theorem modCtx_clock (s : State) (c : Nat) (f : Ctx → Ctx) : (modCtx s c f).clock = s.clock := rfl
@[simp] theorem modCtx_timing (s : State) (c : Nat) (f : Ctx → Ctx) : (modCtx s c f).timing = s.timing := rfl
@[simp] theorem modCtx_piers (s : State) (c : Nat) (f : Ctx → Ctx) : (modCtx s c f).piers = s.piers := rfl
@[simp] theorem modCtx_trestle (s : State) (c : Nat) (f : Ctx → Ctx) : (modCtx s c f).trestle = s.trestle := rfl
@[simp] theorem modCtx_sched (s : State) (c : Nat) (f : Ctx → Ctx) : (modCtx s c f).sched = s.sched := rfl
@[simp] theorem modCtx_kidLink (s : State) (c : Nat) (f : Ctx → Ctx) : (modCtx s c f).kidLink = s.kidLink := rfl
@[simp] theorem modCtx_spanLinks (s : State) (c : Nat) (f : Ctx → Ctx) : (modCtx s c f).spanLinks = s.spanLinks := rfl
@[simp] theorem modCtx_kid (s : State) (c : Nat) (f : Ctx → Ctx) : (modCtx s c f).kid = s.kid := rfl
@[simp] theorem modCtx_span (s : State) (c : Nat) (f : Ctx → Ctx) : (modCtx s c f).span = s.span := rfl
@[simp] theorem modCtx_deck (s : State) (c : Nat) (f : Ctx → Ctx) : (modCtx s c f).deck = s.deck := rfl
@[simp] theorem modCtx_nvme (s : State) (c : Nat) (f : Ctx → Ctx) : (modCtx s c f).nvme = s.nvme := rfl
@[simp] theorem modCtx_heal (s : State) (c : Nat) (f : Ctx → Ctx) : (modCtx s c f).heal = s.heal := rfl
@[simp] theorem modCtx_tables (s : State) (c : Nat) (f : Ctx → Ctx) : (modCtx s c f).tables = s.tables := rfl
@[simp] theorem modCtx_parapets (s : State) (c : Nat) (f : Ctx → Ctx) : (modCtx s c f).parapets = s.parapets := rfl
@[simp] theorem modCtx_regs (s : State) (c : Nat) (f : Ctx → Ctx) : (modCtx s c f).regs = s.regs := rfl
@[simp] theorem modCtx_cfg (s : State) (c : Nat) (f : Ctx → Ctx) : (modCtx s c f).cfg = s.cfg := rfl
@[simp] theorem modCtx_power (s : State) (c : Nat) (f : Ctx → Ctx) : (modCtx s c f).power = s.power := rfl
@[simp] theorem modCtx_boot (s : State) (c : Nat) (f : Ctx → Ctx) : (modCtx s c f).boot = s.boot := rfl
@[simp] theorem modCtx_pads (s : State) (c : Nat) (f : Ctx → Ctx) : (modCtx s c f).pads = s.pads := rfl
@[simp] theorem modCtx_free (s : State) (c : Nat) (f : Ctx → Ctx) : (modCtx s c f).free = s.free := rfl
@[simp] theorem modCtx_pending (s : State) (c : Nat) (f : Ctx → Ctx) : (modCtx s c f).pending = s.pending := rfl

/-! ### modItem -/

@[simp] theorem modItem_clock (s : State) (i : Nat) (f : Item → Item) : (modItem s i f).clock = s.clock := rfl
@[simp] theorem modItem_timing (s : State) (i : Nat) (f : Item → Item) : (modItem s i f).timing = s.timing := rfl
@[simp] theorem modItem_piers (s : State) (i : Nat) (f : Item → Item) : (modItem s i f).piers = s.piers := rfl
@[simp] theorem modItem_trestle (s : State) (i : Nat) (f : Item → Item) : (modItem s i f).trestle = s.trestle := rfl
@[simp] theorem modItem_ctxs (s : State) (i : Nat) (f : Item → Item) : (modItem s i f).ctxs = s.ctxs := rfl
@[simp] theorem modItem_kidLink (s : State) (i : Nat) (f : Item → Item) : (modItem s i f).kidLink = s.kidLink := rfl
@[simp] theorem modItem_spanLinks (s : State) (i : Nat) (f : Item → Item) :
    (modItem s i f).spanLinks = s.spanLinks := rfl
@[simp] theorem modItem_kid (s : State) (i : Nat) (f : Item → Item) : (modItem s i f).kid = s.kid := rfl
@[simp] theorem modItem_span (s : State) (i : Nat) (f : Item → Item) : (modItem s i f).span = s.span := rfl
@[simp] theorem modItem_deck (s : State) (i : Nat) (f : Item → Item) : (modItem s i f).deck = s.deck := rfl
@[simp] theorem modItem_nvme (s : State) (i : Nat) (f : Item → Item) : (modItem s i f).nvme = s.nvme := rfl
@[simp] theorem modItem_heal (s : State) (i : Nat) (f : Item → Item) : (modItem s i f).heal = s.heal := rfl
@[simp] theorem modItem_tables (s : State) (i : Nat) (f : Item → Item) : (modItem s i f).tables = s.tables := rfl
@[simp] theorem modItem_parapets (s : State) (i : Nat) (f : Item → Item) : (modItem s i f).parapets = s.parapets := rfl
@[simp] theorem modItem_regs (s : State) (i : Nat) (f : Item → Item) : (modItem s i f).regs = s.regs := rfl
@[simp] theorem modItem_cfg (s : State) (i : Nat) (f : Item → Item) : (modItem s i f).cfg = s.cfg := rfl
@[simp] theorem modItem_power (s : State) (i : Nat) (f : Item → Item) : (modItem s i f).power = s.power := rfl
@[simp] theorem modItem_boot (s : State) (i : Nat) (f : Item → Item) : (modItem s i f).boot = s.boot := rfl
@[simp] theorem modItem_pads (s : State) (i : Nat) (f : Item → Item) : (modItem s i f).pads = s.pads := rfl
@[simp] theorem modItem_free (s : State) (i : Nat) (f : Item → Item) : (modItem s i f).free = s.free := rfl
@[simp] theorem modItem_pending (s : State) (i : Nat) (f : Item → Item) : (modItem s i f).pending = s.pending := rfl

/-! ### setPier -/

@[simp] theorem setPier_clock (s : State) (p : Nat) (x : Pier) : (setPier s p x).clock = s.clock := rfl
@[simp] theorem setPier_timing (s : State) (p : Nat) (x : Pier) : (setPier s p x).timing = s.timing := rfl
@[simp] theorem setPier_trestle (s : State) (p : Nat) (x : Pier) : (setPier s p x).trestle = s.trestle := rfl
@[simp] theorem setPier_sched (s : State) (p : Nat) (x : Pier) : (setPier s p x).sched = s.sched := rfl
@[simp] theorem setPier_ctxs (s : State) (p : Nat) (x : Pier) : (setPier s p x).ctxs = s.ctxs := rfl
@[simp] theorem setPier_kidLink (s : State) (p : Nat) (x : Pier) : (setPier s p x).kidLink = s.kidLink := rfl
@[simp] theorem setPier_spanLinks (s : State) (p : Nat) (x : Pier) : (setPier s p x).spanLinks = s.spanLinks := rfl
@[simp] theorem setPier_kid (s : State) (p : Nat) (x : Pier) : (setPier s p x).kid = s.kid := rfl
@[simp] theorem setPier_span (s : State) (p : Nat) (x : Pier) : (setPier s p x).span = s.span := rfl
@[simp] theorem setPier_deck (s : State) (p : Nat) (x : Pier) : (setPier s p x).deck = s.deck := rfl
@[simp] theorem setPier_nvme (s : State) (p : Nat) (x : Pier) : (setPier s p x).nvme = s.nvme := rfl
@[simp] theorem setPier_heal (s : State) (p : Nat) (x : Pier) : (setPier s p x).heal = s.heal := rfl
@[simp] theorem setPier_tables (s : State) (p : Nat) (x : Pier) : (setPier s p x).tables = s.tables := rfl
@[simp] theorem setPier_parapets (s : State) (p : Nat) (x : Pier) : (setPier s p x).parapets = s.parapets := rfl
@[simp] theorem setPier_regs (s : State) (p : Nat) (x : Pier) : (setPier s p x).regs = s.regs := rfl
@[simp] theorem setPier_cfg (s : State) (p : Nat) (x : Pier) : (setPier s p x).cfg = s.cfg := rfl
@[simp] theorem setPier_power (s : State) (p : Nat) (x : Pier) : (setPier s p x).power = s.power := rfl
@[simp] theorem setPier_boot (s : State) (p : Nat) (x : Pier) : (setPier s p x).boot = s.boot := rfl
@[simp] theorem setPier_pads (s : State) (p : Nat) (x : Pier) : (setPier s p x).pads = s.pads := rfl
@[simp] theorem setPier_free (s : State) (p : Nat) (x : Pier) : (setPier s p x).free = s.free := rfl
@[simp] theorem setPier_pending (s : State) (p : Nat) (x : Pier) : (setPier s p x).pending = s.pending := rfl

/-! ### kidSend -/

@[simp] theorem kidSend_clock (s : State) (p : Packet) : (kidSend s p).clock = s.clock := rfl
@[simp] theorem kidSend_timing (s : State) (p : Packet) : (kidSend s p).timing = s.timing := rfl
@[simp] theorem kidSend_piers (s : State) (p : Packet) : (kidSend s p).piers = s.piers := rfl
@[simp] theorem kidSend_trestle (s : State) (p : Packet) : (kidSend s p).trestle = s.trestle := rfl
@[simp] theorem kidSend_sched (s : State) (p : Packet) : (kidSend s p).sched = s.sched := rfl
@[simp] theorem kidSend_ctxs (s : State) (p : Packet) : (kidSend s p).ctxs = s.ctxs := rfl
@[simp] theorem kidSend_spanLinks (s : State) (p : Packet) : (kidSend s p).spanLinks = s.spanLinks := rfl
@[simp] theorem kidSend_kid (s : State) (p : Packet) : (kidSend s p).kid = s.kid := rfl
@[simp] theorem kidSend_span (s : State) (p : Packet) : (kidSend s p).span = s.span := rfl
@[simp] theorem kidSend_deck (s : State) (p : Packet) : (kidSend s p).deck = s.deck := rfl
@[simp] theorem kidSend_nvme (s : State) (p : Packet) : (kidSend s p).nvme = s.nvme := rfl
@[simp] theorem kidSend_heal (s : State) (p : Packet) : (kidSend s p).heal = s.heal := rfl
@[simp] theorem kidSend_tables (s : State) (p : Packet) : (kidSend s p).tables = s.tables := rfl
@[simp] theorem kidSend_parapets (s : State) (p : Packet) : (kidSend s p).parapets = s.parapets := rfl
@[simp] theorem kidSend_regs (s : State) (p : Packet) : (kidSend s p).regs = s.regs := rfl
@[simp] theorem kidSend_cfg (s : State) (p : Packet) : (kidSend s p).cfg = s.cfg := rfl
@[simp] theorem kidSend_power (s : State) (p : Packet) : (kidSend s p).power = s.power := rfl
@[simp] theorem kidSend_boot (s : State) (p : Packet) : (kidSend s p).boot = s.boot := rfl
@[simp] theorem kidSend_pads (s : State) (p : Packet) : (kidSend s p).pads = s.pads := rfl
@[simp] theorem kidSend_free (s : State) (p : Packet) : (kidSend s p).free = s.free := rfl
@[simp] theorem kidSend_pending (s : State) (p : Packet) : (kidSend s p).pending = s.pending := rfl

/-! ### setSpanLink -/

@[simp] theorem setSpanLink_clock (s : State) (p : Nat) (l : Link) : (setSpanLink s p l).clock = s.clock := rfl
@[simp] theorem setSpanLink_timing (s : State) (p : Nat) (l : Link) : (setSpanLink s p l).timing = s.timing := rfl
@[simp] theorem setSpanLink_piers (s : State) (p : Nat) (l : Link) : (setSpanLink s p l).piers = s.piers := rfl
@[simp] theorem setSpanLink_trestle (s : State) (p : Nat) (l : Link) : (setSpanLink s p l).trestle = s.trestle := rfl
@[simp] theorem setSpanLink_sched (s : State) (p : Nat) (l : Link) : (setSpanLink s p l).sched = s.sched := rfl
@[simp] theorem setSpanLink_ctxs (s : State) (p : Nat) (l : Link) : (setSpanLink s p l).ctxs = s.ctxs := rfl
@[simp] theorem setSpanLink_kidLink (s : State) (p : Nat) (l : Link) : (setSpanLink s p l).kidLink = s.kidLink := rfl
@[simp] theorem setSpanLink_kid (s : State) (p : Nat) (l : Link) : (setSpanLink s p l).kid = s.kid := rfl
@[simp] theorem setSpanLink_span (s : State) (p : Nat) (l : Link) : (setSpanLink s p l).span = s.span := rfl
@[simp] theorem setSpanLink_deck (s : State) (p : Nat) (l : Link) : (setSpanLink s p l).deck = s.deck := rfl
@[simp] theorem setSpanLink_nvme (s : State) (p : Nat) (l : Link) : (setSpanLink s p l).nvme = s.nvme := rfl
@[simp] theorem setSpanLink_heal (s : State) (p : Nat) (l : Link) : (setSpanLink s p l).heal = s.heal := rfl
@[simp] theorem setSpanLink_tables (s : State) (p : Nat) (l : Link) : (setSpanLink s p l).tables = s.tables := rfl
@[simp] theorem setSpanLink_parapets (s : State) (p : Nat) (l : Link) : (setSpanLink s p l).parapets = s.parapets := rfl
@[simp] theorem setSpanLink_regs (s : State) (p : Nat) (l : Link) : (setSpanLink s p l).regs = s.regs := rfl
@[simp] theorem setSpanLink_cfg (s : State) (p : Nat) (l : Link) : (setSpanLink s p l).cfg = s.cfg := rfl
@[simp] theorem setSpanLink_power (s : State) (p : Nat) (l : Link) : (setSpanLink s p l).power = s.power := rfl
@[simp] theorem setSpanLink_boot (s : State) (p : Nat) (l : Link) : (setSpanLink s p l).boot = s.boot := rfl
@[simp] theorem setSpanLink_pads (s : State) (p : Nat) (l : Link) : (setSpanLink s p l).pads = s.pads := rfl
@[simp] theorem setSpanLink_free (s : State) (p : Nat) (l : Link) : (setSpanLink s p l).free = s.free := rfl
@[simp] theorem setSpanLink_pending (s : State) (p : Nat) (l : Link) : (setSpanLink s p l).pending = s.pending := rfl

/-! ### modAcc -/

@[simp] theorem modAcc_clock (s : State) (i : Nat) (f : Acc → Acc) : (modAcc s i f).clock = s.clock := rfl
@[simp] theorem modAcc_timing (s : State) (i : Nat) (f : Acc → Acc) : (modAcc s i f).timing = s.timing := rfl
@[simp] theorem modAcc_piers (s : State) (i : Nat) (f : Acc → Acc) : (modAcc s i f).piers = s.piers := rfl
@[simp] theorem modAcc_trestle (s : State) (i : Nat) (f : Acc → Acc) : (modAcc s i f).trestle = s.trestle := rfl
@[simp] theorem modAcc_sched (s : State) (i : Nat) (f : Acc → Acc) : (modAcc s i f).sched = s.sched := rfl
@[simp] theorem modAcc_ctxs (s : State) (i : Nat) (f : Acc → Acc) : (modAcc s i f).ctxs = s.ctxs := rfl
@[simp] theorem modAcc_kidLink (s : State) (i : Nat) (f : Acc → Acc) : (modAcc s i f).kidLink = s.kidLink := rfl
@[simp] theorem modAcc_spanLinks (s : State) (i : Nat) (f : Acc → Acc) : (modAcc s i f).spanLinks = s.spanLinks := rfl
@[simp] theorem modAcc_span (s : State) (i : Nat) (f : Acc → Acc) : (modAcc s i f).span = s.span := rfl
@[simp] theorem modAcc_deck (s : State) (i : Nat) (f : Acc → Acc) : (modAcc s i f).deck = s.deck := rfl
@[simp] theorem modAcc_nvme (s : State) (i : Nat) (f : Acc → Acc) : (modAcc s i f).nvme = s.nvme := rfl
@[simp] theorem modAcc_heal (s : State) (i : Nat) (f : Acc → Acc) : (modAcc s i f).heal = s.heal := rfl
@[simp] theorem modAcc_tables (s : State) (i : Nat) (f : Acc → Acc) : (modAcc s i f).tables = s.tables := rfl
@[simp] theorem modAcc_parapets (s : State) (i : Nat) (f : Acc → Acc) : (modAcc s i f).parapets = s.parapets := rfl
@[simp] theorem modAcc_regs (s : State) (i : Nat) (f : Acc → Acc) : (modAcc s i f).regs = s.regs := rfl
@[simp] theorem modAcc_cfg (s : State) (i : Nat) (f : Acc → Acc) : (modAcc s i f).cfg = s.cfg := rfl
@[simp] theorem modAcc_power (s : State) (i : Nat) (f : Acc → Acc) : (modAcc s i f).power = s.power := rfl
@[simp] theorem modAcc_boot (s : State) (i : Nat) (f : Acc → Acc) : (modAcc s i f).boot = s.boot := rfl
@[simp] theorem modAcc_pads (s : State) (i : Nat) (f : Acc → Acc) : (modAcc s i f).pads = s.pads := rfl
@[simp] theorem modAcc_free (s : State) (i : Nat) (f : Acc → Acc) : (modAcc s i f).free = s.free := rfl
@[simp] theorem modAcc_pending (s : State) (i : Nat) (f : Acc → Acc) : (modAcc s i f).pending = s.pending := rfl

/-! ### failAtOnce -/

@[simp] theorem failAtOnce_clock (s : State) (i : Nat) (status : Nat) : (failAtOnce s i status).clock = s.clock := rfl
@[simp] theorem failAtOnce_timing (s : State) (i : Nat) (status : Nat) :
    (failAtOnce s i status).timing = s.timing := rfl
@[simp] theorem failAtOnce_piers (s : State) (i : Nat) (status : Nat) : (failAtOnce s i status).piers = s.piers := rfl
@[simp] theorem failAtOnce_trestle (s : State) (i : Nat) (status : Nat) :
    (failAtOnce s i status).trestle = s.trestle := rfl
@[simp] theorem failAtOnce_sched (s : State) (i : Nat) (status : Nat) : (failAtOnce s i status).sched = s.sched := rfl
@[simp] theorem failAtOnce_ctxs (s : State) (i : Nat) (status : Nat) : (failAtOnce s i status).ctxs = s.ctxs := rfl
@[simp] theorem failAtOnce_kidLink (s : State) (i : Nat) (status : Nat) :
    (failAtOnce s i status).kidLink = s.kidLink := rfl
@[simp] theorem failAtOnce_spanLinks (s : State) (i : Nat) (status : Nat) :
    (failAtOnce s i status).spanLinks = s.spanLinks := rfl
@[simp] theorem failAtOnce_span (s : State) (i : Nat) (status : Nat) : (failAtOnce s i status).span = s.span := rfl
@[simp] theorem failAtOnce_deck (s : State) (i : Nat) (status : Nat) : (failAtOnce s i status).deck = s.deck := rfl
@[simp] theorem failAtOnce_nvme (s : State) (i : Nat) (status : Nat) : (failAtOnce s i status).nvme = s.nvme := rfl
@[simp] theorem failAtOnce_heal (s : State) (i : Nat) (status : Nat) : (failAtOnce s i status).heal = s.heal := rfl
@[simp] theorem failAtOnce_tables (s : State) (i : Nat) (status : Nat) :
    (failAtOnce s i status).tables = s.tables := rfl
@[simp] theorem failAtOnce_parapets (s : State) (i : Nat) (status : Nat) :
    (failAtOnce s i status).parapets = s.parapets := rfl
@[simp] theorem failAtOnce_regs (s : State) (i : Nat) (status : Nat) : (failAtOnce s i status).regs = s.regs := rfl
@[simp] theorem failAtOnce_cfg (s : State) (i : Nat) (status : Nat) : (failAtOnce s i status).cfg = s.cfg := rfl
@[simp] theorem failAtOnce_power (s : State) (i : Nat) (status : Nat) : (failAtOnce s i status).power = s.power := rfl
@[simp] theorem failAtOnce_boot (s : State) (i : Nat) (status : Nat) : (failAtOnce s i status).boot = s.boot := rfl
@[simp] theorem failAtOnce_pads (s : State) (i : Nat) (status : Nat) : (failAtOnce s i status).pads = s.pads := rfl
@[simp] theorem failAtOnce_free (s : State) (i : Nat) (status : Nat) : (failAtOnce s i status).free = s.free := rfl
@[simp] theorem failAtOnce_pending (s : State) (i : Nat) (status : Nat) :
    (failAtOnce s i status).pending = s.pending := rfl

/-! ### modRebuild -/

@[simp] theorem modRebuild_clock (s : State) (i : Nat) (f : Rebuild → Rebuild) :
    (modRebuild s i f).clock = s.clock := rfl
@[simp] theorem modRebuild_timing (s : State) (i : Nat) (f : Rebuild → Rebuild) :
    (modRebuild s i f).timing = s.timing := rfl
@[simp] theorem modRebuild_piers (s : State) (i : Nat) (f : Rebuild → Rebuild) :
    (modRebuild s i f).piers = s.piers := rfl
@[simp] theorem modRebuild_trestle (s : State) (i : Nat) (f : Rebuild → Rebuild) :
    (modRebuild s i f).trestle = s.trestle := rfl
@[simp] theorem modRebuild_sched (s : State) (i : Nat) (f : Rebuild → Rebuild) :
    (modRebuild s i f).sched = s.sched := rfl
@[simp] theorem modRebuild_ctxs (s : State) (i : Nat) (f : Rebuild → Rebuild) : (modRebuild s i f).ctxs = s.ctxs := rfl
@[simp] theorem modRebuild_kidLink (s : State) (i : Nat) (f : Rebuild → Rebuild) :
    (modRebuild s i f).kidLink = s.kidLink := rfl
@[simp] theorem modRebuild_spanLinks (s : State) (i : Nat) (f : Rebuild → Rebuild) :
    (modRebuild s i f).spanLinks = s.spanLinks := rfl
@[simp] theorem modRebuild_kid (s : State) (i : Nat) (f : Rebuild → Rebuild) : (modRebuild s i f).kid = s.kid := rfl
@[simp] theorem modRebuild_span (s : State) (i : Nat) (f : Rebuild → Rebuild) : (modRebuild s i f).span = s.span := rfl
@[simp] theorem modRebuild_deck (s : State) (i : Nat) (f : Rebuild → Rebuild) : (modRebuild s i f).deck = s.deck := rfl
@[simp] theorem modRebuild_nvme (s : State) (i : Nat) (f : Rebuild → Rebuild) : (modRebuild s i f).nvme = s.nvme := rfl
@[simp] theorem modRebuild_tables (s : State) (i : Nat) (f : Rebuild → Rebuild) :
    (modRebuild s i f).tables = s.tables := rfl
@[simp] theorem modRebuild_parapets (s : State) (i : Nat) (f : Rebuild → Rebuild) :
    (modRebuild s i f).parapets = s.parapets := rfl
@[simp] theorem modRebuild_regs (s : State) (i : Nat) (f : Rebuild → Rebuild) : (modRebuild s i f).regs = s.regs := rfl
@[simp] theorem modRebuild_cfg (s : State) (i : Nat) (f : Rebuild → Rebuild) : (modRebuild s i f).cfg = s.cfg := rfl
@[simp] theorem modRebuild_power (s : State) (i : Nat) (f : Rebuild → Rebuild) :
    (modRebuild s i f).power = s.power := rfl
@[simp] theorem modRebuild_boot (s : State) (i : Nat) (f : Rebuild → Rebuild) : (modRebuild s i f).boot = s.boot := rfl
@[simp] theorem modRebuild_pads (s : State) (i : Nat) (f : Rebuild → Rebuild) : (modRebuild s i f).pads = s.pads := rfl
@[simp] theorem modRebuild_free (s : State) (i : Nat) (f : Rebuild → Rebuild) : (modRebuild s i f).free = s.free := rfl
@[simp] theorem modRebuild_pending (s : State) (i : Nat) (f : Rebuild → Rebuild) :
    (modRebuild s i f).pending = s.pending := rfl

/-! ### modMigration -/

@[simp] theorem modMigration_clock (s : State) (i : Nat) (f : Migration → Migration) :
    (modMigration s i f).clock = s.clock := rfl
@[simp] theorem modMigration_timing (s : State) (i : Nat) (f : Migration → Migration) :
    (modMigration s i f).timing = s.timing := rfl
@[simp] theorem modMigration_piers (s : State) (i : Nat) (f : Migration → Migration) :
    (modMigration s i f).piers = s.piers := rfl
@[simp] theorem modMigration_trestle (s : State) (i : Nat) (f : Migration → Migration) :
    (modMigration s i f).trestle = s.trestle := rfl
@[simp] theorem modMigration_sched (s : State) (i : Nat) (f : Migration → Migration) :
    (modMigration s i f).sched = s.sched := rfl
@[simp] theorem modMigration_ctxs (s : State) (i : Nat) (f : Migration → Migration) :
    (modMigration s i f).ctxs = s.ctxs := rfl
@[simp] theorem modMigration_kidLink (s : State) (i : Nat) (f : Migration → Migration) :
    (modMigration s i f).kidLink = s.kidLink := rfl
@[simp] theorem modMigration_spanLinks (s : State) (i : Nat) (f : Migration → Migration) :
    (modMigration s i f).spanLinks = s.spanLinks := rfl
@[simp] theorem modMigration_kid (s : State) (i : Nat) (f : Migration → Migration) :
    (modMigration s i f).kid = s.kid := rfl
@[simp] theorem modMigration_span (s : State) (i : Nat) (f : Migration → Migration) :
    (modMigration s i f).span = s.span := rfl
@[simp] theorem modMigration_deck (s : State) (i : Nat) (f : Migration → Migration) :
    (modMigration s i f).deck = s.deck := rfl
@[simp] theorem modMigration_nvme (s : State) (i : Nat) (f : Migration → Migration) :
    (modMigration s i f).nvme = s.nvme := rfl
@[simp] theorem modMigration_heal (s : State) (i : Nat) (f : Migration → Migration) :
    (modMigration s i f).heal = s.heal := rfl
@[simp] theorem modMigration_parapets (s : State) (i : Nat) (f : Migration → Migration) :
    (modMigration s i f).parapets = s.parapets := rfl
@[simp] theorem modMigration_regs (s : State) (i : Nat) (f : Migration → Migration) :
    (modMigration s i f).regs = s.regs := rfl
@[simp] theorem modMigration_cfg (s : State) (i : Nat) (f : Migration → Migration) :
    (modMigration s i f).cfg = s.cfg := rfl
@[simp] theorem modMigration_power (s : State) (i : Nat) (f : Migration → Migration) :
    (modMigration s i f).power = s.power := rfl
@[simp] theorem modMigration_boot (s : State) (i : Nat) (f : Migration → Migration) :
    (modMigration s i f).boot = s.boot := rfl
@[simp] theorem modMigration_pads (s : State) (i : Nat) (f : Migration → Migration) :
    (modMigration s i f).pads = s.pads := rfl
@[simp] theorem modMigration_free (s : State) (i : Nat) (f : Migration → Migration) :
    (modMigration s i f).free = s.free := rfl
@[simp] theorem modMigration_pending (s : State) (i : Nat) (f : Migration → Migration) :
    (modMigration s i f).pending = s.pending := rfl

/-! ### modVer -/

@[simp] theorem modVer_clock (s : State) (v : Nat) (f : Version → Version) : (modVer s v f).clock = s.clock := rfl
@[simp] theorem modVer_timing (s : State) (v : Nat) (f : Version → Version) : (modVer s v f).timing = s.timing := rfl
@[simp] theorem modVer_piers (s : State) (v : Nat) (f : Version → Version) : (modVer s v f).piers = s.piers := rfl
@[simp] theorem modVer_trestle (s : State) (v : Nat) (f : Version → Version) : (modVer s v f).trestle = s.trestle := rfl
@[simp] theorem modVer_sched (s : State) (v : Nat) (f : Version → Version) : (modVer s v f).sched = s.sched := rfl
@[simp] theorem modVer_ctxs (s : State) (v : Nat) (f : Version → Version) : (modVer s v f).ctxs = s.ctxs := rfl
@[simp] theorem modVer_kidLink (s : State) (v : Nat) (f : Version → Version) : (modVer s v f).kidLink = s.kidLink := rfl
@[simp] theorem modVer_spanLinks (s : State) (v : Nat) (f : Version → Version) :
    (modVer s v f).spanLinks = s.spanLinks := rfl
@[simp] theorem modVer_kid (s : State) (v : Nat) (f : Version → Version) : (modVer s v f).kid = s.kid := rfl
@[simp] theorem modVer_span (s : State) (v : Nat) (f : Version → Version) : (modVer s v f).span = s.span := rfl
@[simp] theorem modVer_deck (s : State) (v : Nat) (f : Version → Version) : (modVer s v f).deck = s.deck := rfl
@[simp] theorem modVer_nvme (s : State) (v : Nat) (f : Version → Version) : (modVer s v f).nvme = s.nvme := rfl
@[simp] theorem modVer_heal (s : State) (v : Nat) (f : Version → Version) : (modVer s v f).heal = s.heal := rfl
@[simp] theorem modVer_parapets (s : State) (v : Nat) (f : Version → Version) :
    (modVer s v f).parapets = s.parapets := rfl
@[simp] theorem modVer_regs (s : State) (v : Nat) (f : Version → Version) : (modVer s v f).regs = s.regs := rfl
@[simp] theorem modVer_cfg (s : State) (v : Nat) (f : Version → Version) : (modVer s v f).cfg = s.cfg := rfl
@[simp] theorem modVer_power (s : State) (v : Nat) (f : Version → Version) : (modVer s v f).power = s.power := rfl
@[simp] theorem modVer_boot (s : State) (v : Nat) (f : Version → Version) : (modVer s v f).boot = s.boot := rfl
@[simp] theorem modVer_pads (s : State) (v : Nat) (f : Version → Version) : (modVer s v f).pads = s.pads := rfl
@[simp] theorem modVer_free (s : State) (v : Nat) (f : Version → Version) : (modVer s v f).free = s.free := rfl
@[simp] theorem modVer_pending (s : State) (v : Nat) (f : Version → Version) : (modVer s v f).pending = s.pending := rfl

/-! ### modCommit -/

@[simp] theorem modCommit_clock (s : State) (i : Nat) (f : Commit → Commit) : (modCommit s i f).clock = s.clock := rfl
@[simp] theorem modCommit_timing (s : State) (i : Nat) (f : Commit → Commit) :
    (modCommit s i f).timing = s.timing := rfl
@[simp] theorem modCommit_piers (s : State) (i : Nat) (f : Commit → Commit) : (modCommit s i f).piers = s.piers := rfl
@[simp] theorem modCommit_trestle (s : State) (i : Nat) (f : Commit → Commit) :
    (modCommit s i f).trestle = s.trestle := rfl
@[simp] theorem modCommit_sched (s : State) (i : Nat) (f : Commit → Commit) : (modCommit s i f).sched = s.sched := rfl
@[simp] theorem modCommit_ctxs (s : State) (i : Nat) (f : Commit → Commit) : (modCommit s i f).ctxs = s.ctxs := rfl
@[simp] theorem modCommit_kidLink (s : State) (i : Nat) (f : Commit → Commit) :
    (modCommit s i f).kidLink = s.kidLink := rfl
@[simp] theorem modCommit_spanLinks (s : State) (i : Nat) (f : Commit → Commit) :
    (modCommit s i f).spanLinks = s.spanLinks := rfl
@[simp] theorem modCommit_kid (s : State) (i : Nat) (f : Commit → Commit) : (modCommit s i f).kid = s.kid := rfl
@[simp] theorem modCommit_span (s : State) (i : Nat) (f : Commit → Commit) : (modCommit s i f).span = s.span := rfl
@[simp] theorem modCommit_deck (s : State) (i : Nat) (f : Commit → Commit) : (modCommit s i f).deck = s.deck := rfl
@[simp] theorem modCommit_nvme (s : State) (i : Nat) (f : Commit → Commit) : (modCommit s i f).nvme = s.nvme := rfl
@[simp] theorem modCommit_heal (s : State) (i : Nat) (f : Commit → Commit) : (modCommit s i f).heal = s.heal := rfl
@[simp] theorem modCommit_parapets (s : State) (i : Nat) (f : Commit → Commit) :
    (modCommit s i f).parapets = s.parapets := rfl
@[simp] theorem modCommit_regs (s : State) (i : Nat) (f : Commit → Commit) : (modCommit s i f).regs = s.regs := rfl
@[simp] theorem modCommit_cfg (s : State) (i : Nat) (f : Commit → Commit) : (modCommit s i f).cfg = s.cfg := rfl
@[simp] theorem modCommit_power (s : State) (i : Nat) (f : Commit → Commit) : (modCommit s i f).power = s.power := rfl
@[simp] theorem modCommit_boot (s : State) (i : Nat) (f : Commit → Commit) : (modCommit s i f).boot = s.boot := rfl
@[simp] theorem modCommit_pads (s : State) (i : Nat) (f : Commit → Commit) : (modCommit s i f).pads = s.pads := rfl
@[simp] theorem modCommit_free (s : State) (i : Nat) (f : Commit → Commit) : (modCommit s i f).free = s.free := rfl
@[simp] theorem modCommit_pending (s : State) (i : Nat) (f : Commit → Commit) :
    (modCommit s i f).pending = s.pending := rfl

/-! ### dropAcc -/

@[simp] theorem dropAcc_clock (s : State) (i : Nat) : (dropAcc s i).clock = s.clock := rfl
@[simp] theorem dropAcc_timing (s : State) (i : Nat) : (dropAcc s i).timing = s.timing := rfl
@[simp] theorem dropAcc_piers (s : State) (i : Nat) : (dropAcc s i).piers = s.piers := rfl
@[simp] theorem dropAcc_trestle (s : State) (i : Nat) : (dropAcc s i).trestle = s.trestle := rfl
@[simp] theorem dropAcc_sched (s : State) (i : Nat) : (dropAcc s i).sched = s.sched := rfl
@[simp] theorem dropAcc_ctxs (s : State) (i : Nat) : (dropAcc s i).ctxs = s.ctxs := rfl
@[simp] theorem dropAcc_kidLink (s : State) (i : Nat) : (dropAcc s i).kidLink = s.kidLink := rfl
@[simp] theorem dropAcc_spanLinks (s : State) (i : Nat) : (dropAcc s i).spanLinks = s.spanLinks := rfl
@[simp] theorem dropAcc_span (s : State) (i : Nat) : (dropAcc s i).span = s.span := rfl
@[simp] theorem dropAcc_deck (s : State) (i : Nat) : (dropAcc s i).deck = s.deck := rfl
@[simp] theorem dropAcc_nvme (s : State) (i : Nat) : (dropAcc s i).nvme = s.nvme := rfl
@[simp] theorem dropAcc_heal (s : State) (i : Nat) : (dropAcc s i).heal = s.heal := rfl
@[simp] theorem dropAcc_tables (s : State) (i : Nat) : (dropAcc s i).tables = s.tables := rfl
@[simp] theorem dropAcc_parapets (s : State) (i : Nat) : (dropAcc s i).parapets = s.parapets := rfl
@[simp] theorem dropAcc_regs (s : State) (i : Nat) : (dropAcc s i).regs = s.regs := rfl
@[simp] theorem dropAcc_cfg (s : State) (i : Nat) : (dropAcc s i).cfg = s.cfg := rfl
@[simp] theorem dropAcc_power (s : State) (i : Nat) : (dropAcc s i).power = s.power := rfl
@[simp] theorem dropAcc_boot (s : State) (i : Nat) : (dropAcc s i).boot = s.boot := rfl
@[simp] theorem dropAcc_pads (s : State) (i : Nat) : (dropAcc s i).pads = s.pads := rfl
@[simp] theorem dropAcc_free (s : State) (i : Nat) : (dropAcc s i).free = s.free := rfl
@[simp] theorem dropAcc_pending (s : State) (i : Nat) : (dropAcc s i).pending = s.pending := rfl

/-! ### setSlots -/

@[simp] theorem setSlots_clock (s : State) (id : Nat) (zs : List ApplySlot) : (setSlots s id zs).clock = s.clock := rfl
@[simp] theorem setSlots_timing (s : State) (id : Nat) (zs : List ApplySlot) :
    (setSlots s id zs).timing = s.timing := rfl
@[simp] theorem setSlots_piers (s : State) (id : Nat) (zs : List ApplySlot) : (setSlots s id zs).piers = s.piers := rfl
@[simp] theorem setSlots_trestle (s : State) (id : Nat) (zs : List ApplySlot) :
    (setSlots s id zs).trestle = s.trestle := rfl
@[simp] theorem setSlots_sched (s : State) (id : Nat) (zs : List ApplySlot) : (setSlots s id zs).sched = s.sched := rfl
@[simp] theorem setSlots_ctxs (s : State) (id : Nat) (zs : List ApplySlot) : (setSlots s id zs).ctxs = s.ctxs := rfl
@[simp] theorem setSlots_kidLink (s : State) (id : Nat) (zs : List ApplySlot) :
    (setSlots s id zs).kidLink = s.kidLink := rfl
@[simp] theorem setSlots_spanLinks (s : State) (id : Nat) (zs : List ApplySlot) :
    (setSlots s id zs).spanLinks = s.spanLinks := rfl
@[simp] theorem setSlots_kid (s : State) (id : Nat) (zs : List ApplySlot) : (setSlots s id zs).kid = s.kid := rfl
@[simp] theorem setSlots_span (s : State) (id : Nat) (zs : List ApplySlot) : (setSlots s id zs).span = s.span := rfl
@[simp] theorem setSlots_deck (s : State) (id : Nat) (zs : List ApplySlot) : (setSlots s id zs).deck = s.deck := rfl
@[simp] theorem setSlots_nvme (s : State) (id : Nat) (zs : List ApplySlot) : (setSlots s id zs).nvme = s.nvme := rfl
@[simp] theorem setSlots_heal (s : State) (id : Nat) (zs : List ApplySlot) : (setSlots s id zs).heal = s.heal := rfl
@[simp] theorem setSlots_parapets (s : State) (id : Nat) (zs : List ApplySlot) :
    (setSlots s id zs).parapets = s.parapets := rfl
@[simp] theorem setSlots_regs (s : State) (id : Nat) (zs : List ApplySlot) : (setSlots s id zs).regs = s.regs := rfl
@[simp] theorem setSlots_cfg (s : State) (id : Nat) (zs : List ApplySlot) : (setSlots s id zs).cfg = s.cfg := rfl
@[simp] theorem setSlots_power (s : State) (id : Nat) (zs : List ApplySlot) : (setSlots s id zs).power = s.power := rfl
@[simp] theorem setSlots_boot (s : State) (id : Nat) (zs : List ApplySlot) : (setSlots s id zs).boot = s.boot := rfl
@[simp] theorem setSlots_pads (s : State) (id : Nat) (zs : List ApplySlot) : (setSlots s id zs).pads = s.pads := rfl
@[simp] theorem setSlots_free (s : State) (id : Nat) (zs : List ApplySlot) : (setSlots s id zs).free = s.free := rfl
@[simp] theorem setSlots_pending (s : State) (id : Nat) (zs : List ApplySlot) :
    (setSlots s id zs).pending = s.pending := rfl

/-! ### setCtl -/

@[simp] theorem setCtl_clock (s : State) (k : Nat) (c : NvmeCtl) : (setCtl s k c).clock = s.clock := rfl
@[simp] theorem setCtl_timing (s : State) (k : Nat) (c : NvmeCtl) : (setCtl s k c).timing = s.timing := rfl
@[simp] theorem setCtl_piers (s : State) (k : Nat) (c : NvmeCtl) : (setCtl s k c).piers = s.piers := rfl
@[simp] theorem setCtl_trestle (s : State) (k : Nat) (c : NvmeCtl) : (setCtl s k c).trestle = s.trestle := rfl
@[simp] theorem setCtl_sched (s : State) (k : Nat) (c : NvmeCtl) : (setCtl s k c).sched = s.sched := rfl
@[simp] theorem setCtl_ctxs (s : State) (k : Nat) (c : NvmeCtl) : (setCtl s k c).ctxs = s.ctxs := rfl
@[simp] theorem setCtl_kidLink (s : State) (k : Nat) (c : NvmeCtl) : (setCtl s k c).kidLink = s.kidLink := rfl
@[simp] theorem setCtl_spanLinks (s : State) (k : Nat) (c : NvmeCtl) : (setCtl s k c).spanLinks = s.spanLinks := rfl
@[simp] theorem setCtl_kid (s : State) (k : Nat) (c : NvmeCtl) : (setCtl s k c).kid = s.kid := rfl
@[simp] theorem setCtl_span (s : State) (k : Nat) (c : NvmeCtl) : (setCtl s k c).span = s.span := rfl
@[simp] theorem setCtl_deck (s : State) (k : Nat) (c : NvmeCtl) : (setCtl s k c).deck = s.deck := rfl
@[simp] theorem setCtl_heal (s : State) (k : Nat) (c : NvmeCtl) : (setCtl s k c).heal = s.heal := rfl
@[simp] theorem setCtl_tables (s : State) (k : Nat) (c : NvmeCtl) : (setCtl s k c).tables = s.tables := rfl
@[simp] theorem setCtl_parapets (s : State) (k : Nat) (c : NvmeCtl) : (setCtl s k c).parapets = s.parapets := rfl
@[simp] theorem setCtl_regs (s : State) (k : Nat) (c : NvmeCtl) : (setCtl s k c).regs = s.regs := rfl
@[simp] theorem setCtl_cfg (s : State) (k : Nat) (c : NvmeCtl) : (setCtl s k c).cfg = s.cfg := rfl
@[simp] theorem setCtl_power (s : State) (k : Nat) (c : NvmeCtl) : (setCtl s k c).power = s.power := rfl
@[simp] theorem setCtl_boot (s : State) (k : Nat) (c : NvmeCtl) : (setCtl s k c).boot = s.boot := rfl
@[simp] theorem setCtl_pads (s : State) (k : Nat) (c : NvmeCtl) : (setCtl s k c).pads = s.pads := rfl
@[simp] theorem setCtl_free (s : State) (k : Nat) (c : NvmeCtl) : (setCtl s k c).free = s.free := rfl
@[simp] theorem setCtl_pending (s : State) (k : Nat) (c : NvmeCtl) : (setCtl s k c).pending = s.pending := rfl

/-! ### setTiming -/

@[simp] theorem setTiming_clock (s : State) (p : Nat) (t : PortTiming) : (setTiming s p t).clock = s.clock := rfl
@[simp] theorem setTiming_timing (s : State) (p : Nat) (t : PortTiming) : (setTiming s p t).timing = s.timing := rfl
@[simp] theorem setTiming_piers (s : State) (p : Nat) (t : PortTiming) : (setTiming s p t).piers = s.piers := rfl
@[simp] theorem setTiming_trestle (s : State) (p : Nat) (t : PortTiming) : (setTiming s p t).trestle = s.trestle := rfl
@[simp] theorem setTiming_sched (s : State) (p : Nat) (t : PortTiming) : (setTiming s p t).sched = s.sched := rfl
@[simp] theorem setTiming_ctxs (s : State) (p : Nat) (t : PortTiming) : (setTiming s p t).ctxs = s.ctxs := rfl
@[simp] theorem setTiming_kidLink (s : State) (p : Nat) (t : PortTiming) : (setTiming s p t).kidLink = s.kidLink := rfl
@[simp] theorem setTiming_spanLinks (s : State) (p : Nat) (t : PortTiming) :
    (setTiming s p t).spanLinks = s.spanLinks := rfl
@[simp] theorem setTiming_kid (s : State) (p : Nat) (t : PortTiming) : (setTiming s p t).kid = s.kid := rfl
@[simp] theorem setTiming_deck (s : State) (p : Nat) (t : PortTiming) : (setTiming s p t).deck = s.deck := rfl
@[simp] theorem setTiming_nvme (s : State) (p : Nat) (t : PortTiming) : (setTiming s p t).nvme = s.nvme := rfl
@[simp] theorem setTiming_heal (s : State) (p : Nat) (t : PortTiming) : (setTiming s p t).heal = s.heal := rfl
@[simp] theorem setTiming_tables (s : State) (p : Nat) (t : PortTiming) : (setTiming s p t).tables = s.tables := rfl
@[simp] theorem setTiming_parapets (s : State) (p : Nat) (t : PortTiming) :
    (setTiming s p t).parapets = s.parapets := rfl
@[simp] theorem setTiming_regs (s : State) (p : Nat) (t : PortTiming) : (setTiming s p t).regs = s.regs := rfl
@[simp] theorem setTiming_cfg (s : State) (p : Nat) (t : PortTiming) : (setTiming s p t).cfg = s.cfg := rfl
@[simp] theorem setTiming_power (s : State) (p : Nat) (t : PortTiming) : (setTiming s p t).power = s.power := rfl
@[simp] theorem setTiming_boot (s : State) (p : Nat) (t : PortTiming) : (setTiming s p t).boot = s.boot := rfl
@[simp] theorem setTiming_pads (s : State) (p : Nat) (t : PortTiming) : (setTiming s p t).pads = s.pads := rfl
@[simp] theorem setTiming_free (s : State) (p : Nat) (t : PortTiming) : (setTiming s p t).free = s.free := rfl
@[simp] theorem setTiming_pending (s : State) (p : Nat) (t : PortTiming) : (setTiming s p t).pending = s.pending := rfl

/-! ### setAudit -/

@[simp] theorem setAudit_clock (s : State) (f : Audit → Audit) : (setAudit s f).clock = s.clock := rfl
@[simp] theorem setAudit_timing (s : State) (f : Audit → Audit) : (setAudit s f).timing = s.timing := rfl
@[simp] theorem setAudit_piers (s : State) (f : Audit → Audit) : (setAudit s f).piers = s.piers := rfl
@[simp] theorem setAudit_trestle (s : State) (f : Audit → Audit) : (setAudit s f).trestle = s.trestle := rfl
@[simp] theorem setAudit_sched (s : State) (f : Audit → Audit) : (setAudit s f).sched = s.sched := rfl
@[simp] theorem setAudit_ctxs (s : State) (f : Audit → Audit) : (setAudit s f).ctxs = s.ctxs := rfl
@[simp] theorem setAudit_kidLink (s : State) (f : Audit → Audit) : (setAudit s f).kidLink = s.kidLink := rfl
@[simp] theorem setAudit_spanLinks (s : State) (f : Audit → Audit) : (setAudit s f).spanLinks = s.spanLinks := rfl
@[simp] theorem setAudit_kid (s : State) (f : Audit → Audit) : (setAudit s f).kid = s.kid := rfl
@[simp] theorem setAudit_span (s : State) (f : Audit → Audit) : (setAudit s f).span = s.span := rfl
@[simp] theorem setAudit_nvme (s : State) (f : Audit → Audit) : (setAudit s f).nvme = s.nvme := rfl
@[simp] theorem setAudit_heal (s : State) (f : Audit → Audit) : (setAudit s f).heal = s.heal := rfl
@[simp] theorem setAudit_tables (s : State) (f : Audit → Audit) : (setAudit s f).tables = s.tables := rfl
@[simp] theorem setAudit_parapets (s : State) (f : Audit → Audit) : (setAudit s f).parapets = s.parapets := rfl
@[simp] theorem setAudit_regs (s : State) (f : Audit → Audit) : (setAudit s f).regs = s.regs := rfl
@[simp] theorem setAudit_cfg (s : State) (f : Audit → Audit) : (setAudit s f).cfg = s.cfg := rfl
@[simp] theorem setAudit_power (s : State) (f : Audit → Audit) : (setAudit s f).power = s.power := rfl
@[simp] theorem setAudit_boot (s : State) (f : Audit → Audit) : (setAudit s f).boot = s.boot := rfl
@[simp] theorem setAudit_pads (s : State) (f : Audit → Audit) : (setAudit s f).pads = s.pads := rfl
@[simp] theorem setAudit_free (s : State) (f : Audit → Audit) : (setAudit s f).free = s.free := rfl
@[simp] theorem setAudit_pending (s : State) (f : Audit → Audit) : (setAudit s f).pending = s.pending := rfl
/-! ### What the updates read back -/

@[simp] theorem setCtx_find (s : State) (c : Nat) (x : Ctx) : NMap.find? (setCtx s c x).ctxs c = some x :=
  find_set_same _ _ _

@[simp] theorem getPier_setPier (s : State) (p : Nat) (x : Pier) : getPier (setPier s p x) p = x := by
  simp [getPier, setPier, NMap.getD]

@[simp] theorem getCtl_setCtl (s : State) (k : Nat) (c : NvmeCtl) : getCtl (setCtl s k c) k = c := by
  simp [getCtl, setCtl, NMap.getD]

end Sys2Proof.Machine
end

