-- ==== Sys2Proof/Tests/Slice0.lean ====
section
/-!
SUPPORT. Tests: for every statement of Obligations.lean that has hypotheses, something that meets them, clause by clause
(`hyp_<statement>`); the worked examples and test vectors of the spec; single operators on small columns; and an
ill-formed command for each check of WellFormed.
-/

namespace Sys2Proof.Tests

open Sys2Proof Sys2Proof.Machine

set_option Elab.async false

/-! ### Small states for the tests -/

/-- A base image with sections of the given types. -/
def imageOf (secs : List (Nat × List Byte)) : List Byte :=
  let heads := secs.foldl (fun (a : List Byte × Nat) q =>
    (a.1 ++ natLE q.1 4 ++ natLE q.2.length 4 ++ natLE a.2 8, a.2 + q.2.length)) ([], 64 + 16 * secs.length)
  zeros 4 ++ natLE secs.length 1 ++ zeros 59 ++ heads.1 ++ secs.flatMap (·.2)

/-- A package with a base image and overlay 0. -/
def packOf (base ov : List Byte) : List Byte :=
  zeros 64 ++ natLE 192 8 ++ natLE base.length 8 ++ natLE (192 + base.length) 8 ++ natLE ov.length 8 ++ zeros 96 ++ base ++ ov

/-- Device 3, root 1, standby 3, parent port 0, alternate 1; M = 4 GiB, D = 1 GiB, C = 2 GiB. -/
def deviceSection : List Byte := natLE 3 2 ++ natLE 1 2 ++ natLE 3 2 ++ [0#8, 1#8] ++ natLE 4 4 ++ natLE 1 4 ++ natLE 2 4 ++ zeros 12

/-- The package of the tests: a host window of 1 MiB, NVMe target 0 of context 5, a route to device 9 by port 0, an inbound
window of 1 MiB at 2 GiB for context 5, and overlay 0 with a 100 W cap. -/
def testPackAt (window : Nat) : List Byte :=
  packOf (imageOf [(1, deviceSection), (2, natLE 0 8 ++ natLE 0x100000 8),
    (3, zeros 8 ++ natLE 0 8 ++ natLE 0x10000 8 ++ natLE 5 8),
    (4, zeros 36 ++ [1#8, 0#8, 1#8, 0#8]),
    (5, natLE window 8 ++ natLE 0x100000 8 ++ natLE 0 2 ++ natLE 4095 2 ++ natLE 5 2 ++ [15#8] ++ zeros 9)])
    (zeros 6 ++ [2#8, 0#8] ++ natLE 100 2 ++ natLE 0 2 ++ zeros 52)

def testPack : List Byte := testPackAt 0x80000000

/-- The same with the window at host memory. -/
def hostPack : List Byte := testPackAt 0x8000000000000

/-- In service with a configuration: the clock runs, the dies are on, no context exists. -/
def live : State := { State.reset with
  clock := { running := true, ticks := 2 ^ 26, count := 2 ^ 27 }
  trestle := { State.reset.trestle with on := true }
  boot := { State.reset.boot with phase := 4, fuses := [(0, 0#8), (1, 0#8), (2, 0#8), (3, 0#8)] }
  cfg := { State.reset.cfg with loaded := true, package := testPack } }

/-- Four hypotheses that are decided at once, before the others. -/
theorem and4 {a b c d r : Prop} (h : a ∧ b ∧ c ∧ d) (k : r) : a ∧ b ∧ c ∧ d ∧ r := ⟨h.1, h.2.1, h.2.2.1, h.2.2.2, k⟩

/-- The head of a package whose slot table 0 holds one frame of 1,114,112 bytes. -/
def framesHead : List Byte :=
  zeros 64 ++ natLE 192 8 ++ natLE 1114192 8 ++ zeros 112 ++
  (zeros 4 ++ natLE 1 1 ++ zeros 59 ++ natLE 8 4 ++ natLE 1114112 4 ++ natLE 80 8)

theorem leAt_append (a b : List Byte) (off len : Nat) (h : off + len ≤ a.length) : leAt (a ++ b) off len = leAt a off len := by
  unfold leAt
  rw [List.drop_append_of_le_length (by omega), List.take_append_of_le_length (by simp; omega)]

def framesState (z : List Byte) : State := { live with
  trestle := { live.trestle with nextTable := some (1, 7) }, cfg := { live.cfg with package := framesHead ++ z } }

theorem frames_boundary (z : List Byte) (hz : z.length = 1114112) : atBoundary (framesState z) = true := by
  have hb : baseImage (framesState z) = framesHead.drop 192 ++ z := by
    show ((framesHead ++ z).drop (leAt (framesHead ++ z) 64 8)).take
      (leAt (framesHead ++ z) 72 8) = _
    rw [leAt_append _ _ 64 8 (by decide +kernel), leAt_append _ _ 72 8 (by decide +kernel),
      show leAt framesHead 64 8 = 192 by decide +kernel, show leAt framesHead 72 8 = 1114192 by decide +kernel,
      List.drop_append_of_le_length (by decide +kernel)]
    refine List.take_of_length_le ?_
    rw [List.length_append, show (framesHead.drop 192).length = 80 by decide +kernel]
    omega
  have hs : (cfgSection (framesState z) 8).length = 1114112 := by
    unfold cfgSection sectionIn
    rw [hb]
    have h4 : leAt (framesHead.drop 192 ++ z) 4 1 = 1 := by
      rw [leAt_append _ _ _ _ (by decide +kernel)]; decide +kernel
    have h8 : leAt (framesHead.drop 192 ++ z) 64 1 = 8 := by
      rw [leAt_append _ _ _ _ (by decide +kernel)]; decide +kernel
    have ho : leAt (framesHead.drop 192 ++ z) 72 8 = 80 := by
      rw [leAt_append _ _ _ _ (by decide +kernel)]; decide +kernel
    have hl : leAt (framesHead.drop 192 ++ z) 68 4 = 1114112 := by
      rw [leAt_append _ _ _ _ (by decide +kernel)]; decide +kernel
    simp only [h4, List.range_one, List.find?, Nat.mul_zero, Nat.add_zero, h8, beq_self_eq_true, Option.map_some,
      Option.getD_some, Nat.reduceAdd, ho, hl]
    rw [List.length_take, List.drop_append_of_le_length (by decide +kernel), List.length_append,
      show ((framesHead.drop 192).drop 80).length = 0 by decide +kernel]
    omega
  unfold atBoundary cycleSlots framesOf
  rw [show (framesState z).trestle.table = 0 from rfl, hs]
  show (1114112 / (1024 * 272 * 4) * 1024 != 0 && (0 - 0) % (1114112 / (1024 * 272 * 4) * 1024) == 0) = true
  decide +kernel

/-- A firmware image of a bare header, signed under the key whose private number is 1, in the flash of a device that holds
the key's hash. -/
def imageKey : List Byte := pairBytes (p521Gx, p521Gy)

def testImage : List Byte :=
  natLE 0x57464C49 4 ++ natLE 1 4 ++ natLE 256 4 ++ zeros 52 ++ imageKey ++ zeros 60

def imageSig : Nat × Nat := (p521Gx, 0xc68abae05448ee26e358c7c90760eb21b7b8f5016a5635f6ffd1e2e3a8e8263b2a8d25c82c6cfabbbfb1b7bca8cc8b996b413b31105efe6419f4b8df4c3fe50652)

def numbered (from_ : Nat) : List Byte → NMap Byte
  | [] => []
  | b :: bs => (from_, b) :: numbered (from_ + 1) bs

def romState : State := { State.reset with
  clock := { State.reset.clock with running := true }
  boot := { State.reset.boot with flash := numbered 0 (testImage ++ pairBytes imageSig), fuses := numbered 0x40 (sha512 imageKey ++ zeros 208) } }

/-! ### Bare frames

A frame of a 16-byte head and nothing else.  Its credit counts (bytes 8 to 15, R308) are such that the CRC register is zero
after the head; zero bytes leave it so, and the CRC of the message is all ones (R305). -/

def bareFrame (head : List Byte) : Frame :=
  { bytes := head ++ (zeros 30816 ++ List.replicate 8 0xFF#8), corrected := 3, uncorrectable := 0 }

theorem crc_zeros (n : Nat) : (zeros n).foldl (crcByte crc64Poly) 0#64 = 0#64 := by
  induction n with
  | zero => rfl
  | succ n ih =>
    show (List.replicate n 0#8).foldl (crcByte crc64Poly) (crcByte crc64Poly 0#64 0#8) = 0#64
    rw [show crcByte crc64Poly 0#64 0#8 = 0#64 by decide +kernel]
    exact ih

theorem mid_zeros (head tail : List Byte) (n o k : Nat) (h1 : head.length ≤ o) (h2 : o + k ≤ head.length + n) :
    ((head ++ (zeros n ++ tail)).drop o).take k = zeros k := by
  rw [List.drop_append, List.drop_of_length_le h1, List.nil_append,
    List.drop_append_of_le_length (by rw [zeros, List.length_replicate]; omega), zeros, List.drop_replicate,
    List.take_append_of_le_length (by rw [List.length_replicate]; omega), List.take_replicate]
  rw [show min k (n - (o - head.length)) = k by omega]; rfl

theorem leNat_zeros (n : Nat) : leNat (zeros n) = 0 := by
  induction n with
  | zero => rfl
  | succ n ih => show (0#8).toNat + 256 * leNat (zeros n) = 0; rw [ih]; rfl

theorem slice_mid (head tail : List Byte) (n o k : Nat) (h1 : head.length ≤ o) (h2 : o + k ≤ head.length + n) :
    slice (head ++ (zeros n ++ tail)) o k = zeros k := by
  unfold slice
  rw [mid_zeros head tail n o k h1 h2]
  simp [zeros]

theorem leAt_mid (head tail : List Byte) (n o k : Nat) (h1 : head.length ≤ o) (h2 : o + k ≤ head.length + n) :
    leAt (head ++ (zeros n ++ tail)) o k = 0 := by
  unfold leAt
  rw [mid_zeros head tail n o k h1 h2, leNat_zeros]

theorem allZero_zeros (n : Nat) : allZero (zeros n) = true := by simp [allZero, zeros]

theorem bare_slots (head : List Byte) (hl : head.length = 16) :
    ∀ q ∈ frameSlots (bareFrame head).bytes, q = (0, 0, zeros 256) := by
  intro q hq
  simp only [frameSlots, bareFrame, List.mem_map, List.mem_range] at hq
  obtain ⟨i, hi, rfl⟩ := hq
  rw [leAt_mid _ _ _ _ _ (by omega) (by omega), slice_mid _ _ _ _ _ (by omega) (by omega)]

theorem bare_headers (head : List Byte) (hl : head.length = 16) (places n : Nat) (hn : n * places ≤ 112) :
    frameHeaders (bareFrame head).bytes places n = [] := by
  have hs := bare_slots head hl
  simp only [frameHeaders, List.filter_eq_nil_iff, List.mem_append, List.mem_map, List.mem_range, List.mem_flatMap]
  rintro h (⟨i, hi, rfl⟩ | ⟨q, hq, hh⟩)
  · have h1 : n * i + n ≤ n * places := by rw [← Nat.mul_succ]; exact Nat.mul_le_mul_left n hi
    rw [bareFrame, slice_mid _ _ _ _ _ (by omega) (by omega), allZero_zeros]
    decide
  · rw [hs q hq] at hh
    simp at hh

theorem bare_empty (p : Nat) (head : List Byte) (hl : head.length = 16)
    (hc : head.foldl (crcByte crc64Poly) 0xFFFFFFFFFFFFFFFF#64 = 0#64) (h4 : leAt head 4 1 = 1 ∨ leAt head 4 1 = 2 ∨ leAt head 4 1 = 4)
    (h5 : leAt head 5 1 = 0) (h6 : slice head 6 2 = zeros 2) : EmptyFrame p (bareFrame head) := by
  refine ⟨?_, ?_, ?_, ?_⟩
  · have ht : (bareFrame head).bytes.take 30832 = head ++ zeros 30816 := by
      rw [bareFrame, ← List.append_assoc, List.take_append_of_le_length
        (by rw [List.length_append, zeros, List.length_replicate]; omega), List.take_of_length_le
        (by rw [List.length_append, zeros, List.length_replicate]; omega)]
    have hd : leAt (bareFrame head).bytes 30832 8 = 2 ^ 64 - 1 := by
      unfold leAt
      rw [bareFrame, ← List.append_assoc, List.drop_append_of_le_length
        (by rw [List.length_append, zeros, List.length_replicate]; omega), List.drop_of_length_le
        (by rw [List.length_append, zeros, List.length_replicate]; omega)]
      decide +kernel
    unfold frameGood
    rw [ht, hd, crc64, List.foldl_append, hc, crc_zeros]
    show ((0 : Nat) == 0 && (0#64 ^^^ 0xFFFFFFFFFFFFFFFF#64).toNat == 2 ^ 64 - 1) = true
    decide +kernel
  · have h5' : leAt (bareFrame head).bytes 5 1 = 0 := by rw [bareFrame, leAt_append _ _ _ _ (by omega), h5]
    have h6' : slice (bareFrame head).bytes 6 2 = zeros 2 := by
      rw [bareFrame, slice, List.drop_append_of_le_length (by omega), List.take_append_of_le_length (by simp; omega)]
      exact h6
    have h4' : leAt (bareFrame head).bytes 4 1 = leAt head 4 1 := by rw [bareFrame, leAt_append _ _ _ _ (by omega)]
    unfold frameReserved
    rw [h4', h5', h6', show slice (bareFrame head).bytes 254 2 = zeros 2 from slice_mid _ _ _ _ _ (by omega) (by omega),
      allZero_zeros]
    rcases h4 with h | h | h <;> rw [h] <;> split <;> rfl
  · split
    · exact bare_headers head hl 7 16 (by omega)
    · exact bare_headers head hl 3 32 (by omega)
  · intro q hq
    rw [bare_slots head hl q hq]
    exact ⟨rfl, rfl⟩

theorem bare_field (head : List Byte) (o n : Nat) (h : o + n ≤ head.length) : leAt (bareFrame head).bytes o n = leAt head o n :=
  leAt_append _ _ _ _ h

def normalHead : List Byte :=
  [0#8, 0#8, 5#8, 0#8, 1#8, 0#8, 0#8, 0#8, 184#8, 114#8, 4#8, 138#8, 205#8, 41#8, 52#8, 33#8]

def replayHead : List Byte :=
  [0#8, 0#8, 5#8, 0#8, 2#8, 0#8, 0#8, 0#8, 220#8, 144#8, 113#8, 236#8, 47#8, 183#8, 7#8, 7#8]

def ackHead : List Byte :=
  [0#8, 0#8, 5#8, 0#8, 4#8, 0#8, 0#8, 0#8, 20#8, 84#8, 154#8, 32#8, 235#8, 138#8, 96#8, 75#8]

/-- A NORMAL frame of this number that carries nothing. -/
def sent0 (seq : Nat) : Sent := { seq := seq, ack := 0, kind := 1, credits := [], hdrs := [], slots := [], timing := none }

def linked : State := { live with kidLink := { live.kidLink with
  st := .active, replay := [sent0 5, sent0 6] } }

/-! ### Small contexts -/

/-- Host memory of device 3 at an offset. -/
def hostAt (o : Nat) : Nat := 3 * 2 ^ 52 + 0x8000000000000 + o

/-- The Deck of device 3 at an offset. -/
def deckAt (o : Nat) : Nat := 3 * 2 ^ 52 + o

def ring0 : Ring :=
  { subBase := hostAt 0x1000, cqBase := hostAt 0x2000, statusAddr := hostAt 0x3000, subLog := 4, cqLog := 4
    cacheable := false, tail := 0, cqHead := 0, head := none, arg := none, argFail := none, consumed := 0, written := 0
    blocked := none, depSince := none, descs := [], wake := none, gen := 0, statusDirty := false, statusBusy := false
    itemsReleased := 0, quarantined := 0, mem := [], asked := [], waiting := 0, memFail := false }

def ctx0 : Ctx :=
  { st := .active, maxPrio := 3, backPressure := false, pinned := false, fifo := false, quota := 64, reservation := 0
    landing := 65536, tensorTable := 64, recordBudget := 1000000, itemBudget := 1000000, timeout := 2 ^ 24
    slice := 2 ^ 20, ratio := 1024, maxRecord := 2 ^ 20, cachePages := 0, stagePages := 0, haltPages := 1
    qlog := Log.none, hlog := Log.none, trace := Log.none, traceMask := 0, rings := [(2, ring0)]
    chains := [], ranges := [], tensors := [], streams := [], halts := [], nextHalt := 1, cache := [], stage := []
    queues := [], journal := { base := hostAt 0x4000, len := 65536, head := 0, next := 0, nextBlock := 0, frames := [] }
    sets := [], resident := true, sliceStart := 0, draining := false, swap := [], sentData := [], areaBase := 0
    poolBase := 0, closing := false, saves := [] }

/-- `live` with context 5. -/
def withCtx (x : Ctx) : State := { live with ctxs := [(5, x)] }

/-- Context 5 with ring 2. -/
def withRing (y : Ring) : State := withCtx { ctx0 with rings := [(2, y)] }

/-- An item of descriptor 0 of ring 2 of context 5, chain 7, flow 1. -/
def item0 : Item := freshItem ctx0 5 2 0 7 1 0 0 0 []

/-- Item 0 beside context 5. -/
def withItem (x : Ctx) (it : Item) : State :=
  { live with ctxs := [(5, x)], sched := { live.sched with items := [(0, it)], nextItem := 1 } }

/-- An access of eight bytes of host memory for an owner. -/
def acc0 (o : Owner) (write : Bool) : Acc :=
  { owner := o, addr := hostAt 64, len := 8, write := write, data := if write then zeros 8 else [], shared := false
    context := 5, tmpl := none, first := 0, st := .flying }

/-- Access 0 under tag 4,095. -/
def withAcc (s : State) (a : Acc) : State :=
  { s with kid := { s.kid with tags := [(4095, 0)], accs := [(0, a)], nextAcc := 1 } }

/-- Access 0 failed, and due again. -/
def failedAcc (a : Acc) : Acc := { a with st := .failed 4 0 }

/-- A header from device 9 to device 3 for context 5 at 2 GiB of its Deck. -/
def hdr0 (opcode op length : Nat) : SpanHdr :=
  { opcode := opcode, op := op, channel := 7, hops := 12, resend := false, src := 9, dst := 3, context := 5, queue := 0
    seq := 0, length := length, step := 0, address := deckAt 0x80000000 }

/-- A state with Span port 7 ACTIVE. -/
def peered (s : State) : State := { s with spanLinks := [(7, { Link.reset with st := .active })] }

def queue0 : MergeQueue :=
  { rows := false, ufmt := fFp32, elems := 2, keyLimit := 16, cap := 8, sources := [9, 10], tableSet := 0, table := 0
    stateTable := none, dense := 3, params := [], first := 1, next := 1, steps := [], finals := [], toApply := 1, u0 := 0, started := 0
    dying := false }

/-! ### A small table

Table 77 in slot 0 of the set at 2 GiB + 0x2000: one group of 4,096 rows of four FP32 elements at 2 GiB + 0x10000, its
backing copy in host memory at 0x10000. -/

def tableAt : Nat := 0x80000000

def testDesc : List Byte :=
  zeros 8 ++ natLE 77 8 ++ natLE 4096 8 ++ natLE 4 2 ++ [0x10#8, 0#8, 0#8, 0#8, 1#8, 0#8] ++ zeros 16 ++ natLE 1 8 ++ zeros 8 ++
  natLE (tableAt + 0x1000) 8 ++ natLE 1 4 ++ zeros 180

def testEntry : DEntry :=
  { loc := tableAt + 0x10000, backing := 2 ^ 62 + 0x10000, fmt := 0x10, state := 0, flags := 4, sat := 0, hits := 0
    stride := 16, leaf := zeros 32 }

def tableMem : Mem :=
  memPut zeroByte (memPut zeroByte (memPut zeroByte [] tableAt testDesc) (tableAt + 0x1000) (entryBytes testEntry))
    (tableAt + 0x2000) (natLE (2 ^ 63 + tableAt) 8 ++ natLE 1 8)

def testVer : Version :=
  { setBase := tableAt + 0x2000, slot := 0, desc := tableAt, version := 1, tableId := 77, ctx := 5, current := true
    retired := false, by_ := none, freeTail := [] }

/-- A state with the table as version 0. -/
def withTable (s : State) : State :=
  { s with deck := { s.deck with mem := tableMem }, tables := { s.tables with versions := [(0, testVer)], nextVer := 1 } }

def rebuild0 : Rebuild :=
  { ver := 0, group := 0, extents := [], state := none, prior := 0, statePrior := 0, running := true, frame := [], asked := []
    waiting := 0, once := [], fatal := none, spill := none, since := 0, written := true }

/-! The backing copy of the group as a STORED frame: the payload is four bytes of ones, which take the CRC register to zero,
and zeros (R284, R285). -/

def backHead : List Byte :=
  natLE 0x46434C49 4 ++ zeros 4 ++ natLE 65536 4 ++ natLE 65536 4 ++ natLE 0xFFFFFFFF 4

def backRest : List Byte := natLE 77 8 ++ natLE (1 * 2 ^ 32) 8 ++ zeros 24

def backFrame : Mem :=
  memPut zeroByte [] (hostAt 0x10000)
    (backHead ++ natLE (crc32c (backHead ++ backRest)).toNat 4 ++ backRest ++ zeros 64 ++ List.replicate 4 0xFF#8)

theorem take_add (m : Mem) (a n k : Nat) : memTake zeroByte m a (n + k) = memTake zeroByte m a n ++ memTake zeroByte m (a + n) k := by
  simp [memTake, List.range_add, Nat.add_assoc, Function.comp_def]

theorem find_high (m : Mem) (a : Nat) (h : ∀ c ∈ m, c.1 < a) : NMap.find? m a = none := by
  induction m with
  | nil => rfl
  | cons c m ih =>
    have h0 : c.1 < a := h c (List.mem_cons_self ..)
    have h1 := ih (fun d hd => h d (List.mem_cons_of_mem _ hd))
    obtain ⟨k, v⟩ := c
    simp only [NMap.find?]
    split <;> first | exact h1 | simp_all

theorem take_high (m : Mem) (a n : Nat) (h : ∀ c ∈ m, c.1 < a) : memTake zeroByte m a n = zeros n := by
  have : ∀ k, memGet zeroByte m (a + k) = 0#8 := fun k => by
    simp [memGet, NMap.getD, find_high m (a + k) (fun c hc => Nat.lt_of_lt_of_le (h c hc) (Nat.le_add_right _ _)), zeroByte]
  simp only [memTake, this, zeros]
  rw [List.map_const', List.length_range]

theorem crc32_zeros (n : Nat) : (zeros n).foldl (crcByte 0x82F63B78#32) 0#32 = 0#32 := by
  induction n with
  | zero => rfl
  | succ n ih =>
    show (List.replicate n 0#8).foldl (crcByte 0x82F63B78#32) (crcByte 0x82F63B78#32 0#32 0#8) = 0#32
    rw [show crcByte 0x82F63B78#32 0#32 0#8 = 0#32 by decide +kernel]
    exact ih

def backBody : List Byte := List.replicate 4 0xFF#8 ++ zeros 65532

theorem back_crc : (crc32c backBody).toNat = 0xFFFFFFFF := by
  unfold crc32c backBody
  rw [List.foldl_append, show (List.replicate 4 0xFF#8).foldl (crcByte 0x82F63B78#32) 0xFFFFFFFF#32 = 0#32 by decide +kernel,
    crc32_zeros]
  decide +kernel

theorem back_frame : memTake zeroByte backFrame (hostAt 0x10000) 65664 =
    memTake zeroByte backFrame (hostAt 0x10000) 132 ++ zeros 65532 := by
  rw [show 65664 = 132 + 65532 from rfl, take_add]
  exact congrArg _ (take_high _ _ _ (by decide +kernel))

theorem back_reads : readFrame (memTake zeroByte backFrame (hostAt 0x10000) 65664) 77
    (fun n => n % 2 ^ 32 == 0 && decide (n / 2 ^ 32 ≤ 1)) = some backBody := by
  have hl : (memTake zeroByte backFrame (hostAt 0x10000) 132).length = 132 := by simp [memTake]
  have hat : ∀ o n, o + n ≤ 132 → leAt (memTake zeroByte backFrame (hostAt 0x10000) 65664) o n =
      leAt (memTake zeroByte backFrame (hostAt 0x10000) 132) o n := fun o n h => by
    rw [back_frame, leAt_append _ _ _ _ (by omega)]
  have hs : ∀ o n, o + n ≤ 132 → ((memTake zeroByte backFrame (hostAt 0x10000) 65664).drop o).take n =
      ((memTake zeroByte backFrame (hostAt 0x10000) 132).drop o).take n := fun o n h => by
    rw [back_frame, List.drop_append_of_le_length (by omega), List.take_append_of_le_length (by rw [List.length_drop, hl]; omega)]
  have ht : (memTake zeroByte backFrame (hostAt 0x10000) 65664).take 20 =
      (memTake zeroByte backFrame (hostAt 0x10000) 132).take 20 := hs 0 20 (by omega)
  have hn : (memTake zeroByte backFrame (hostAt 0x10000) 65664).length = 65664 := by simp [memTake]
  have hp : ((memTake zeroByte backFrame (hostAt 0x10000) 65664).drop 128).take 65536 = backBody := by
    rw [back_frame, List.drop_append_of_le_length (by omega), List.take_of_length_le
      (by rw [List.length_append, List.length_drop, hl, zeros, List.length_replicate] <;> omega),
      show (memTake zeroByte backFrame (hostAt 0x10000) 132).drop 128 = List.replicate 4 0xFF#8 by decide +kernel]
    rfl
  have hb : backBody.length = 65536 := by
    rw [backBody, List.length_append, zeros, List.length_replicate, List.length_replicate]
  have hh : frameHeaderOk (memTake zeroByte backFrame (hostAt 0x10000) 65664) = true := by
    unfold frameHeaderOk
    simp only [hn, hat 4 1 (by omega), hat 5 1 (by omega), hat 8 4 (by omega), hat 12 4 (by omega), hat 0 4 (by omega),
      hat 20 4 (by omega), ht, hs 24 40 (by omega), hs 6 2 (by omega), hs 40 24 (by omega)]
    decide +kernel
  have hc : checkArrayLen 0 65536 = 64 := by decide +kernel
  unfold readFrame
  rw [hat 24 8 (by omega), hat 32 8 (by omega), if_pos ⟨hh, by decide +kernel, by decide +kernel⟩]
  unfold frameBody
  simp only [hat 4 1 (by omega), hat 8 4 (by omega), hat 12 4 (by omega), hat 16 4 (by omega),
    show leAt (memTake zeroByte backFrame (hostAt 0x10000) 132) 4 1 = 0 by decide +kernel,
    show leAt (memTake zeroByte backFrame (hostAt 0x10000) 132) 8 4 = 65536 by decide +kernel,
    show leAt (memTake zeroByte backFrame (hostAt 0x10000) 132) 12 4 = 65536 by decide +kernel,
    show leAt (memTake zeroByte backFrame (hostAt 0x10000) 132) 16 4 = 0xFFFFFFFF by decide +kernel,
    hc, if_true, Nat.reduceAdd, hp]
  rw [if_pos ⟨hb, back_crc⟩]

/-- A block of the mirrored region is bad: the first block at 1 GiB, which channel `scrubChan` reads next. -/
def scrubChan : Nat := channelOf 0x40000000

def scrubState : State := { live with deck := { live.deck with
  scrub := [(scrubChan, 4 * (0x40000000 / 256 / 512))], bad := [0x40000000 / 64], mem := [(partnerOf 0x40000000, 9#8)] } }

/-- The table's group has a bad block, and its Deck map mirrors nothing there. -/
def badTable : State := { withTable (withCtx ctx0) with deck := { (withTable live).deck with bad := [(tableAt + 0x10000) / 64] } }

def auditState : State := { withTable live with deck := { (withTable live).deck with
  audit := { live.deck.audit with target := some (0, 0), frame := backFrame } } }

theorem audit_extent : backingExtent auditState (dentry auditState (tdesc auditState tableAt) 0) = (hostAt 0x10000, 65664) := by
  decide +kernel

theorem audit_reads : readFrame (memTake zeroByte auditState.deck.audit.frame
    (backingExtent auditState (dentry auditState (tdesc auditState tableAt) 0)).1
    (backingExtent auditState (dentry auditState (tdesc auditState tableAt) 0)).2)
    (tdesc auditState tableAt).tableId (fun n => n % 2 ^ 32 == 0 && decide (n / 2 ^ 32 ≤ (tdesc auditState tableAt).version)) =
    some backBody := by
  have h1 : (tdesc auditState tableAt).tableId = 77 := by decide +kernel
  have h2 : (tdesc auditState tableAt).version = 1 := by decide +kernel
  have h3 : auditState.deck.audit.frame = backFrame := by simp only [auditState]
  simp only [audit_extent, h1, h2, h3]
  exact back_reads


/-! ### Commands and descriptors at the head of a ring -/

/-- A descriptor with this type byte, this argument address and these bytes from 32 on. -/
def raw0 (type arg : Nat) (rest : List Byte) : List Byte :=
  natLE type 1 ++ zeros 23 ++ natLE arg 8 ++ rest ++ zeros (32 - rest.length)

/-- A chain of one SIGNAL that does nothing. -/
def noopImage : List Byte := [1#8] ++ zeros 63 ++ ([0x48#8] ++ zeros 23 ++ [1#8] ++ zeros 15 ++ natLE (deckAt 0x80020000) 8 ++ zeros 16)

/-- A tensor of FP32 elements in the Deck. -/
def tensor0 : Tensor :=
  { base := deckAt 0x80020000, fmt := fFp32, rank := 1, read := true, write := true, range := 2
    dims := [32, 0, 0, 0, 0, 0], strides := [4, 0, 0, 0, 0, 0], dying := false }

/-- The tensor that names the table set. -/
def setTensor : Tensor :=
  { base := deckAt (tableAt + 0x2000), fmt := 0, rank := 1, read := true, write := true, range := 2
    dims := [16384, 0, 0, 0, 0, 0], strides := [1, 0, 0, 0, 0, 0], dying := false }

/-- Context 5 with host range 1, Deck range 2, tensors 3 and 4 and chain 7. -/
def ctx1 : Ctx := { ctx0 with
  ranges := [(1, { base := hostAt 0, len := 0x100000, read := true, write := true, pageable := false }),
    (2, { base := deckAt tableAt, len := 0x100000, read := true, write := true, pageable := false })]
  tensors := [(3, tensor0), (4, setTensor)], chains := [(7, { image := noopImage, removing := false })] }

/-- Ring 2 with a descriptor at its head and its argument block read. -/
def headRing (raw arg : List Byte) : Ring := { ring0 with head := some raw, arg := some arg, tail := 1 }

def withHead (x : Ctx) (raw arg : List Byte) : State := withCtx { x with rings := [(2, headRing raw arg)] }

/-- Ring 2 with its first command running. -/
def runRing (raw : List Byte) : Ring :=
  { ring0 with descs := [(0, { Desc.fresh raw with running := true })], consumed := 1, tail := 1 }

def withRun (x : Ctx) (raw : List Byte) : State := withCtx { x with rings := [(2, runRing raw)] }

/-- Flow 1 of ring 2. -/
def flow0 : Flow :=
  { next := 0, release := 0, ctx := 5, wlog := 12, draining := false, ring := 2, window := 0, skips := 0, ahead := 0 }

def withFlow (s : State) (f : Flow) : State := { s with sched := { s.sched with flows := [(1, f)] } }

/-- Another FP32 tensor. -/
def tensorB : Tensor := { tensor0 with base := deckAt 0x80021000 }

def view0 : TView := { base := deckAt 0x80020000, fmt := fFp32, dims := [32], strides := [4], first := 0 }

/-- An open halt, of stream slot 1 or of an operator transfer. -/
def halt0 (stream : Bool) : Halt :=
  { stream := stream, which := 1, block := 0, resumable := true, chain := 7, bytes := none, src := view0, dst := view0
    count := 0, runs := [], zero := false, get := false, channel := 0, spread := false, flow := 1, seq := 0
    running := none, phase := 2, cancelled := false, denied := false, landed := [], waiting := 0, fault := [] }

def stream0 : Stream :=
  { desc := zeros 64, ring := 2, idx := 0, armDone := false, delivered := 0, next := 0, blocks := [], cell := 0
    cellBusy := false, halt := none, finished := [], credit := 0, denied := false
    ended := none }

def set0 : ParaSet := { parapet := 1, bankLog2 := 1, firstBank := 2, flow := 1, dying := false }

/-- A queue over the rows of the table. -/
def rowQueue : MergeQueue :=
  { queue0 with rows := true, elems := 4, keyLimit := 4096, tableSet := 4, params := [{ from_ := 1, opt := 0, wb := 0, lr := 0, eps := 0, beta := 0 }] }

/-- A new version of the table, whose one group lies in the plain region. -/
def newDesc : List Byte :=
  natLE 0x42544C49 4 ++ zeros 4 ++ natLE 77 8 ++ natLE 4096 8 ++ natLE 4 2 ++ [0x10#8, 0#8, 0#8, 0#8, 1#8, 0#8] ++ zeros 16 ++
  natLE 2 8 ++ zeros 8 ++ natLE (tableAt + 0x5000) 8 ++ natLE 1 4 ++ zeros 180

def newEntry : DEntry := { testEntry with loc := 2 ^ 32, backing := 2 ^ 62 + 0x20000, flags := 0 }

def withNew (s : State) : State :=
  { s with deck := { s.deck with
    mem := memPut zeroByte (memPut zeroByte tableMem (tableAt + 0x4000) newDesc) (tableAt + 0x5000) (entryBytes newEntry) } }

def commit0 : Commit :=
  { ctx := 5, ring := 2, idx := 0, ver := 0, step := 1, queues := [6], phase := 2, descBase := tableAt + 0x80000
    descLen := 0x10000, poolBase := 2 ^ 62 + 0x40000, poolLen := 0x10000, groupBase := 0, groupLen := 0, writes := 0
    since := 0, newVer := 1, frame := [], asked := [], failed := [], plan := [], deferred := [], block := 3 }

theorem ok_of_some {α β : Type} {e : Except α β} {b : β} (h : e.toOption = some b) : e = .ok b := by
  cases e with
  | ok a => cases h; rfl
  | error _ => cases h

/-- A SUBMIT descriptor. -/
def raw1 (prio chain n flow : Nat) (deps : List Nat) : List Byte :=
  [1#8, 0#8] ++ natLE prio 1 ++ natLE deps.length 1 ++ natLE chain 2 ++ zeros 2 ++ natLE n 4 ++ natLE flow 4 ++ zeros 16 ++
  deps.flatMap (fun d => natLE d 4) ++ zeros (32 - 4 * deps.length)

/-- An admin operation runs on context 5, with the address 1 GiB in the Deck. -/
def adminState (op : Nat) (s : State) : State :=
  { s with regs := { s.regs with adminBusy := op, adminCtx := 5, pairs := NMap.set s.regs.pairs prAdminAddr 0x40000000 } }

def pausedCtx : Ctx := { ctx0 with st := .paused }

def pauseState : State := adminState 3 (withCtx pausedCtx)

/-- The smallest context block. -/
def blockBytes : List Byte := natLE 0x58434C49 4 ++ zeros 4 ++ natLE 1 4 ++ zeros 8 ++ natLE 1 4 ++ zeros 744

theorem sha512_length (m : List Byte) : (sha512 m).length = 64 := by
  simp [sha512, natBE, natLE]

theorem save_key (s : State) : (saveKey s pausedCtx).length = 64 := by
  have hc : pausedCtx.chains = [] := rfl
  have hq : pausedCtx.queues = [] := rfl
  unfold saveKey
  simp [sha512_length, hc, hq]

/-- What the image takes, in units of 4 KiB. -/
def pauseUnits : Nat := (min (2 ^ 30) (Config.saveImage pauseState.free).length + 64 + 4095) / 4096

theorem pause_units : 1 ≤ pauseUnits ∧ pauseUnits ≤ 2 ^ 18 + 1 := by
  have : min (2 ^ 30) (Config.saveImage pauseState.free).length ≤ 2 ^ 30 := Nat.min_le_left _ _
  unfold pauseUnits
  omega

theorem save_units (s : State) (hf : s.sched.flows = []) (hk : s.free = pauseState.free) :
    (saveBytes s 5 pausedCtx).length / 4096 = pauseUnits := by
  unfold saveBytes padTo pauseUnits
  rw [hf, hk, if_neg (by decide)]
  simp only [List.filter_nil, List.flatMap_nil, List.nil_append, List.length_append, save_key, List.length_take, zeros,
    List.length_replicate]
  omega

def pauseRoom : State := { pauseState with regs := { pauseState.regs with words := [(rwAdminLen, pauseUnits)] } }

theorem pause_len : rwGet pauseRoom rwAdminLen = pauseUnits := rfl

theorem pause_room : areaOk pauseRoom (adminAddr pauseRoom) (4096 * max 1 (rwGet pauseRoom rwAdminLen)) true = true := by
  have h := pause_units
  have hm : deckMap pauseRoom = (2 ^ 32, 2 ^ 30, 2 ^ 31) := by decide +kernel
  rw [pause_len, show adminAddr pauseRoom = 0x40000000 by decide +kernel]
  unfold areaOk inMirrored
  rw [hm]
  simp [deckTop]
  omega

/-- Paused, with a save image of 64 zero bytes under this key. -/
def savedCtx (key : List Byte) : Ctx := { pausedCtx with saves := [{ bytes := zeros 64, key := key, flows := []
                                                                     items := [], queues := [], scratch := [], streams := []
                                                                     sets := [] }] }

/-! ### Running items -/

/-- An operator of 64 bytes: code, flags, formats, operand references, count and the bytes from 24 on. -/
def op0 (code flags fin fout : Nat) (refs : List Nat) (count : Nat) (rest : List Byte) : List Byte :=
  natLE code 1 ++ natLE flags 1 ++ natLE fin 1 ++ natLE fout 1 ++ refs.flatMap (fun r => natLE r 4) ++ natLE count 4 ++ rest ++
  zeros (40 - rest.length)

/-- A chain image of these chain buffers, in units of 256 bytes, and operators. -/
def imageOps (bufs : List Nat) (ops : List (List Byte)) : List Byte :=
  natLE ops.length 1 ++ natLE bufs.length 1 ++ zeros 6 ++ bufs.flatMap (fun b => natLE b 2) ++ zeros (56 - 2 * bufs.length) ++
  ops.flatMap id

/-- The descriptor of item 0. -/
def desc0 : Desc := { Desc.fresh (raw1 0 7 1 1 []) with n := 1, firstItem := 0, chain := 7, created := true }

/-- Ring 2 with the SUBMIT of item 0 consumed. -/
def subRing : Ring := { ring0 with consumed := 1, tail := 1, descs := [(0, desc0)] }

/-- Context 5 whose chain 7 is this image. -/
def chainCtx (img : List Byte) : Ctx := { ctx1 with chains := [(7, { image := img, removing := false })], rings := [(2, subRing)] }

/-- Item 0 runs this chain on Pier 255, with flow 1. -/
def onPier (x : Ctx) (it : Item) : State :=
  let sched : Sched := { live.sched with items := [(0, it)], nextItem := 1, flows := [(1, { flow0 with next := 1 })] }
  { live with ctxs := [(5, x)], piers := [(255, { Pier.fresh with item := some 0 })], sched := sched }

def runItem : Item := { item0 with st := .running }

/-! ### Operators over chain buffers -/

/-- A reference to a chain buffer. -/
def buf (k : Nat) : Nat := 2 * 2 ^ 28 + k

/-- A reference to a tensor. -/
def tens (k : Nat) : Nat := 2 ^ 28 + k

/-- A scalar column. -/
def column (fmt : Nat) (codes : List Nat) : Column :=
  { kind := 1, fmt := fmt, valid := false, cells := codes.map (fun v => { present := true, vals := [v] }) }

/-- A column set of these columns. -/
def colSet (rows : Nat) (cols : List Column) : List Byte := ColSet.bytes { rows := rows, cols := cols }

/-- Context 5 whose chain 7 is one operator with chain buffers of 4 KiB, and a Parapet set. -/
def opCtx (op : List Byte) : Ctx := { chainCtx (imageOps [16, 16, 16, 16] [op]) with
  sets := [(9, set0)]
  tensors := [(3, tensor0), (4, setTensor), (6, { tensorB with fmt := 0, dims := [512, 0, 0, 0, 0, 0], strides := [1, 0, 0, 0, 0, 0] })] }

/-- Item 0 is at that operator with these bytes in chain buffers 0 and 1. -/
def opState (op a b : List Byte) : State :=
  onPier (opCtx op) { runItem with bufs := [(0, ⟨a, []⟩), (1, ⟨b, []⟩)] }

/-- What a command leaves in chain buffer 2 of item 0. -/
def outOf (c : Instr) (s : State) : Option (List Byte) :=
  match exec c s with
  | .next t => (getItem t 0).bind (fun it => (NMap.find? it.bufs 2).map (·.bytes))
  | _ => none

def ints : List Byte := colSet 2 [column fInt64 [9, 5]]

/-- One state for each of the operators that give a result at once, in their order. -/
def opStates : List State :=
  [opState (op0 0x08 0 0 0 [buf 0, 0, 0, buf 2] 2 ([1#8] ++ zeros 9)) ints [],
   opState (op0 0x09 0 0 0 [buf 0, 0, 0, buf 2] 2 ([1#8, 0#8, 0#8, 0#8, 0#8, 5#8, 0#8, 0#8] ++ natLE 6 8)) ints [],
   opState (op0 0x0A 0 fInt64 fInt64 [buf 0, 0, 0, buf 2] 2 []) (colSet 2 [column fInt64 [0, 5]]) [],
   opState (op0 0x0B 0 fInt64 fInt32 [buf 0, buf 1, 0, buf 2] 2 ([0#8, 0#8, 0#8, 0#8, 1#8])) ints (natLE 7 8),
   opState (op0 0x0C 0 0 fInt64 [buf 0, buf 1, 0, buf 2] 2 [0#8, 0#8, 0xFF#8, 0#8, 1#8]) ints ints] ++
  [opState (op0 0x0D 0 fFp32 fFp32 [buf 0, buf 1, 0, buf 2] 2 [3#8, 1#8]) (colSet 2 [column fFp32 [0x40000000, 0x40800000]])
     (natLE 0x40000000 4 ++ natLE 0x3F000000 4),
   opState (op0 0x0E 0 fInt64 fInt64 [buf 0, 0, 0, buf 2] 2 (zeros 8 ++ natLE 6 8 ++ natLE 8 8)) ints [],
   opState (op0 0x10 0 0 0 [buf 0, 0, 0, buf 2] 2 [0#8, 1#8]) ints [],
   opState (op0 0x12 0 0 0 [buf 0, buf 1, 0, buf 2] 2 [0#8, 0#8, 1#8, 0#8, 1#8]) ints
     (tableBytes 2 { units := 2, bytesKey := false, bucketLog2 := 8, first := false, seed := 0, fmts := [], valid := 0 }
       [{ ordinal := 0, key := natLE 5 8, payload := [] }]),
   opState (op0 0x13 0 0 0 [buf 0, 0, 0, buf 2] 2 ([0xFF#8, 1#8] ++ zeros 6 ++ [2#8, 0#8])) ints []] ++
  [opState (op0 0x18 0 0 0 [buf 0, 0, 0, buf 2] 2 [0#8, 0xFF#8]) ints [],
   opState (op0 0x19 0 0 0 [buf 0, 0, 0, tens 6] 2 ([0#8, 0xFF#8, 3#8, 0xFF#8, 0xFF#8, 0#8, 0#8, 0#8] ++ natLE 2 4)) ints [],
   opState (op0 0x1A 0 fInt64 0 [buf 0, 0, 0, buf 2] 2 ([0#8, 0#8] ++ natLE 1 2 ++ natLE 2 4)) (natLE 9 8 ++ natLE 5 8) [],
   opState (op0 0x1B 0 fInt64 0 [buf 0, 0, 0, buf 2] 1 ([0#8, 0#8] ++ natLE 1 2 ++ natLE 1 2 ++ natLE 1 4))
     (listBytes fInt64 0 1 0 0 [{ index := 4, code := 9, place := 0 }] 9 5) [],
   setBank (opState (op0 0x1C 0 0 fInt32 [buf 0, 0, 0, buf 2] 1 ([9#8, 0#8] ++ zeros 6 ++ natLE 0xFF 16)) (natLE 0x42 16) [])
     1 2 [natLE 0x142 16, natLE 0x242 16]] ++
  [opState (op0 0x28 0 fInt64 fInt32 [buf 0, 0, 0, buf 2] 2 []) (natLE 9 8 ++ natLE (2 ^ 40) 8) [],
   opState (op0 0x29 0 fFp32 fFp8a [buf 0, 0, 0, buf 2] 32 ([0#8, 0#8, 0#8, 0#8] ++ natLE 32 4)) (zeros 128) [],
   opState (op0 0x31 0 fFp32 fFp32 [buf 0, 0, 0, buf 2] 2 ([2#8, 0#8, 0#8, 1#8]))
     (natLE 0x3F800000 4 ++ natLE 0x40000000 4 ++ natLE 0x40400000 4 ++ natLE 0x40800000 4) [],
   opState (op0 0x38 0 0 0 [buf 0, 0, 0, buf 2] 3 []) [7#8, 8#8, 9#8] [],
   opState (op0 0x39 0 0 0 [buf 0, 0, 0, buf 2] 192 (zeros 4 ++ natLE 64 4)) (frameOf 0 0 0 0 [7#8, 8#8, 9#8]) [],
   opState (op0 0x3A 0 0 0 [buf 0, 0, 0, buf 2] 3 [2#8]) [0x31#8, 0x32#8, 0x33#8] []]

/-- The operator at the head of a state runs within its checks and its budget. -/
def opMet (s : State) (q : Instr × Nat × (State → Ctx → Item → OpIn → OpRes)) : Bool :=
  match takeOp s 0 q.2.1 with
  | .go t x it i => decide (Affordable t it i.op (q.2.2 t x it i))
  | _ => false

/-- Each operator has a state in which it meets the hypotheses of OperatorsGiveTheirResults. -/
theorem hyp_OperatorsGiveTheirResults : ∀ q ∈ plainOps 0, ∃ (s t : State) (x : Ctx) (it : Item) (i : OpIn),
    takeOp s 0 q.2.1 = .go t x it i ∧ Affordable t it i.op (q.2.2 t x it i) := by
  have hz : (opStates.zip (plainOps 0)).map Prod.snd = plainOps 0 := List.map_snd_zip (by decide)
  have ha : (opStates.zip (plainOps 0)).all (fun p => opMet p.1 p.2) = true := by decide +kernel
  intro q hq
  rw [← hz, List.mem_map] at hq
  obtain ⟨⟨s, q'⟩, hp, rfl⟩ := hq
  have h := List.all_eq_true.1 ha _ hp
  simp only [opMet] at h
  split at h
  next t x it i ht => exact ⟨s, t, x, it, i, ht, of_decide_eq_true h⟩
  next => cases h

/-! What `takeOp` hands to the operator at the head of item 0. -/

def noIn : OpIn :=
  { op := [], src0 := Operand.none, src1 := Operand.none, src2 := Operand.none, dst := Operand.none, runs := [], c0 := 0
    index := 0, n := 0, seed := [], view := none }

def goT (s : State) (code : Nat) : State := match takeOp s 0 code with | .go t _ _ _ => t | _ => live
def goX (s : State) (code : Nat) : Ctx := match takeOp s 0 code with | .go _ x _ _ => x | _ => ctx0
def goIt (s : State) (code : Nat) : Item := match takeOp s 0 code with | .go _ _ it _ => it | _ => item0
def goI (s : State) (code : Nat) : OpIn := match takeOp s 0 code with | .go _ _ _ i => i | _ => noIn

def goes (s : State) (code : Nat) : Bool := match takeOp s 0 code with | .go _ _ _ _ => true | _ => false

theorem go_of {s : State} {code : Nat} (h : goes s code = true) :
    takeOp s 0 code = .go (goT s code) (goX s code) (goIt s code) (goI s code) := by
  unfold goes at h
  unfold goT goX goIt goI
  split at h
  · simp_all
  · cases h

theorem all_some {α : Type} {o : Option α} {Q : α → Prop} [DecidablePred Q] (h : o.all (fun w => decide (Q w)) = true) :
    ∀ w, o = some w → Q w := by
  rintro w rfl
  simpa using h

/-- A state with host tensor 7 of 4 KiB beside the others. -/
def hostTensor (s : State) : State :=
  modCtx s 5 (fun x => { x with tensors := x.tensors ++ [(7,
    { base := hostAt 0x10000, fmt := 0, rank := 1, read := true, write := true, range := 1, dims := [512, 0, 0, 0, 0, 0],
      strides := [1, 0, 0, 0, 0, 0], dying := false })] })

def putState : State := hostTensor (opState (op0 0x40 0 0 0 [buf 0, 0, 0, tens 7] 3 []) [7#8, 8#8, 9#8] [])

def putMove : Move :=
  { src := none, data := [7#8, 8#8, 9#8], dst := { base := hostAt 0x10000, fmt := 0, dims := [512], strides := [1], first := 0 }
    count := 3, runs := [], zero := false }

def getState : State := opState (op0 0x41 0 0 0 [tens 6, 0, 0, buf 2] 3 []) [] []

def atomEntry : List Byte := natLE (deckAt 0x80020000) 8 ++ natLE 5 8 ++ zeros 16

def atomState : State := opState (op0 0x42 0 0 0 [buf 0, 0, 0, 0] 1 [1#8, 0#8]) atomEntry []

def atomDone : State :=
  modItem (opState (op0 0x42 0 0 fUint64 [buf 0, 0, 0, tens 6] 1 [1#8, 0#8]) atomEntry []) 0
    (fun it => { it with handed := true, answers := [(0, 77)] })

def copyState : State := opState (op0 0x30 0 fFp32 fFp32 [tens 3, 0, 0, buf 2] 32 []) [] []

def joinState : State :=
  opState (op0 0x11 0 0 0 [buf 0, 0, 0, buf 2] 2 ([0#8, 0#8, 8#8, 0#8, 2#8, 0#8, 0#8, 0#8] ++ natLE 2 4)) ints []

def paraState : State := opState (op0 0x1D 0 0 0 [buf 0, 0, 0, 0] 1 [9#8, 0#8, 1#8]) (natLE 0x42 16) []

def paraDone : State := setApplying paraState 1 0 (some [(1, natLE 0x42 16)])

/-! ### A record to decode -/

def byteTensor (off : Nat) (dims strides : List Nat) : Tensor :=
  { base := deckAt off, fmt := 0, rank := dims.length, read := true, write := true, range := 2
    dims := dims ++ List.replicate (6 - dims.length) 0, strides := strides ++ List.replicate (6 - strides.length) 0, dying := false }

/-- One block of one record, the long 5 (Avro counts and values are zigzag coded). -/
def avroData : List Byte := [2#8, 2#8, 10#8] ++ zeros 16

def decodeSeg (n : Nat) : List Byte := zeros 8 ++ natLE n 4 ++ natLE 1 4 ++ zeros 48

/-- A program of one step: a long to column 0; or an INT64 IRC column. -/
def decodeProg (kind : Nat) : List Byte :=
  natLE 1 4 ++ natLE 1 2 ++ zeros 10 ++ natLE kind 1 ++ natLE fInt64 1 ++ zeros 14

def decodeState (code kind dst : Nat) (data : List Byte) : State :=
  let s := opState (op0 code 0 0 0 [tens 10 + 2 ^ 27, tens 11, tens 12, dst] 1 []) [] []
  let t := modCtx s 5 (fun x => { x with tensors := x.tensors ++ [(10, byteTensor 0x80030000 [64, 1] [1, 64]),
    (11, byteTensor 0x80030100 [32] [1]), (12, byteTensor 0x80030200 [64] [1])] })
  let m := memPut zeroByte (memPut zeroByte (memPut zeroByte [] 0x80030000 (decodeSeg data.length)) 0x80030100 (decodeProg kind))
    0x80030200 data
  { t with deck := { t.deck with mem := m } }

def avroState : State := decodeState 0x01 4 (buf 2) avroData

/-- An IRC segment without a valid header. -/
def ircState : State := decodeState 0x02 15 (buf 2) (zeros 64)

def stateCtx (s : State) : Ctx := (NMap.find? s.ctxs 5).getD ctx0

def itemOf (s : State) : Item := (getItem s 0).getD item0

def opOf (s : State) : List Byte := itemOp s (itemOf s)

def segOf (s : State) : Operand := (readOperand s (stateCtx s) (itemOf s) (opOf s) 0).1

def progOf (s : State) : Operand := (readOperand s (stateCtx s) (itemOf s) (opOf s) 1).1

def readProg (irc : Bool) (s : State) : Program :=
  (readProgram irc (leAt (opOf s) 32 8) (progOf s).bytes).getD { steps := [], nodes := [], cols := [] }

theorem some_of_isSome {α : Type} {o : Option α} {d : α} (h : o.isSome = true) : o = some (o.getD d) := by
  cases o with
  | none => cases h
  | some _ => rfl

def dataAt (s : State) : Nat :=
  ((tensorView (stateCtx s) (opRef (opOf s) 2) (itemOf s).index).map (·.lo)).getD 0 + leAt (segOf s).bytes 0 8

def decodeRes (irc : Bool) (s : State) : DecAcc :=
  decodeSegment irc (decodeAsk s (stateCtx s) (itemOf s) (opOf s) (segOf s).bytes) (readProg irc s)
    (extentBytes s (itemOf s).landed (dataAt s) (leAt (segOf s).bytes 8 4))

def decodeBytes (irc : Bool) (s : State) : List Byte := decodeOut (readProg irc s) (opMode (opOf s) == 1) (decodeRes irc s).rows

/-! ### Embedding rows -/

/-- A lookup set of one part: row 7 of table 0, at position 0, in bag 0. -/
def lookBytes : List Byte :=
  natLE 0x4B4C4C49 4 ++ natLE 1 4 ++ natLE 112 8 ++ zeros 48 ++ natLE 80 8 ++ natLE 1 4 ++ natLE 1 4 ++
  natLE 7 8 ++ zeros 8 ++ natLE 0 4 ++ natLE 0 4 ++ zeros 8

def lookPart : LookPart := { distinct := [(0, 7)], positions := [(0, 0)], weights := [] }

/-- FP32 1.0, 2.0, 3.0 and 4.0. -/
def rowCodes : List Nat := [0x3F800000, 0x40000000, 0x40400000, 0x40800000]

def rowData : List Byte := rowCodes.flatMap (fun v => natLE v 4)

/-- Item 0 is at this operator, beside the table, whose version 0 its descriptor has pinned, the lookup set in tensor 10 and
the queues 6 and 7. -/
def embState (op : List Byte) (q6 q7 : MergeQueue) (it : Item) : State :=
  let x := { opCtx op with
    queues := [(6, q6), (7, q7)]
    tensors := [(3, tensor0), (5, byteTensor (tableAt + 0x2000) [64] [1]), (10, byteTensor 0x80030000 [112] [1])]
    rings := [(2, { subRing with descs := [(0, { desc0 with pins := [0] })] })] }
  let m := memPut zeroByte (memPut zeroByte tableMem 0x80030000 lookBytes) (tableAt + 0x10000 + 7 * 16) rowData
  let s := withTable (onPier x it)
  { s with deck := { s.deck with mem := m } }

def gatherState : State :=
  embState (op0 0x20 0 0 fFp32 [tens 10, tens 5, 0, buf 2] 1 ([0#8, 0#8] ++ natLE 4 2)) queue0 rowQueue runItem

def prefetchState : State :=
  embState (op0 0x20 0 0 fFp32 [tens 10, tens 5, 0, 0] 1 ([0#8, 1#8] ++ natLE 4 2)) queue0 rowQueue runItem

/-- The rows that a lookup set names, as they are found now. -/
def rowsOf (s : State) (code : Nat) (pre : Bool) : List RowAt :=
  ((List.range lookPart.distinct.length).zip lookPart.distinct).map (fun q =>
    entryRow (goT s code) (goX s code) (goIt s code) (itemPins (goT s code) (goIt s code)) (tableAt + 0x2000) pre q.1 q.2)

def poolState : State :=
  embState (op0 0x21 0 0 fFp32 [tens 10, tens 5, 0, buf 2] 1 ([0#8, 0#8] ++ natLE 4 2 ++ natLE 1 4)) queue0 rowQueue runItem

/-- Queue 6 has finalised step 1, whose merged gradients lie in tensor 3. -/
def denseQueue : MergeQueue := { queue0 with next := 2 }

def scatterState : State :=
  embState (op0 0x22 0 fFp32 fFp32 [tens 10, tens 3, 0, 0] 1 (zeros 4 ++ natLE 2 2 ++ natLE 6 2 ++ natLE 7 2 ++ natLE 1 2 ++
    natLE 1 4 ++ natLE 1 4 ++ zeros 3 ++ natLE 1 1)) denseQueue rowQueue runItem

/-- Step 1 of queue 6: a gradient for row 7. -/
def final1 : FinalStep :=
  { values := [(7, rowCodes), (9, rowCodes)], skipped := [], marked := [], block := 0
    params := { from_ := 1, opt := 0, wb := 0, lr := 0x3F800000, eps := 0, beta := 0 }, version := 2, sats := [], gaps := [] }

def finalQueue : MergeQueue := { rowQueue with tableSet := 5, next := 2, finals := [(1, final1)] }

def applyOp0 : List Byte := op0 0x23 0 0 0 [0, tens 5, 0, 0] 2 (natLE 6 2 ++ zeros 2 ++ natLE 1 4)

def applyState : State := embState applyOp0 finalQueue queue0 runItem

def applySlot : ApplySlot :=
  { item := 0, ctx := 5, queue := 6, step := 1, key := 7, ver := 0, row := List.replicate 16 0xAA#8, sat := 0, kind := 0 }

/-- The ROW_APPLY has run, and its row waits in an apply slot. -/
def slotState : State :=
  let s := embState applyOp0 finalQueue queue0 { runItem with op := 1 }
  { s with tables := { s.tables with slots := [applySlot] } }

def isLost : RowAt → Bool
  | .lost _ _ => true
  | _ => false

/-! ### A group on its way into the Deck -/

theorem erase_high (m : Mem) (a : Nat) (h : ∀ c ∈ m, c.1 < a) : NMap.erase m a = m := by
  induction m with
  | nil => rfl
  | cons c m ih =>
    have h0 : c.1 < a := h c (List.mem_cons_self ..)
    obtain ⟨k, v⟩ := c
    simp only [NMap.erase]
    rw [if_neg (Nat.ne_of_lt h0), ih (fun d hd => h d (List.mem_cons_of_mem _ hd))]

theorem put_zeros (m : Mem) (n a : Nat) (h : ∀ c ∈ m, c.1 < a) : memPut zeroByte m a (zeros n) = m := by
  induction n generalizing a with
  | zero => rfl
  | succ n ih =>
    show memPut zeroByte (memSet zeroByte m a 0#8) (a + 1) (zeros n) = m
    rw [show memSet zeroByte m a 0#8 = m by rw [memSet, if_pos (show (0#8 : Byte) = zeroByte a from rfl), erase_high m a h]]
    exact ih (a + 1) (fun c hc => Nat.lt_succ_of_lt (h c hc))

theorem fold_same {α β : Type} (f : α → β → α) (a : α) (l : List β) (h : ∀ b, f a b = a) : l.foldl f a = a := by
  induction l with
  | nil => rfl
  | cons b l ih => rw [List.foldl_cons, h b, ih]

theorem copy_zeros (s : State) (a n : Nat) (hs : s.deck.bad = [] ∧ s.deck.unfilled = []) (hg : s.deck.gen = 0)
    (h : ∀ c ∈ s.deck.mem, c.1 < a) : deckCopy s a (zeros n) = s := by
  have hb : ∀ x, badAt s x = false := fun x => by simp [badAt, hs.1, hs.2]
  have hd : deckDefault s = zeroByte := by funext x; rw [deckDefault, if_pos hg]; rfl
  have hh : healBlocks s a (zeros n).length = s := fold_same _ _ _ (fun b => by simp [hb])
  unfold deckCopy
  simp only [hh, hd, put_zeros s.deck.mem n a h]

theorem write_zeros (s : State) (a n : Nat) (hs : s.deck.bad = [] ∧ s.deck.unfilled = []) (hg : s.deck.gen = 0)
    (hr : s.heal.rebuilds = []) (hm : (deckMap s).1 ≤ a) (h : ∀ c ∈ s.deck.mem, c.1 < a) : deckWrite s a (zeros n) = s := by
  have hb : ∀ x, badAt s x = false := fun x => by simp [badAt, hs.1, hs.2]
  have hp : readPartly s a (zeros n).length = s := fold_same _ _ _ (fun b => by simp [hb])
  have he : ∀ b, deckCopy s b [] = s := fun b => by
    unfold deckCopy healBlocks blocksOf
    simp [memPut]
  unfold deckWrite deckPut
  simp only [hr, List.isEmpty_nil, if_true, hp, copy_zeros s a n hs hg h, show (deckMap s).1 - a = 0 by omega, List.take_zero, he]

def mig0 : Migration :=
  { ver := 0, group := 0, old := 2 ^ 62 + 0x40000, target := 0x140000000, phase := 2, inward := true, prior := 1, held := []
    by_ := none, frame := [], asked := [], waiting := 0, failed := false, since := 0, after := none }

/-- The group of the table lies in host memory and moves. -/
def withMig (m : Migration) : State :=
  let s := withTable (withCtx ctx1)
  let e : DEntry := { testEntry with loc := 2 ^ 62 + 0x40000, state := 2 }
  let mem := memPut zeroByte s.deck.mem (tableAt + 0x1000) (entryBytes e)
  { s with deck := { s.deck with mem := mem }, tables := { s.tables with migrations := [(0, m)] } }

def migDesc (s : State) : TDesc := tdesc s tableAt

def migEntry (s : State) : DEntry := dentry s (migDesc s) 0

theorem flip_writes : withMig mig0 =
    deckWrite (withMig mig0) (gLocal (locAddr (withMig mig0) mig0.target)) (migrationBytes (withMig mig0) mig0 (migEntry (withMig mig0)).size) := by
  have h1 : gLocal (locAddr (withMig mig0) mig0.target) = 0x140000000 := by decide +kernel
  have h2 : (migEntry (withMig mig0)).size = 65536 := by decide +kernel
  have h3 : isDeck (withMig mig0) (locAddr (withMig mig0) mig0.old) = false := by decide +kernel
  have h4 : migrationBytes (withMig mig0) mig0 65536 = zeros 65536 := by
    unfold migrationBytes
    simp only [h3]
    exact take_high [] _ _ (by simp)
  rw [h1, h2, h4]
  exact (write_zeros _ _ _ ⟨by decide +kernel, by decide +kernel⟩ (by decide +kernel) (by decide +kernel) (by decide +kernel)
    (by decide +kernel)).symm

/-! ### Streams -/

def streamDesc : List Byte :=
  natLE 3 4 ++ natLE 6 4 ++ zeros 6 ++ natLE 1 1 ++ natLE 3 1 ++ natLE 16 4 ++ zeros 44

def block0 (i : Nat) : Block :=
  { index := i, pier := 255, landed := [], written := true, waiting := 0, fault := [], done := false, failedPiers := [] }

def armRaw : List Byte := raw0 0x0A (hostAt 0x8000) (natLE 1 1)

def streamCtx (t : Stream) : Ctx := { ctx1 with
  tensors := [(3, tensor0), (4, setTensor), (6, tensorB)], streams := [(1, t)], rings := [(2, runRing armRaw)] }

def armed (delivered : Nat) (bs : List Block) : Stream :=
  { stream0 with desc := streamDesc, delivered := delivered, next := delivered + bs.length, blocks := bs }

/-- A PUT whose write to the page at the tensor's start was answered with a page fault. -/
def faultState : State :=
  modItem putState 0 (fun it => { it with op := 1, fault := [(hostAt 0x10000, true)] })

/-! ### Merge queues -/

def rec0 : MergeRec :=
  { src := 9, step := 1, fmt := fFp32, close := false, keyed := true, key := 2, seq := 0
    payload := natLE 0x3F800000 4 ++ natLE 0x40000000 4 }

def stored0 (n : Nat) : StoredRec :=
  { src := 9, key := 2, seq := 0, fmt := fFp32, payload := (List.replicate n (natLE 0x3F800000 4)).flatten }

/-- Step 1 is whole: device 9 closed it after one record, device 10 after none. -/
def wholeStep (n : Nat) : StepStore := { recs := [stored0 n], dropped := [], closes := [(9, 1), (10, 0)] }

def queueState (x : Ctx) (m : MergeQueue) : State := withTable (withCtx { x with queues := [(6, m)] })

def frame0 (kind step block : Nat) (acked : Bool) : JFrame :=
  { off := 4096 * block, len := 4096, queue := 6, step := step, kind := kind, table := 77, block := block, blockOff := 0
    blockLen := 4096, groups := [], acked := acked, sent := true, waiting := 0, bytes := [], flushing := false }

def framesCtx (fs : NMap JFrame) : Ctx := { ctx1 with journal := { ctx0.journal with frames := fs, next := fs.length } }

/-- Something meets the hypotheses of StepRunsTheFrontCommand. -/
theorem hyp_StepRunsTheFrontCommand :
  (∃ (s : State) (c : Instr) (rest : List Instr),
    s.pending = c :: rest) ∧
  (∃ (s : State),
    s.pending = []) :=
  ⟨⟨{ live with pending := [.keystoneTick, .idcode] }, .keystoneTick, [.idcode], by decide +kernel⟩,
   ⟨live, by decide +kernel⟩⟩

/-- Something meets the hypotheses of StepTakesOnlyTheFront. -/
theorem hyp_StepTakesOnlyTheFront :
  (∃ (s : State) (t : State),
    step s = .next t) :=
  ⟨{ live with pending := [.keystoneTick] }, _, rfl⟩

/-- Something meets the hypotheses of StepKeepsDeckCanonical. -/
theorem hyp_StepKeepsDeckCanonical :
  (∃ (s : State) (t : State),
    DeckCanonical s ∧ step s = .next t) :=
  ⟨{ live with pending := [.keystoneTick] }, _, ⟨by decide +kernel, rfl⟩⟩

/-- Something meets the hypotheses of FusesStayBlown. -/
theorem hyp_FusesStayBlown :
  (∃ (s : State) (t : State) (a : Nat) (i : Nat),
    step s = .next t ∧ (fuseAt s a).toNat.testBit i = true) :=
  ⟨{ live with boot := { live.boot with fuses := [(384, 5#8)] }, pending := [.keystoneTick] }, _, 384, 2, ⟨rfl, by decide +kernel⟩⟩

/-- Something meets the hypotheses of LostStaysLost. -/
theorem hyp_LostStaysLost :
  (∃ (c : Instr) (s : State) (t : State),
    mayReset c = false ∧ exec c s = .next t ∧ s.heal.outOfService = true) ∧
  (∃ (c : Instr) (s : State) (t : State),
    mayReset c = false ∧ exec c s = .next t) ∧
  (∃ (c : Instr) (s : State) (t : State),
    mayReset c = false ∧ exec c s = .next t) ∧
  (∃ (c : Instr) (s : State) (t : State),
    mayReset c = false ∧ exec c s = .next t) :=
  ⟨⟨.keystoneTick, { live with heal := { live.heal with outOfService := true } }, _, ⟨rfl, rfl, rfl⟩⟩,
   ⟨.keystoneTick, live, _, ⟨rfl, rfl⟩⟩,
   ⟨.keystoneTick, live, _, ⟨rfl, rfl⟩⟩,
   ⟨.keystoneTick, live, _, ⟨rfl, rfl⟩⟩⟩

/-- Something meets the hypotheses of OnlyTheirCommandsMoveThem. -/
theorem hyp_OnlyTheirCommandsMoveThem :
  (∃ (c : Instr) (s : State) (t : State),
    mayMove c = false ∧ exec c s = .next t) :=
  ⟨.refresh 3, live, _, ⟨rfl, rfl⟩⟩

/-- Something meets the hypotheses of TicksAdvanceTheCount. -/
theorem hyp_TicksAdvanceTheCount :
  (∃ (s : State),
    s.clock.running = true) ∧
  (∃ (s : State) (up : Bool),
    s.clock.running = true ∧ s.timing.correction = some up ∧ ((∀ k, s.timing.lastCorrection = some k → k + 1024 ≤ s.clock.ticks))) ∧
  (∃ (s : State) (k : Nat),
    s.timing.lastCorrection = some k ∧ s.clock.ticks < k + 1024) :=
  ⟨⟨live, by decide +kernel⟩,
   ⟨{ live with timing := { live.timing with correction := some true, lastCorrection := some 5 } }, true, ⟨rfl, rfl, fun k h => by cases h; decide⟩⟩,
   ⟨{ live with timing := { live.timing with lastCorrection := some (2 ^ 26) } }, 2 ^ 26, by decide +kernel⟩⟩

/-- Something meets the hypotheses of TimingIsExchanged. -/
theorem hyp_TimingIsExchanged :
  (∃ (s : State) (port : Fin 8),
    (getSpanLink s port).st = .active ∧ (getTiming s port).lastSent + 2048 ≤ s.clock.ticks ∧ (getSpanLink s port).replay.length < 64) ∧
  (∃ (s : State) (port : Fin 8),
    ((getSpanLink s port).st ≠ .active ∨ s.clock.ticks < (getTiming s port).lastSent + 2048)) ∧
  (∃ (s : State) (port : Fin 8),
    (getSpanLink s port).st = .active ∧ s.power.off = false ∧ s.timing.isRoot = false ∧ s.cfg.loaded = true ∧ parentPort s = port.val) ∧
  (∃ (s : State) (port : Fin 8) (replayed : Bool),
    (getSpanLink s port).st = .active ∧ s.power.off = false ∧ (s.timing.isRoot = true ∨ s.cfg.loaded = false ∨ parentPort s ≠ port.val ∨ replayed = true)) ∧
  (∃ (s : State) (port : Fin 8) (replayed : Bool),
    (getSpanLink s port).st = .active ∧ s.power.off = false ∧ (s.timing.isRoot = true ∨ s.cfg.loaded = false ∨ parentPort s ≠ port.val ∨ replayed = true)) ∧
  (∃ (s : State) (port : Fin 8),
    (getSpanLink s port).st ≠ .active) :=
  ⟨⟨{ live with spanLinks := [(1, { Link.reset with st := .active })] }, 1, by decide +kernel⟩,
   ⟨live, 1, by decide +kernel⟩,
   ⟨{ live with spanLinks := [(0, { Link.reset with st := .active })], span := { live.span with timing := [(0, { PortTiming.reset with record := some 0, tnum := 2, rxTnum := 6, rxCapture := 10000, txCapture := 5000 })] } }, 0, by decide +kernel⟩,
   ⟨{ live with spanLinks := [(1, { Link.reset with st := .active })] }, 1, true, by decide +kernel⟩,
   ⟨{ live with spanLinks := [(1, { Link.reset with st := .active })] }, 1, false, by decide +kernel⟩,
   ⟨live, 1, by decide +kernel⟩⟩

/-- Something meets the hypotheses of TimingTreeFallsBack. -/
theorem hyp_TimingTreeFallsBack :
  (∃ (s : State),
    s.timing.locked = true ∧ s.timing.isRoot = false ∧ lockHolds s = false) ∧
  (∃ (s : State),
    s.cfg.loaded = true ∧ s.timing.isRoot = false ∧ s.timing.onAlternate = false ∧ leAt (cfgSection s 1) 7 1 ≠ 255 ∧ s.timing.lastParent + 16384 ≤ s.clock.ticks) ∧
  (∃ (s : State),
    s.cfg.loaded = true ∧ s.timing.isRoot = false ∧ standbyId s = deviceId s ∧ s.timing.lastRoot + 16384 ≤ s.clock.ticks) :=
  ⟨⟨{ live with timing := { live.timing with locked := true } }, by decide +kernel⟩,
   ⟨live, by decide +kernel⟩,
   ⟨live, by decide +kernel⟩⟩

/-- Something meets the hypotheses of TrestleCarries. -/
theorem hyp_TrestleCarries :
  (∃ (s : State) (u : State) (n : Nat) (k : Nat),
    s.trestle.nextTable = some (n, k) ∧ s.trestle.on = true ∧ k ≤ s.clock.count ∧ atBoundary s = true ∧ u = { s with trestle := { s.trestle with table := n, nextTable := none, cycleBase := s.trestle.slot } }) ∧
  (∃ (s : State) (n : Nat) (k : Nat),
    s.trestle.nextTable = some (n, k) ∧ (s.clock.count < k ∨ atBoundary s = false)) ∧
  (∃ (s : State) (src : Nat) (i : Nat) (q : List Nat),
    src < 272 ∧ NMap.getD (getPier s src).light (lightDest src (s.trestle.slot / 16)) [] = i :: q ∧ s.trestle.on = true ∧ s.trestle.slot % 16 = 14 ∧ endpointUp s src = true ∧ endpointUp s (lightDest src (s.trestle.slot / 16)) = true ∧ (getPier s src).lightAt ≠ some s.clock.ticks) ∧
  (∃ (s : State) (src : Nat),
    src < 272 ∧ (s.trestle.slot % 16 ≠ 14 ∨ endpointUp s src = false ∨ endpointUp s (lightDest src (s.trestle.slot / 16)) = false ∨ (getPier s src).lightAt = some s.clock.ticks)) ∧
  (∃ (s : State) (src : Nat),
    src < 272 ∧ (s.trestle.slot % 16 ≠ 14 ∨ endpointUp s src = false ∨ endpointUp s (lightDest src (s.trestle.slot / 16)) = false ∨ (getPier s src).lightAt = some s.clock.ticks)) ∧
  (∃ (s : State) (pier : Nat) (off : Nat) (len : Nat),
    pier < 256 ∧ off + len ≤ scratchSize ∧ s.trestle.on = true ∧ (getPier s pier).lost = false) ∧
  (∃ (s : State) (ch : Nat),
    ch < 512 ∧ ch ∉ s.deck.lost ∧ s.power.nap = false ∧ s.power.off = false) :=
  ⟨⟨framesState (zeros 1114112), { framesState (zeros 1114112) with trestle := { (framesState (zeros 1114112)).trestle with table := 1, nextTable := none, cycleBase := (framesState (zeros 1114112)).trestle.slot } }, 1, 7, ⟨rfl, rfl, by decide, frames_boundary _ List.length_replicate, rfl⟩⟩,
   ⟨{ live with trestle := { live.trestle with nextTable := some (1, 2 ^ 27 + 1) } }, 1, 2 ^ 27 + 1, by decide +kernel⟩,
   ⟨{ live with piers := [(255, { Pier.fresh with light := [(lightDest 255 1, [0, 5])], lightWait := [(lightDest 255 1, [6])] })], trestle := { live.trestle with slot := 30 }, kid := { live.kid with accs := [(0, { (acc0 (.item 0) false) with len := 9 })] } }, 255, 0, [5], by decide +kernel⟩,
   ⟨{ live with piers := [(255, { Pier.fresh with light := [(lightDest 255 1, [0, 5])], lightWait := [(lightDest 255 1, [6])] })], trestle := { live.trestle with slot := 31 }, kid := { live.kid with accs := [(0, { (acc0 (.item 0) false) with len := 9 })] } }, 255, by decide +kernel⟩,
   ⟨{ live with piers := [(255, { Pier.fresh with lightAt := some (2 ^ 26), light := [(lightDest 255 1, [0, 5])], lightWait := [(lightDest 255 1, [6])] })], trestle := { live.trestle with slot := 30 }, kid := { live.kid with accs := [(0, { (acc0 (.item 0) false) with len := 9 })] } }, 255, by decide +kernel⟩,
   ⟨live, 255, 2 ^ 21 - 64, 64, by decide +kernel⟩,
   ⟨live, 511, by decide +kernel⟩⟩

/-- Something meets the hypotheses of OverlaysSwitch. -/
theorem hyp_OverlaysSwitch :
  (∃ (s : State) (data : Nat),
    s.power.off = false ∧ data % 2 = 1 ∧ s.cfg.pending = none ∧ s.cfg.loaded = true ∧ s.clock.count < pairGet s prSwitchAt ∧ bitAt (rwGet s rwOverlaySel) 3 = false ∧ (overlayImage s (rwGet s rwOverlaySel % 8)).isEmpty = false) ∧
  (∃ (s : State) (data : Nat),
    s.power.off = false ∧ data % 2 = 1 ∧ s.cfg.pending ≠ none) ∧
  (∃ (s : State) (k : Nat) (i : Nat),
    s.cfg.pending = some (k, some i) ∧ k ≤ s.clock.count ∧ s.power.off = false ∧ s.ctxs = []) :=
  ⟨⟨{ live with regs := { live.regs with pairs := [(prSwitchAt, 2 ^ 27 + 1)] } }, 1, by decide +kernel⟩,
   ⟨{ live with cfg := { live.cfg with pending := some (5, none) } }, 1, by decide +kernel⟩,
   ⟨{ live with cfg := { live.cfg with pending := some (2 ^ 27, some 0) } }, 2 ^ 27, 0, by decide +kernel⟩⟩

/-- Something meets the hypotheses of NapIsEnteredAndLeft. -/
theorem hyp_NapIsEnteredAndLeft :
  (∃ (s : State),
    s.power.off = false ∧ s.power.nap = false ∧ s.power.entering = none ∧ s.power.waking = none ∧ quiet s = true) ∧
  (∃ (s : State),
    s.power.off = false ∧ s.power.nap = true ∧ s.power.waking = none) ∧
  (∃ (s : State),
    s.power.off = false ∧ s.power.entering = some 0 ∧ s.power.napTicks + 4096 ≤ s.clock.ticks) ∧
  (∃ (s : State),
    s.power.off = false ∧ s.power.entering = some 1 ∧ s.power.napTicks + 6144 ≤ s.clock.ticks) ∧
  (∃ (s : State) (k : Nat),
    s.power.off = false ∧ s.power.entering = some (k + 2) ∧ s.kidLink.st = .nap) ∧
  (∃ (s : State) (w : Nat),
    s.power.waking = some w) :=
  ⟨⟨live, by decide +kernel⟩,
   ⟨{ live with power := { live.power with nap := true } }, by decide +kernel⟩,
   ⟨{ live with power := { live.power with entering := some 0 }, deck := { live.deck with pierMem := [(5, 1#8)] } }, by decide +kernel⟩,
   ⟨{ live with power := { live.power with entering := some 1 } }, by decide +kernel⟩,
   ⟨{ live with power := { live.power with entering := some 2 }, kidLink := { live.kidLink with st := .nap } }, 0, by decide +kernel⟩,
   ⟨{ live with power := { live.power with nap := true, waking := some 9 } }, 9, by decide +kernel⟩⟩

/-- Something meets the hypotheses of NapGivesUpAfterFourAsks. -/
theorem hyp_NapGivesUpAfterFourAsks :
  (∃ (s : State),
    s.kid.napStage = 1 ∧ s.kidLink.st = .active ∧ s.kid.napAsks < 4) ∧
  (∃ (s : State),
    (s.kid.napStage ≠ 1 ∨ s.kidLink.st ≠ .active ∨ 4 ≤ s.kid.napAsks)) ∧
  (∃ (s : State),
    ((s.kid.napStage = 2 ∧ s.kid.napAskedAt + 16384 ≤ s.clock.ticks ∨ s.kid.napStage = 3 ∧ s.kid.napAskedAt + 8192 ≤ s.clock.ticks)) ∧ s.kid.napAsks < 4) ∧
  (∃ (s : State),
    ((s.kid.napStage = 2 ∧ s.kid.napAskedAt + 16384 ≤ s.clock.ticks ∨ s.kid.napStage = 3 ∧ s.kid.napAskedAt + 8192 ≤ s.clock.ticks)) ∧ s.kid.napAsks < 4) ∧
  (∃ (s : State),
    ((s.kid.napStage = 2 ∧ s.kid.napAskedAt + 16384 ≤ s.clock.ticks ∨ s.kid.napStage = 3 ∧ s.kid.napAskedAt + 8192 ≤ s.clock.ticks ∨ s.kid.napStage = 1)) ∧ 4 ≤ s.kid.napAsks) ∧
  (∃ (s : State),
    ((s.kid.napStage = 2 ∧ s.kid.napAskedAt + 16384 ≤ s.clock.ticks ∨ s.kid.napStage = 3 ∧ s.kid.napAskedAt + 8192 ≤ s.clock.ticks ∨ s.kid.napStage = 1)) ∧ 4 ≤ s.kid.napAsks) ∧
  (∃ (s : State),
    ((s.kid.napStage = 2 ∧ s.kid.napAskedAt + 16384 ≤ s.clock.ticks ∨ s.kid.napStage = 3 ∧ s.kid.napAskedAt + 8192 ≤ s.clock.ticks ∨ s.kid.napStage = 1)) ∧ 4 ≤ s.kid.napAsks) ∧
  (∃ (s : State),
    s.kid.napStage = 2 ∧ s.clock.ticks < s.kid.napAskedAt + 16384) :=
  ⟨⟨{ live with kid := { live.kid with napStage := 1, napAsks := 3 }, kidLink := { live.kidLink with st := .active } }, by decide +kernel⟩,
   ⟨{ live with kid := { live.kid with napStage := 1, napAsks := 4 }, kidLink := { live.kidLink with st := .active } }, by decide +kernel⟩,
   ⟨{ live with kid := { live.kid with napStage := 2, napAsks := 3 } }, by decide +kernel⟩,
   ⟨{ live with kid := { live.kid with napStage := 3, napAsks := 3, napAskedAt := 2 ^ 26 - 8192 } }, by decide +kernel⟩,
   ⟨{ live with kid := { live.kid with napStage := 2, napAsks := 4 } }, by decide +kernel⟩,
   ⟨{ live with kid := { live.kid with napStage := 3, napAsks := 4 } }, by decide +kernel⟩,
   ⟨{ live with kid := { live.kid with napStage := 1, napAsks := 4 } }, by decide +kernel⟩,
   ⟨{ live with kid := { live.kid with napStage := 2, napAskedAt := 2 ^ 26 - 16383 } }, by decide +kernel⟩⟩

/-- Something meets the hypotheses of TrimFollowsHeatAndPower. -/
theorem hyp_TrimFollowsHeatAndPower :
  (∃ (s : State) (temps : List Int),
    temps ≠ [] ∧ s.power.off = false ∧ s.clock.running = true ∧ s.power.nap = false ∧ s.power.lastEval + 65536 ≤ s.clock.ticks) ∧
  (∃ (s : State),
    s.power.trim = true ∧ s.power.off = false) :=
  ⟨⟨live, [100, 400, 20], by decide +kernel⟩,
   ⟨{ live with power := { live.power with trim := true, duty := 64, acc := 200 } }, by decide +kernel⟩⟩

/-- Something meets the hypotheses of ThermalAlert. -/
theorem hyp_ThermalAlert :
  (∃ (s : State) (temps : List Int),
    temps ≠ [] ∧ s.power.off = false ∧ s.clock.running = true ∧ s.power.nap = false ∧ s.power.lastEval + 65536 ≤ s.clock.ticks) ∧
  (∃ (s : State) (cause : OffCause),
    s.power.off = false ∧ forcesOff s cause = true) ∧
  (∃ (c : Instr) (s : State) (t : State),
    mayReset c = false ∧ ((∀ mv ns, c ≠ .brownOut true mv ns)) ∧ s.power.off = true ∧ s.pads.forcedOff = true ∧ s.pads.alertN = false ∧ exec c s = .next t) :=
  ⟨⟨live, [100, 400, 20], by decide +kernel⟩,
   ⟨live, .junction 460, by decide +kernel⟩,
   ⟨.keystoneTick, { live with power := { live.power with off := true }, pads := { live.pads with forcedOff := true, alertN := false } }, _, ⟨rfl, fun _ _ => by simp, rfl, rfl, rfl, rfl⟩⟩⟩

/-- Something meets the hypotheses of KeystoneCounts. -/
theorem hyp_KeystoneCounts :
  (∃ (s : State),
    s.clock.running = true) ∧
  (∃ (s : State),
    s.pads.resetN = true ∧ s.pads.boardPg = true ∧ s.power.off = false ∧ s.clock.running = false ∧ s.boot.phase = 0 ∧ jtagHolds s = false) ∧
  (∃ (s : State) (cause : OffCause),
    s.power.off = false ∧ forcesOff s cause = true) ∧
  (∃ (c : Instr) (s : State) (t : State),
    mayReset c = false ∧ s.power.off = true ∧ s.clock.running = false ∧ exec c s = .next t) :=
  ⟨⟨live, by decide +kernel⟩,
   ⟨State.reset, by decide +kernel⟩,
   ⟨live, .junction 460, by decide +kernel⟩,
   ⟨.keystoneTick, { live with power := { live.power with off := true }, clock := { live.clock with running := false } }, _, ⟨rfl, rfl, rfl, rfl⟩⟩⟩

/-- Something meets the hypotheses of OffIsForced. -/
theorem hyp_OffIsForced :
  (∃ (s : State) (q : Int),
    q < offThreshold s) ∧
  (∃ (s : State) (cause : OffCause),
    s.power.off = false ∧ forcesOff s cause = true) ∧
  (∃ (s : State) (cause : OffCause),
    s.power.off = false ∧ forcesOff s cause = true) ∧
  (∃ (s : State) (aux : Bool) (mv : Nat) (ns : Nat),
    mv < (if aux then 3000 else 38000) ∧ 10000 < ns ∧ s.pads.resetN = true ∧ s.power.off = false) ∧
  (∃ (s : State) (aux : Bool) (mv : Nat) (ns : Nat),
    mv < (if aux then 3000 else 38000) ∧ 10000 < ns ∧ s.pads.resetN = true ∧ s.power.off = false) ∧
  (∃ (ns : Nat),
    ns ≤ 10000) ∧
  (∃ (s : State) (mv : Nat) (ns : Nat),
    mv < 3000 ∧ 10000 < ns ∧ s.pads.resetN = true ∧ s.power.off = true) :=
  ⟨⟨live, 439, by decide +kernel⟩,
   ⟨live, .junction 460, by decide +kernel⟩,
   ⟨live, .reference, by decide +kernel⟩,
   ⟨live, false, 37999, 10001, by decide +kernel⟩,
   ⟨live, true, 2999, 10001, by decide +kernel⟩,
   ⟨10000, by decide +kernel⟩,
   ⟨{ live with power := { live.power with off := true } }, 2999, 10001, by decide +kernel⟩⟩

/-- Something meets the hypotheses of ColdResetReturnsToTheInitialState. -/
theorem hyp_ColdResetReturnsToTheInitialState :
  (∃ (ns : Nat),
    10000 ≤ ns) ∧
  (∃ (ns : Nat),
    ns < 10000) ∧
  (∃ (s : State),
    s.power.off = false) :=
  ⟨⟨10000, by decide +kernel⟩,
   ⟨9999, by decide +kernel⟩,
   ⟨{ live with pads := { live.pads with resetN := false } }, by decide +kernel⟩⟩

/-- Something meets the hypotheses of BootGoesByItsPhases. -/
theorem hyp_BootGoesByItsPhases :
  (∃ (s : State),
    s.boot.phase = 0 ∧ s.clock.running = true ∧ s.power.off = false ∧ imageReason s = none) ∧
  (∃ (s : State) (r : Nat),
    s.boot.phase = 0 ∧ s.clock.running = true ∧ s.power.off = false ∧ imageReason s = some r) ∧
  (∃ (s : State) (chans : List Nat) (piers : List Nat),
    s.boot.phase = 2 ∧ s.power.off = false ∧ ((∀ c ∈ chans, c < 512)) ∧ ((∀ p ∈ piers, p < 256))) ∧
  (∃ (s : State),
    s.boot.phase = 2 ∧ s.power.off = false ∧ mustLeave s = false) ∧
  (∃ (chans : List Nat) (piers : List Nat) (p : Nat),
    ((∀ c ∈ chans, c < 512)) ∧ p ∈ piers ∧ 256 ≤ p) :=
  ⟨⟨romState, by decide +kernel⟩,
   ⟨{ romState with boot := { romState.boot with flash := numbered 0 (zeros 256) } }, 1, by decide +kernel⟩,
   ⟨{ live with boot := { live.boot with phase := 2 } }, [511, 255], [255], by decide +kernel⟩,
   ⟨{ live with boot := { live.boot with phase := 2 } }, by decide +kernel⟩,
   ⟨[], [256], 256, by decide +kernel⟩⟩

/-- Something meets the hypotheses of DeviceLeavesService. -/
theorem hyp_DeviceLeavesService :
  (∃ (s : State),
    mustLeave s = true ∧ s.heal.outOfService = false ∧ s.power.off = false ∧ 2 ≤ s.boot.phase) ∧
  (∃ (s : State) (c : Nat),
    c ∈ s.deck.lost ∧ (c + 256) % 512 ∈ s.deck.lost) ∧
  (∃ (s : State) (b : Nat) (t : Nat),
    b ∈ s.deck.bad ∧ badAt s (b * 64) = true ∧ twinOf s (b * 64) = some t ∧ badAt s t = true) :=
  ⟨⟨{ live with deck := { live.deck with lost := [0, 256] } }, by decide +kernel⟩,
   ⟨{ live with deck := { live.deck with lost := [255, 511] } }, 511, by decide +kernel⟩,
   ⟨{ live with deck := { live.deck with bad := [0x40000000 / 64, (partnerOf 0x40000000) / 64] } }, 0x40000000 / 64, partnerOf 0x40000000, by decide +kernel⟩⟩

/-- Something meets the hypotheses of ReportsAreWritten. -/
theorem hyp_ReportsAreWritten :
  (∃ (s : State),
    mbxRuns s 1 = true) ∧
  (∃ (s : State),
    mbxRuns s 2 = true) :=
  ⟨⟨{ live with boot := { live.boot with busy := true, cmd := 65537 } }, by decide +kernel⟩,
   ⟨{ live with boot := { live.boot with busy := true, cmd := 65538 } }, by decide +kernel⟩⟩

/-- Something meets the hypotheses of OwnerIsSetOnce. -/
theorem hyp_OwnerIsSetOnce :
  (∃ (s : State),
    mbxRuns s 5 = true ∧ ownerSet s = false ∧ s.boot.phase = 3) ∧
  (∃ (s : State),
    mbxRuns s 5 = true ∧ ((ownerSet s = true ∨ s.boot.phase ≠ 3))) ∧
  (∃ (s : State) (t : State),
    ownerSet s = true ∧ step s = .next t) ∧
  (∃ (s : State),
    mbxRuns s 3 = true ∧ ownerSet s = false) :=
  ⟨⟨{ live with boot := { live.boot with busy := true, cmd := 5, phase := 3 } }, by decide +kernel⟩,
   ⟨{ live with boot := { live.boot with busy := true, cmd := 5 } }, by decide +kernel⟩,
   ⟨{ live with boot := { live.boot with fuses := [(1, 1#8)] }, pending := [.coldReset] }, _, ⟨by decide +kernel, rfl⟩⟩,
   ⟨{ live with boot := { live.boot with busy := true, cmd := 3 } }, by decide +kernel⟩⟩

/-- Something meets the hypotheses of ConfigurationIsLoaded. -/
theorem hyp_ConfigurationIsLoaded :
  (∃ (s : State) (p : List Byte),
    mbxRuns s 3 = true ∧ ownerSet s = true ∧ s.ctxs = [] ∧ s.cfg.pending = none ∧ mbxRead s (2 ^ 44) = .got p) ∧
  (∃ (s : State) (u : State),
    mbxRuns s 3 = true ∧ ownerSet s = true ∧ s.ctxs = [] ∧ s.cfg.pending = none ∧ mbxRead s (2 ^ 44) = .ask u) :=
  ⟨⟨{ live with boot := { live.boot with busy := true, cmd := 3, fuses := [(1, 1#8)] } }, [], by decide +kernel⟩,
   ⟨{ live with boot := { live.boot with busy := true, cmd := 3, fuses := [(1, 1#8)], arg := [(0x1008, 8#8)] } }, issueReads { live with boot := { live.boot with busy := true, cmd := 3, fuses := [(1, 1#8)], arg := [(0x1008, 8#8)], asked := [(gAddr 3 hostBase, 8)], waiting := 1 } } .mbx 0 (gAddr 3 hostBase) 8, by decide +kernel⟩⟩

/-- Something meets the hypotheses of FlashIsWritten. -/
theorem hyp_FlashIsWritten :
  (∃ (s : State) (bs : List Byte),
    mbxRuns s 4 = true ∧ mbxRead s (15 * 2 ^ 20) = .got bs ∧ s.boot.phase ≠ 1) ∧
  (∃ (s : State) (bs : List Byte),
    mbxRuns s 4 = true ∧ mbxRead s (15 * 2 ^ 20) = .got bs ∧ s.boot.phase = 1) ∧
  (∃ (s : State) (u : State),
    mbxRuns s 4 = true ∧ mbxRead s (15 * 2 ^ 20) = .ask u) :=
  ⟨⟨{ live with boot := { live.boot with busy := true, cmd := 4, arg := [(0x1008, 2#8)], asked := [(gAddr 3 hostBase, 2)], landed := [(gAddr 3 hostBase, 7#8), (gAddr 3 hostBase + 1, 9#8)] } }, [7#8, 9#8], by decide +kernel⟩,
   ⟨{ live with boot := { live.boot with busy := true, cmd := 4, arg := [(0x1008, 2#8)], asked := [(gAddr 3 hostBase, 2)], landed := [(gAddr 3 hostBase, 7#8), (gAddr 3 hostBase + 1, 9#8)], phase := 1 } }, [7#8, 9#8], by decide +kernel⟩,
   ⟨{ live with boot := { live.boot with busy := true, cmd := 4, arg := [(0x1008, 8#8)] } }, issueReads { live with boot := { live.boot with busy := true, cmd := 4, arg := [(0x1008, 8#8)], asked := [(gAddr 3 hostBase, 8)], waiting := 1 } } .mbx 0 (gAddr 3 hostBase) 8, by decide +kernel⟩⟩

/-- Something meets the hypotheses of ManagementAnswers. -/
theorem hyp_ManagementAnswers :
  (∃ (s : State),
    (s.power.off = false ∨ s.pads.forcedOff = true)) ∧
  (∃ (s : State) (cmd : Nat) (write : Bool),
    (cmd ≠ 0 ∨ write = true ∨ s.power.off = true ∧ s.pads.forcedOff = false)) :=
  ⟨⟨live, by decide +kernel⟩,
   ⟨live, 1, false, by decide +kernel⟩⟩

/-- Something meets the hypotheses of BoundaryScan. -/
theorem hyp_BoundaryScan :
  (∃ (s : State),
    jtagHolds s = false) ∧
  (∃ (s : State),
    jtagHolds s = false) ∧
  (∃ (s : State),
    jtagHolds s = false) ∧
  (∃ (c : Instr),
    (c = .extest ∨ c = .clamp ∨ c = .highz)) ∧
  (∃ (s : State) (c : Instr),
    jtagHolds s = true ∧ ((∃ code tdi cells, c = .bypass code tdi ∨ c = .idcode ∨ c = .samplePreload cells))) :=
  ⟨⟨live, by decide +kernel⟩,
   ⟨live, by decide +kernel⟩,
   ⟨live, by decide +kernel⟩,
   ⟨.highz, by decide +kernel⟩,
   ⟨{ live with pads := { live.pads with jtagIr := 4 } }, .idcode, ⟨rfl, 0, 0, [], .inr (.inl rfl)⟩⟩⟩

/-- Something meets the hypotheses of RegistersAnswer. -/
theorem hyp_RegistersAnswer :
  (∃ (s : State) (off : Nat),
    WindowOpen s ∧ off < 0x400000 ∧ accessOk s off 4 = true ∧ pairOf? off = none ∧ off ≠ rwSlowData) ∧
  (∃ (s : State) (off : Nat) (data : Nat),
    WindowOpen s ∧ (rwRow off).isSome = true ∧ off ≠ rwPwrRequest ∧ off ≠ rwSlowData ∧ data < 2 ^ 32 ∧ writeRefused s 0 off data = false) ∧
  (∃ (s : State) (off : Nat) (len : Nat),
    WindowOpen s ∧ accessOk s off len = false) ∧
  (∃ (s : State) (off : Nat) (len : Nat),
    WindowOpen s ∧ accessOk s off len = false ∧ off < 0x10000000) :=
  ⟨⟨live, rwItemBudget, by decide +kernel⟩,
   ⟨live, rwTimeout, 2 ^ 32 - 1, by decide +kernel⟩,
   ⟨live, 0x24, 8, by decide +kernel⟩,
   ⟨live, 0x0FFFFFFC, 4, by decide +kernel⟩⟩

/-- Something meets the hypotheses of PairsAreReadAndWrittenWhole. -/
theorem hyp_PairsAreReadAndWrittenWhole :
  (∃ (s : State) (p : Nat),
    WindowOpen s ∧ p ∈ pairOffsets) ∧
  (∃ (s : State) (p : Nat),
    WindowOpen s ∧ p ∈ pairOffsets) ∧
  (∃ (s : State) (p : Nat),
    WindowOpen s ∧ p ∈ pairOffsets) ∧
  (∃ (s : State) (p : Nat),
    WindowOpen s ∧ (p = prAdminAddr ∨ p = prSwitchAt)) ∧
  (∃ (s : State) (p : Nat),
    WindowOpen s ∧ (p = prAdminAddr ∨ p = prSwitchAt)) ∧
  (∃ (s : State) (p : Nat) (data : Nat),
    WindowOpen s ∧ (p = prAdminAddr ∨ p = prSwitchAt) ∧ data < 2 ^ 64) ∧
  (∃ (s : State) (p : Nat),
    WindowOpen s ∧ p ∈ pairOffsets ∧ p ≠ prAdminAddr ∧ p ≠ prSwitchAt) :=
  ⟨⟨live, ctQuar, by decide +kernel⟩,
   ⟨live, prSwitchAt, by decide +kernel⟩,
   ⟨live, prCount, by decide +kernel⟩,
   ⟨live, prSwitchAt, by decide +kernel⟩,
   ⟨{ live with regs := { live.regs with writeShadow := [(prSwitchAt, 7)] } }, prSwitchAt, by decide +kernel⟩,
   ⟨live, prAdminAddr, 2 ^ 64 - 1, by decide +kernel⟩,
   ⟨live, prPolarity, by decide +kernel⟩⟩

/-- Something meets the hypotheses of AliasesActOnRwFields. -/
theorem hyp_AliasesActOnRwFields :
  (∃ (s : State) (off : Nat) (data : Nat) (mask : Nat) (r : Nat),
    WindowOpen s ∧ rwRow off = some (mask, r) ∧ off ≠ rwPwrRequest ∧ off ≠ rwSlowData ∧ data < 2 ^ 32 ∧ rwReserved off (rwGet s off ||| data &&& mask) = false ∧ rwReserved off (rwGet s off &&& (data &&& mask ^^^ (2 ^ 32 - 1))) = false ∧ rwReserved off (rwGet s off ^^^ data &&& mask) = false ∧ rwGet s off &&& mask = rwGet s off) ∧
  (∃ (s : State) (off : Nat),
    WindowOpen s ∧ (off ∈ sqOffsets ∨ off = wpAdminGo ∨ off = wpSwitchGo)) ∧
  (∃ (s : State) (k : Nat) (off : Nat) (len : Nat),
    k < 4 ∧ off < 0x400000 ∧ WindowOpen s ∧ accessOk s off len = true) :=
  ⟨⟨live, rwItemBudget, 0x00400001, 0xFFFFFFFF, 0x00800000, by decide +kernel⟩,
   ⟨live, evPwr, by decide +kernel⟩,
   ⟨live, 3, rwTimeout, 4, by decide +kernel⟩⟩

/-- Something meets the hypotheses of SeqClearRegisters. -/
theorem hyp_SeqClearRegisters :
  (∃ (s : State) (off : Nat) (data : Nat),
    WindowOpen s ∧ off ∈ sqOffsets ∧ data < 2 ^ 32 ∧ data / 65536 = (sqGet s off).2) ∧
  (∃ (s : State) (off : Nat) (data : Nat),
    WindowOpen s ∧ off ∈ sqOffsets ∧ data < 2 ^ 32 ∧ data / 65536 ≠ (sqGet s off).2) ∧
  (∃ (s : State) (off : Nat) (data : Nat),
    WindowOpen s ∧ off ∈ sqOffsets ∧ data < 2 ^ 32 ∧ data / 65536 = (sqGet s off).2) :=
  ⟨⟨event live evPwr 5, evPwr, 65536 + 1, by decide +kernel⟩,
   ⟨event live evPwr 5, evPwr, 2 * 65536 + 1, by decide +kernel⟩,
   ⟨event live evPwr 5, evPwr, 65536, by decide +kernel⟩⟩

/-- Something meets the hypotheses of W1pFieldsStartTheirAction. -/
theorem hyp_W1pFieldsStartTheirAction :
  (∃ (s : State) (data : Nat),
    WindowOpen s ∧ data % 2 = 1 ∧ data < 2 ^ 32 ∧ s.regs.adminBusy = 0 ∧ rwGet s rwAdminOp % 8 ≠ 0 ∧ s.power.nap = false ∧ s.power.entering = none) ∧
  (∃ (s : State) (data : Nat),
    WindowOpen s ∧ data % 2 = 1 ∧ data < 2 ^ 32 ∧ s.regs.adminBusy ≠ 0) ∧
  (∃ (s : State) (data : Nat),
    WindowOpen s ∧ data % 2 = 1 ∧ data < 2 ^ 32 ∧ s.cfg.pending ≠ none) ∧
  (∃ (s : State) (off : Nat),
    WindowOpen s ∧ (off = wpAdminGo ∨ off = wpSwitchGo)) :=
  ⟨⟨{ live with regs := { live.regs with words := [(rwAdminOp, 5 * 65536 + 1)] } }, 1, by decide +kernel⟩,
   ⟨{ live with regs := { live.regs with adminBusy := 2 } }, 1, by decide +kernel⟩,
   ⟨{ live with cfg := { live.cfg with pending := some (9, none) } }, 1, by decide +kernel⟩,
   ⟨live, wpSwitchGo, by decide +kernel⟩⟩

/-- Something meets the hypotheses of SlowAccessesActAtTheirDomain. -/
theorem hyp_SlowAccessesActAtTheirDomain :
  (∃ (s : State) (tag : Nat) (since : Nat) (v : Nat),
    s.power.off = false ∧ s.boot.phase ≠ 0 ∧ s.regs.slowBusy = some (0, tag, since) ∧ s.regs.parked = [] ∧ slowRead (slowBegun s) (slowDomain s) (slowOffset s) = .word v) ∧
  (∃ (s : State) (tag : Nat) (since : Nat) (c : Nat),
    s.power.off = false ∧ s.boot.phase ≠ 0 ∧ s.regs.slowBusy = some (0, tag, since) ∧ s.regs.parked = [] ∧ slowRead (slowBegun s) (slowDomain s) (slowOffset s) = .fail c) ∧
  (∃ (s : State) (data : Nat) (since : Nat),
    s.power.off = false ∧ s.boot.phase ≠ 0 ∧ data < 2 ^ 32 ∧ s.regs.slowBusy = some (2, data, since) ∧ s.regs.parked = [] ∧ (slowWrite (slowBegun s) (slowDomain s) (slowOffset s) data).2 = 0) ∧
  (∃ (s : State) (data : Nat) (since : Nat) (c : Nat),
    s.power.off = false ∧ s.boot.phase ≠ 0 ∧ data < 2 ^ 32 ∧ s.regs.slowBusy = some (2, data, since) ∧ s.regs.parked = [] ∧ c ≠ 0 ∧ (slowWrite (slowBegun s) (slowDomain s) (slowOffset s) data).2 = c) ∧
  (∃ (s : State) (tag : Nat) (since : Nat),
    s.regs.slowBusy = some (0, tag, since) ∧ s.regs.parked = [] ∧ since + 2048 ≤ s.clock.ticks ∧ s.power.off = false) :=
  ⟨⟨{ live with regs := { live.regs with slowBusy := some (0, 9, 0), words := [(rwSlowAddr, 0x13000000)] } }, 9, 0, 0, by decide +kernel⟩,
   ⟨{ live with regs := { live.regs with slowBusy := some (0, 9, 0), words := [(rwSlowAddr, 0x13001000)] } }, 9, 0, 2, by decide +kernel⟩,
   ⟨{ live with regs := { live.regs with slowBusy := some (2, 65, 0), words := [(rwSlowAddr, 0x10001000)] } }, 65, 0, by decide +kernel⟩,
   ⟨{ live with regs := { live.regs with slowBusy := some (2, 65, 0), words := [(rwSlowAddr, 0x13000010)] } }, 65, 0, 3, by decide +kernel⟩,
   ⟨{ live with regs := { live.regs with slowBusy := some (0, 9, 0), words := [(rwSlowAddr, 0x13000010)] } }, 9, 0, by decide +kernel⟩⟩

/-- Something meets the hypotheses of TrainingSetsAreRead. -/
theorem hyp_TrainingSetsAreRead :
  (∃ (s : State) (port : Fin 9) (lane : Nat) (ty : Nat) (set : List Byte) (b : List Byte) (inv : Bool) (c : Instr),
    linkPowered s port = true ∧ lane < lanesOf port ∧ (getLink s port).st = .rate0 ∧ readSet set = some (inv, b) ∧ setGood port ty .rate0 b = true ∧ ((c = .ts1 port lane set ∧ ty = 1 ∨ c = .ts2 port lane set ∧ ty = 2))) ∧
  (∃ (s : State) (port : Fin 9) (lane : Nat) (ty : Nat) (set : List Byte) (b : List Byte) (inv : Bool) (c : Instr),
    linkPowered s port = true ∧ lane < lanesOf port ∧ (getLink s port).st = .rate0 ∧ readSet set = some (inv, b) ∧ setGood port ty .rate0 b = true ∧ ((c = .ts1 port lane set ∧ ty = 1 ∨ c = .ts2 port lane set ∧ ty = 2))) ∧
  (∃ (s : State) (port : Fin 9) (lane : Nat) (ty : Nat) (set : List Byte) (b : List Byte) (inv : Bool) (c : Instr),
    linkPowered s port = true ∧ lane < lanesOf port ∧ (getLink s port).st = .eq ∧ readSet set = some (inv, b) ∧ setGood port ty .eq b = true ∧ ((c = .ts1 port lane set ∧ ty = 1 ∨ c = .ts2 port lane set ∧ ty = 2))) ∧
  (∃ (s : State) (port : Fin 9) (lane : Nat) (ty : Nat) (set : List Byte) (c : Instr),
    linkPowered s port = true ∧ lane < lanesOf port ∧ (getLink s port).st = .rate0 ∧ ((readSet set = none ∨ ∃ inv b, readSet set = some (inv, b) ∧ setGood port ty .rate0 b = false)) ∧ ((c = .ts1 port lane set ∧ ty = 1 ∨ c = .ts2 port lane set ∧ ty = 2))) ∧
  (∃ (s : State) (port : Fin 9) (lane : Nat) (ty : Nat) (set : List Byte) (c : Instr),
    linkPowered s port = true ∧ lane < lanesOf port ∧ (getLink s port).st = .rate0 ∧ ((readSet set = none ∨ ∃ inv b, readSet set = some (inv, b) ∧ setGood port ty .rate0 b = false)) ∧ ((c = .ts1 port lane set ∧ ty = 1 ∨ c = .ts2 port lane set ∧ ty = 2))) :=
  ⟨⟨{ live with kidLink := { Link.reset with st := .rate0 } }, 0, 47, 1, (setMarker ++ [1#8, 47#8, 7#8, 0#8, 15#8, 255#8] ++ zeros 22), (setMarker ++ [1#8, 47#8, 7#8, 0#8, 15#8, 255#8] ++ zeros 22), false, .ts1 0 47 (setMarker ++ [1#8, 47#8, 7#8, 0#8, 15#8, 255#8] ++ zeros 22), by decide +kernel⟩,
   ⟨{ live with spanLinks := [(7, { Link.reset with st := .rate0, detected := [0, 3], seen := [(0, 3)], ts2 := [(3, 15)] })] }, 8, 3, 2, (invert (setMarker ++ [2#8, 0#8, 3#8, 0#8, 15#8, 255#8] ++ zeros 22)), (setMarker ++ [2#8, 0#8, 3#8, 0#8, 15#8, 255#8] ++ zeros 22), true, .ts2 8 3 (invert (setMarker ++ [2#8, 0#8, 3#8, 0#8, 15#8, 255#8] ++ zeros 22)), by decide +kernel⟩,
   ⟨{ live with spanLinks := [(7, { Link.reset with st := .eq, presets := [(3, 2)] })] }, 8, 3, 2, (setMarker ++ [2#8, 0#8, 3#8, 1#8, 15#8, 255#8] ++ zeros 22), (setMarker ++ [2#8, 0#8, 3#8, 1#8, 15#8, 255#8] ++ zeros 22), false, .ts2 8 3 (setMarker ++ [2#8, 0#8, 3#8, 1#8, 15#8, 255#8] ++ zeros 22), by decide +kernel⟩,
   ⟨{ live with spanLinks := [(7, { Link.reset with st := .rate0, ts2 := [(3, 15)] })] }, 8, 3, 2, zeros 32, .ts2 8 3 (zeros 32), ⟨by decide +kernel, by decide, by decide +kernel, .inl (by decide +kernel), .inr ⟨rfl, rfl⟩⟩⟩,
   ⟨{ live with spanLinks := [(7, { Link.reset with st := .rate0, ts2 := [(3, 15)] })] }, 8, 3, 1, (setMarker ++ [1#8, 0#8, 3#8, 1#8, 15#8, 255#8] ++ zeros 22), .ts1 8 3 (setMarker ++ [1#8, 0#8, 3#8, 1#8, 15#8, 255#8] ++ zeros 22), ⟨by decide +kernel, by decide, by decide +kernel, .inr ⟨false, (setMarker ++ [1#8, 0#8, 3#8, 1#8, 15#8, 255#8] ++ zeros 22), by decide +kernel, by decide +kernel⟩, .inl ⟨rfl, rfl⟩⟩⟩⟩

/-- Something meets the hypotheses of LinksTrain. -/
theorem hyp_LinksTrain :
  (∃ (s : State) (port : Fin 9) (lanes : List Nat),
    linkPowered s port = true ∧ (getLink s port).st = .detect ∧ ((if port.val = 0 ∧ (getLink s port).course ≠ .recovery then 12 else 2) ≤ lanes.length)) ∧
  (∃ (s : State) (port : Fin 9) (lanes : List Nat),
    linkPowered s port = true ∧ (getLink s port).st = .detect ∧ ((if port.val = 0 ∧ (getLink s port).course ≠ .recovery then 12 else 2) ≤ lanes.length)) ∧
  (∃ (s : State) (port : Fin 9) (lanes : List Nat) (good : List Nat) (w : Nat) (f : Nat),
    linkPowered s port = true ∧ (getLink s port).st = .rate0 ∧ (getLink s port).course ≠ .recovery ∧ (getLink s port).course ≠ .napIn ∧ good = lanes.filter (fun k => decide (16 ≤ NMap.getD (getLink s port).ts2 k 0)) ∧ chooseWidth port (getLink s port).farWidths good = some (w, f)) ∧
  (∃ (s : State) (port : Fin 9) (lanes : List Nat),
    linkPowered s port = true ∧ (getLink s port).st = .rate0 ∧ napPair (getLink s port) (lanes.filter (fun k => decide (16 ≤ NMap.getD (getLink s port).ts2 k 0))) = true ∧ (((getLink s port).course = .recovery ∨ (getLink s port).course = .napIn))) ∧
  (∃ (s : State) (port : Fin 9) (lanes : List Nat),
    linkPowered s port = true ∧ (getLink s port).st = .rate0 ∧ napPair (getLink s port) (lanes.filter (fun k => decide (16 ≤ NMap.getD (getLink s port).ts2 k 0))) = true ∧ (((getLink s port).course = .recovery ∨ (getLink s port).course = .napIn))) ∧
  (∃ (s : State) (port : Fin 9) (lanes : List Nat) (w : Nat) (f : Nat),
    linkPowered s port = true ∧ (getLink s port).st = .eq ∧ chooseWidth port (getLink s port).farWidths (lanes.filter (getLink s port).detected.contains) = some (w, f)) ∧
  (∃ (s : State) (port : Fin 9) (lanes : List Nat) (w : Nat) (f : Nat),
    linkPowered s port = true ∧ (getLink s port).st = .eq ∧ chooseWidth port (getLink s port).farWidths (lanes.filter (getLink s port).detected.contains) = some (w, f)) ∧
  (∃ (s : State) (port : Fin 9),
    linkPowered s port = true ∧ ((getLink s port).st = .align ∨ (getLink s port).st = .retrain ∧ (getLink s port).course = .realign) ∧ (getLink s port).alignOk = true ∧ (getLink s port).alignSeq = none) ∧
  (∃ (s : State) (port : Fin 9),
    linkPowered s port = true ∧ ((getLink s port).st = .align ∨ (getLink s port).st = .retrain ∧ (getLink s port).course = .realign) ∧ (getLink s port).alignOk = true ∧ (getLink s port).alignSeq = none) ∧
  (∃ (s : State) (port : Fin 9),
    linkPowered s port = true ∧ ((getLink s port).st = .align ∨ (getLink s port).st = .retrain ∧ (getLink s port).course = .realign) ∧ (getLink s port).alignOk = true ∧ (getLink s port).alignSeq = none) ∧
  (∃ (s : State) (port : Fin 9) (lanes : List Nat) (w : Nat) (f : Nat),
    linkPowered s port = true ∧ (getLink s port).st = .retrain ∧ (getLink s port).course ≠ .realign ∧ (getLink s port).napLink = false ∧ chooseWidth port (getLink s port).farWidths (lanes.filter (getLink s port).detected.contains) = some (w, f)) ∧
  (∃ (s : State) (port : Fin 9) (lanes : List Nat),
    linkPowered s port = true ∧ (getLink s port).st = .retrain ∧ (getLink s port).course ≠ .realign ∧ (getLink s port).napLink = true ∧ napPair (getLink s port) lanes = true) ∧
  (∃ (s : State) (port : Fin 9) (n : Nat),
    deadline (getLink s port) = some n ∧ n ≤ s.clock.ticks) ∧
  (∃ (s : State) (port : Fin 9) (n : Nat),
    deadline (getLink s port) = some n ∧ n ≤ s.clock.ticks) ∧
  (∃ (s : State) (port : Fin 9),
    (getLink s port).st = .down ∧ linkPowered s port = true ∧ (if port.val = 0 then 1 else 3) ≤ s.boot.phase ∧ (getLink s port).seriesStart + 16777216 ≤ s.clock.ticks) ∧
  (∃ (s : State) (port : Fin 9),
    linkUp (getLink s port) = true ∧ 8 ≤ (getLink s port).requests) ∧
  (∃ (s : State) (port : Fin 9),
    linkUp (getLink s port) = true ∧ 8 ≤ (getLink s port).requests) :=
  ⟨⟨{ live with kidLink := { Link.reset with st := .detect } }, 0, List.range 12, by decide +kernel⟩,
   ⟨{ live with kidLink := { Link.reset with st := .detect, course := .recovery } }, 0, [0, 1], by decide +kernel⟩,
   ⟨{ live with spanLinks := [(2, { Link.reset with st := .rate0, farWidths := 3, ts2 := [(0, 16), (1, 15), (2, 16), (3, 17)] })] }, 3, [0, 1, 2, 3], [0, 2, 3], 2, 2, by decide +kernel⟩,
   ⟨{ live with kidLink := { Link.reset with st := .rate0, course := .recovery, ts2 := [(0, 16), (1, 16)], crGiven := [1, 2, 3, 4] } }, 0, [0, 1, 2], by decide +kernel⟩,
   ⟨{ live with kidLink := { Link.reset with st := .rate0, course := .napIn, firstLane := 12, ts2 := [(12, 16), (13, 16)], txSeq := 7, rxSeq := 3, replay := [sent0 6] } }, 0, [12, 13], by decide +kernel⟩,
   ⟨{ live with spanLinks := [(2, { Link.reset with st := .eq, farWidths := 3, detected := [0, 1, 2, 3], crGiven := [1, 2, 3, 4] })] }, 3, [0, 1, 2, 3], 4, 0, by decide +kernel⟩,
   ⟨{ live with kidLink := { Link.reset with st := .eq, course := .napOut, farWidths := 7, detected := List.range 24, txSeq := 7, rxSeq := 3, replay := [sent0 6] } }, 0, List.range 24, 24, 0, by decide +kernel⟩,
   ⟨{ live with kidLink := { Link.reset with st := .align, alignOk := true, course := .napIn, width := 2 } }, 0, by decide +kernel⟩,
   ⟨{ live with spanLinks := [(2, { Link.reset with st := .align, alignOk := true, width := 4, failures := 2 })] }, 3, by decide +kernel⟩,
   ⟨{ live with kidLink := { Link.reset with st := .retrain, course := .realign, alignOk := true, width := 24 } }, 0, by decide +kernel⟩,
   ⟨{ live with kidLink := { Link.reset with st := .retrain, farWidths := 7, detected := List.range 48, replay := [sent0 6] } }, 0, (List.range 12).map (· + 36), 12, 36, by decide +kernel⟩,
   ⟨{ live with kidLink := { Link.reset with st := .retrain, napLink := true, firstLane := 12 } }, 0, [12, 13], by decide +kernel⟩,
   ⟨{ live with kidLink := { Link.reset with st := .eq, failures := 3 } }, 0, 1048576, by decide +kernel⟩,
   ⟨{ live with kidLink := { Link.reset with st := .align, course := .napIn, failures := 1 } }, 0, 65536, by decide +kernel⟩,
   ⟨{ live with spanLinks := [(1, { Link.reset with failures := 3 })] }, 2, by decide +kernel⟩,
   ⟨{ live with kidLink := { Link.reset with st := .active, requests := 8 } }, 0, by decide +kernel⟩,
   ⟨{ live with spanLinks := [(3, { Link.reset with st := .active, requests := 8, replay := [sent0 6] })] }, 4, by decide +kernel⟩⟩

/-- Something meets the hypotheses of FramesAreAccepted. -/
theorem hyp_FramesAreAccepted :
  (∃ (s : State) (port : Fin 9) (f : Frame),
    LinkReady s port ∧ EmptyFrame port f ∧ leAt f.bytes 4 1 = 1 ∧ NextFrame (getLink s port) f ∧ ((port.val = 0 → s.kid.napStage ≠ 3))) ∧
  (∃ (s : State) (port : Fin 9) (f : Frame),
    LinkReady s port ∧ frameGood f = false) ∧
  (∃ (s : State) (port : Fin 9) (f : Frame),
    LinkReady s port ∧ frameGood f = true ∧ leAt f.bytes 4 1 = 1 ∧ ¬NextFrame (getLink s port) f) ∧
  (∃ (s : State) (port : Fin 9) (f : Frame),
    LinkReady s port ∧ frameGood f = true ∧ leAt f.bytes 4 1 = 1 ∧ ¬NextFrame (getLink s port) f) ∧
  (∃ (s : State) (port : Fin 9) (f : Frame),
    LinkReady s port ∧ EmptyFrame port f ∧ leAt f.bytes 4 1 = 2 ∧ NextFrame (getLink s port) f ∧ ((port.val = 0 → s.kid.napStage ≠ 3))) ∧
  (∃ (s : State) (f : Frame),
    LinkReady s 0 ∧ s.kidLink.st = .active ∧ s.kid.napStage = 2 ∧ EmptyFrame 0 f ∧ leAt f.bytes 4 1 = 4 ∧ NextFrame s.kidLink f) ∧
  (∃ (s : State) (f : Frame),
    LinkReady s 0 ∧ s.kidLink.st = .active ∧ s.kid.napStage = 2 ∧ EmptyFrame 0 f ∧ leAt f.bytes 4 1 = 4 ∧ NextFrame s.kidLink f) ∧
  (∃ (s : State) (f : Frame),
    LinkReady s 0 ∧ s.kidLink.st = .active ∧ s.kid.napStage = 3 ∧ EmptyFrame 0 f ∧ leAt f.bytes 4 1 = 1 ∧ NextFrame s.kidLink f) ∧
  (∃ (s : State) (f : Frame),
    Accepted s 0 f) ∧
  (∃ (h : List Byte) (c : Instr),
    carriedByHost h = some c) ∧
  (∃ (h : List Byte) (c : Instr),
    carriedByHost h = some c) ∧
  (∃ (u : State) (tag : Nat) (i : Nat) (bs : List Byte) (a : Acc),
    NMap.find? u.kid.tags tag = some i ∧ NMap.find? u.kid.accs i = some a ∧ a.write = false ∧ NMap.find? u.kidLink.partials tag = none ∧ a.len ≤ bs.length ∧ allZero (bs.drop a.len) = true) ∧
  (∃ (s : State) (port : Fin 9) (f : Frame),
    port.val ≠ 0 ∧ Accepted s port f) ∧
  (∃ (u : State) (p : Fin 8) (b : List Byte) (h : List Byte) (r : SpanHdr),
    frameReserved b true = false ∧ frameHeaders b 3 32 = [h] ∧ parseSpanHdr h = some r ∧ r.length ≤ 65536 ∧ spanData r = 0 ∧ ((∀ q ∈ frameSlots b, q.1 = 0 ∧ q.2.1 = 0)) ∧ (getSpanLink u p).pulling = [] ∧ (getSpanLink u p).stale = []) ∧
  (∃ (p : Fin 8) (h : SpanHdr) (data : List Byte) (c : Instr),
    carriedBySpan p h data = some c) :=
  ⟨⟨linked, 0, bareFrame normalHead, ⟨by decide +kernel, bare_empty _ _ rfl (by decide +kernel) (.inl (by decide +kernel)) rfl rfl, by rw [bare_field] <;> decide, by unfold NextFrame; rw [bare_field] <;> decide, by decide⟩⟩,
   ⟨linked, 0, { bytes := [], corrected := 0, uncorrectable := 2 }, by decide +kernel⟩,
   ⟨{ linked with kidLink := { linked.kidLink with rxSeq := 3 } }, 0, bareFrame normalHead, ⟨by decide +kernel, (bare_empty _ _ rfl (by decide +kernel) (.inl (by decide +kernel)) rfl rfl : EmptyFrame 0 (bareFrame normalHead)).1, by rw [bare_field] <;> decide, by unfold NextFrame; rw [bare_field] <;> decide⟩⟩,
   ⟨{ linked with kidLink := { linked.kidLink with rxSeq := 65533 } }, 0, bareFrame normalHead, ⟨by decide +kernel, (bare_empty _ _ rfl (by decide +kernel) (.inl (by decide +kernel)) rfl rfl : EmptyFrame 0 (bareFrame normalHead)).1, by rw [bare_field] <;> decide, by unfold NextFrame; rw [bare_field] <;> decide⟩⟩,
   ⟨linked, 0, bareFrame replayHead, ⟨by decide +kernel, bare_empty _ _ rfl (by decide +kernel) (.inr (.inl (by decide +kernel))) rfl rfl, by rw [bare_field] <;> decide, by unfold NextFrame; rw [bare_field] <;> decide, by decide⟩⟩,
   ⟨{ linked with kid := { linked.kid with napStage := 2 } }, bareFrame ackHead, ⟨by decide +kernel, by decide +kernel, rfl, bare_empty _ _ rfl (by decide +kernel) (.inr (.inr (by decide +kernel))) rfl rfl, by rw [bare_field] <;> decide, by unfold NextFrame; rw [bare_field] <;> decide⟩⟩,
   ⟨{ { linked with kidLink := { linked.kidLink with replay := [sent0 5] } } with kid := { linked.kid with napStage := 2 } }, bareFrame ackHead, ⟨by decide +kernel, by decide +kernel, rfl, bare_empty _ _ rfl (by decide +kernel) (.inr (.inr (by decide +kernel))) rfl rfl, by rw [bare_field] <;> decide, by unfold NextFrame; rw [bare_field] <;> decide⟩⟩,
   ⟨{ { linked with kidLink := { linked.kidLink with replay := [sent0 5], holding := true } } with kid := { linked.kid with napStage := 3 } }, bareFrame normalHead, ⟨by decide +kernel, by decide +kernel, rfl, bare_empty _ _ rfl (by decide +kernel) (.inl (by decide +kernel)) rfl rfl, by rw [bare_field] <;> decide, by unfold NextFrame; rw [bare_field] <;> decide⟩⟩,
   ⟨linked, bareFrame normalHead, ⟨by decide +kernel, by decide +kernel, (bare_empty _ _ rfl (by decide +kernel) (.inl (by decide +kernel)) rfl rfl : EmptyFrame 0 (bareFrame normalHead)).1, (bare_empty _ _ rfl (by decide +kernel) (.inl (by decide +kernel)) rfl rfl : EmptyFrame 0 (bareFrame normalHead)).2.1, by rw [bare_field] <;> decide, by unfold NextFrame; rw [bare_field] <;> decide⟩⟩,
   ⟨kidHdr 6 4 9 rwItemBudget 77, .regWrite rwItemBudget 4 77, by decide +kernel⟩,
   ⟨kidHdr 0x20 3 9 0 0, .readDone 9 3, by decide +kernel⟩,
   ⟨withAcc (withItem ctx0 { item0 with st := .running, waiting := 1 }) (acc0 (.item 0) false), 4095, 0, [1#8, 2#8, 3#8, 4#8, 5#8, 6#8, 7#8, 8#8] ++ zeros 248, acc0 (.item 0) false, by decide +kernel⟩,
   ⟨{ live with spanLinks := [(7, linked.kidLink)] }, 8, bareFrame normalHead, ⟨by decide, by decide +kernel, by decide +kernel, (bare_empty _ _ rfl (by decide +kernel) (.inl (by decide +kernel)) rfl rfl : EmptyFrame 8 (bareFrame normalHead)).1, (bare_empty _ _ rfl (by decide +kernel) (.inl (by decide +kernel)) rfl rfl : EmptyFrame 8 (bareFrame normalHead)).2.1, by rw [bare_field] <;> decide, by unfold NextFrame; rw [bare_field] <;> decide⟩⟩,
   ⟨peered (withCtx ctx0), 7, zeros 4 ++ [1#8] ++ zeros 251 ++ spanHdrBytes (hdr0 2 0 64), spanHdrBytes (hdr0 2 0 64), hdr0 2 0 64, by decide +kernel⟩,
   ⟨7, hdr0 1 0 3, [7#8, 8#8, 9#8], .putRequest 7 (hdr0 1 0 3) [7#8, 8#8, 9#8], by decide +kernel⟩⟩

/-- Something meets the hypotheses of HostAnswersLand. -/
theorem hyp_HostAnswersLand :
  (∃ (s : State) (tag : Nat) (i : Nat) (id : Nat) (a : Acc) (it : Item) (data : List Byte),
    OpenAt s tag i a ∧ a.write = false ∧ a.len = data.length ∧ a.owner = .item id ∧ getItem s id = some it) ∧
  (∃ (s : State) (tag : Nat) (i : Nat) (c : Nat) (r : Nat) (k : Nat) (a : Acc) (data : List Byte),
    OpenAt s tag i a ∧ a.write = false ∧ a.len = data.length ∧ a.owner = .slot c r k ∧ a.shared = true ∧ (getRing s c r).isSome = true ∧ i ∉ s.kid.snooped ∧ s.kid.lines.length < 2 ^ 20) ∧
  (∃ (s : State) (tag : Nat) (i : Nat) (c : Nat) (r : Nat) (k : Nat) (a : Acc) (data : List Byte),
    OpenAt s tag i a ∧ a.write = false ∧ a.len = data.length ∧ a.owner = .slot c r k ∧ a.shared = true ∧ (getRing s c r).isSome = true ∧ i ∈ s.kid.snooped) ∧
  (∃ (s : State) (tag : Nat) (i : Nat) (a : Acc) (data : List Byte),
    OpenAt s tag i a ∧ (a.write = true ∨ a.len ≠ data.length)) ∧
  (∃ (s : State) (tag : Nat) (i : Nat) (a : Acc) (data : List Byte),
    OpenAt s tag i a ∧ (a.write = true ∨ a.len ≠ data.length)) ∧
  (∃ (s : State) (tag : Nat) (i : Nat) (c : Nat) (r : Nat) (k : Nat) (status : Nat) (a : Acc),
    OpenAt s tag i a ∧ a.write = false ∧ a.owner = .slot c r k ∧ 1 ≤ status ∧ status ≤ 4) ∧
  (∃ (s : State) (tag : Nat) (i : Nat) (c : Nat) (r : Nat) (a : Acc) (y : Ring),
    OpenAt s tag i a ∧ a.write = true ∧ a.owner = .status c r ∧ getRing s c r = some y) ∧
  (∃ (s : State) (tag : Nat) (status : Nat) (data : List Byte) (c : Instr),
    NMap.find? s.kid.tags tag = none ∧ (c = .readData tag data ∨ c = .readDone tag status ∨ c = .writeDone tag status)) ∧
  (∃ (s : State),
    s.power.off = false ∧ s.boot.phase ≠ 0) :=
  ⟨⟨withAcc (withItem ctx0 { item0 with st := .running, waiting := 1 }) (acc0 (.item 0) false), 4095, 0, 0, acc0 (.item 0) false, { item0 with st := .running, waiting := 1 }, [1#8, 2#8, 3#8, 4#8, 5#8, 6#8, 7#8, 8#8], by decide +kernel⟩,
   ⟨withAcc (withRing { ring0 with waiting := 1 }) { acc0 (.slot 5 2 0) false with len := 64, shared := true }, 4095, 0, 5, 2, 0, { acc0 (.slot 5 2 0) false with len := 64, shared := true }, List.replicate 64 9#8, by decide +kernel⟩,
   ⟨{ withAcc (withRing { ring0 with waiting := 1 }) { acc0 (.slot 5 2 0) false with len := 64, shared := true } with kid := { (withAcc (withRing { ring0 with waiting := 1 }) { acc0 (.slot 5 2 0) false with len := 64, shared := true }).kid with snooped := [0] } }, 4095, 0, 5, 2, 0, { acc0 (.slot 5 2 0) false with len := 64, shared := true }, List.replicate 64 9#8, by decide +kernel⟩,
   ⟨withAcc (withRing { ring0 with waiting := 1 }) { acc0 (.slot 5 2 0) false with len := 64, shared := true }, 4095, 0, { acc0 (.slot 5 2 0) false with len := 64, shared := true }, List.replicate 63 9#8, by decide +kernel⟩,
   ⟨withAcc (withRing { ring0 with statusBusy := true }) (acc0 (.status 5 2) true), 4095, 0, acc0 (.status 5 2) true, zeros 8, by decide +kernel⟩,
   ⟨withAcc (withRing { ring0 with waiting := 1 }) (acc0 (.slot 5 2 0) false), 4095, 0, 5, 2, 0, 4, acc0 (.slot 5 2 0) false, by decide +kernel⟩,
   ⟨withAcc (withRing { ring0 with statusBusy := true }) (acc0 (.status 5 2) true), 4095, 0, 5, 2, acc0 (.status 5 2) true, { ring0 with statusBusy := true }, by decide +kernel⟩,
   ⟨live, 4095, 0, [], .writeDone 4095 0, by decide +kernel⟩,
   ⟨{ live with kid := { live.kid with lines := [(3, [1#8]), (4, [2#8])] } }, by decide +kernel⟩⟩

/-- Something meets the hypotheses of AccessesAreRepeated. -/
theorem hyp_AccessesAreRepeated :
  (∃ (s : State) (i : Nat) (a : Acc) (c : Instr),
    accDue s i = some a ∧ ((c = .hostReadRetry i ∧ isDeviceRead a = true ∧ s.clock.ticks < a.first + accTimeout s a) ∨ (c = .hostWriteRetry i ∧ isDeviceWrite a = true) ∨ (c = .backingWriteRetry i ∧ ∃ j, a.owner = .backing j) ∨ (c = .outsideAccessRetry i ∧ ∃ id, a.owner = .item id ∨ a.owner = .itemPut id ∨ a.owner = .row id))) ∧
  (∃ (s : State) (i : Nat) (c : Nat) (r : Nat) (k : Nat) (a : Acc) (y : Ring),
    accDue s i = some a ∧ a.owner = .slot c r k ∧ a.first + accTimeout s a ≤ s.clock.ticks ∧ getRing s c r = some y) ∧
  (∃ (s : State) (i : Nat) (c : Nat) (r : Nat) (k : Nat) (a : Acc) (d : Desc),
    NMap.find? s.kid.accs i = some a ∧ accLate s a = true ∧ a.owner = .skipSignal c r k ∧ getDesc s c r k = some d ∧ overSpan s a = false) :=
  ⟨⟨{ live with kid := { live.kid with accs := [(0, failedAcc (acc0 (.item 0) false))] } }, 0, failedAcc (acc0 (.item 0) false), .outsideAccessRetry 0, ⟨by decide +kernel, .inr (.inr (.inr ⟨rfl, 0, .inl rfl⟩))⟩⟩,
   ⟨{ withRing { ring0 with waiting := 1 } with kid := { live.kid with accs := [(0, failedAcc (acc0 (.slot 5 2 0) false))] } }, 0, 5, 2, 0, failedAcc (acc0 (.slot 5 2 0) false), { ring0 with waiting := 1 }, by decide +kernel⟩,
   ⟨withAcc (withRing { ring0 with consumed := 1, descs := [(0, { Desc.fresh [1#8] with waiting := 1 })] }) ({ acc0 (.skipSignal 5 2 0) true with addr := hostAt 0 }), 0, 5, 2, 0, { acc0 (.skipSignal 5 2 0) true with addr := hostAt 0 }, { Desc.fresh [1#8] with waiting := 1 }, by decide +kernel⟩⟩

/-- Something meets the hypotheses of PeersAreServed. -/
theorem hyp_PeersAreServed :
  (∃ (s : State) (port : Fin 8) (h : SpanHdr) (data : List Byte),
    Admitted s port h 1 1 ∧ h.length = data.length ∧ isDeck s h.address = true ∧ SoundAt s (gLocal h.address) data.length ∧ (gLocal h.address + data.length ≤ 2 ^ 40 ∨ (2 ^ 40 ≤ gLocal h.address ∧ gLocal h.address + data.length ≤ 2 ^ 41)) ∧ SoundAt s (partnerOf (gLocal h.address)) data.length) ∧
  (∃ (s : State) (port : Fin 8) (h : SpanHdr),
    Admitted s port h 2 0 ∧ isDeck s h.address = true ∧ SoundAt s (gLocal h.address) h.length) ∧
  (∃ (s : State) (port : Fin 8) (h : SpanHdr) (data : List Byte),
    Admitted s port h 3 2 ∧ h.length = 16 ∧ data.length = 16 ∧ h.address % 8 = 0 ∧ isDeck s h.address = true ∧ gLocal h.address + 8 ≤ 2 ^ 41 ∧ SoundAt s (gLocal h.address) 8 ∧ SoundAt s (partnerOf (gLocal h.address)) 8 ∧ s.heal.rebuilds = []) ∧
  (∃ (s : State) (port : Fin 8) (h : SpanHdr) (data : List Byte) (m : MergeQueue) (rs : List MergeRec),
    spanLive s port = true ∧ requestBad h 4 = false ∧ h.dst = deviceId s ∧ h.seq = ((NMap.getD s.span.ins (inKey h.src h.channel) spanFresh).applied + 1) % 2 ^ 32 ∧ NMap.has s.ctxs h.context = true ∧ h.length = data.length ∧ getQueue s h.context h.queue = some m ∧ mergeRecords m h data = some rs) ∧
  (∃ (s : State) (port : Fin 8) (h : SpanHdr),
    spanLive s port = true ∧ requestBad h 2 = false ∧ h.dst = deviceId s ∧ h.seq = ((NMap.getD s.span.ins (inKey h.src h.channel) spanFresh).applied + 1) % 2 ^ 32 ∧ NMap.has s.ctxs h.context = false) ∧
  (∃ (s : State) (port : Fin 8) (h : SpanHdr),
    spanLive s port = true ∧ requestBad h 2 = false ∧ h.dst = deviceId s ∧ h.seq = ((NMap.getD s.span.ins (inKey h.src h.channel) spanFresh).applied + 1) % 2 ^ 32 ∧ NMap.has s.ctxs h.context = true ∧ admits s h 0 h.length = none) ∧
  (∃ (s : State) (port : Fin 8) (h : SpanHdr) (data : List Byte),
    spanLive s port = true ∧ requestBad h 3 = false ∧ h.dst = deviceId s ∧ h.length = data.length ∧ h.seq = ((NMap.getD s.span.ins (inKey h.src h.channel) spanFresh).applied + 1) % 2 ^ 32 ∧ NMap.has s.ctxs h.context = true ∧ (h.address % 8 ≠ 0 ∨ h.length ≠ 16 ∨ admits s h 2 8 = none ∨ isDeck s h.address = false)) ∧
  (∃ (s : State) (port : Fin 8) (h : SpanHdr) (data : List Byte),
    spanLive s port = true ∧ requestBad h 3 = false ∧ h.dst = deviceId s ∧ h.length = data.length ∧ h.seq = ((NMap.getD s.span.ins (inKey h.src h.channel) spanFresh).applied + 1) % 2 ^ 32 ∧ NMap.has s.ctxs h.context = true ∧ (h.address % 8 ≠ 0 ∨ h.length ≠ 16 ∨ admits s h 2 8 = none ∨ isDeck s h.address = false)) ∧
  (∃ (s : State) (port : Fin 8) (h : SpanHdr) (b : Nat),
    Admitted s port h 2 0 ∧ isDeck s h.address = true ∧ b ∈ blocksOf (gLocal h.address) h.length ∧ unreadable s (b * 64) = true) ∧
  (∃ (s : State) (port : Fin 8) (h : SpanHdr) (data : List Byte),
    Admitted s port h 1 1 ∧ h.length = data.length ∧ isDeck s h.address = false) ∧
  (∃ (s : State) (port : Fin 8) (h : SpanHdr),
    Admitted s port h 2 0 ∧ isDeck s h.address = false) ∧
  (∃ (s : State) (port : Fin 8) (h : SpanHdr) (data : List Byte) (c : Instr) (op : Nat) (n : Nat),
    spanLive s port = true ∧ requestBad h op = false ∧ h.dst = deviceId s ∧ ((c = .putRequest port h data ∧ op = 1 ∧ h.length = data.length ∨ c = .getRequest port h ∧ op = 2 ∨ c = .atomicRequest port h data ∧ op = 3 ∧ h.length = data.length ∨ c = .mergeRequest port h data ∧ op = 4 ∧ h.length = data.length)) ∧ n = (NMap.getD s.span.ins (inKey h.src h.channel) spanFresh).applied ∧ h.seq ≠ (n + 1) % 2 ^ 32) ∧
  (∃ (s : State) (port : Fin 8) (h : SpanHdr) (data : List Byte) (c : Instr) (op : Nat) (n : Nat),
    spanLive s port = true ∧ requestBad h op = false ∧ h.dst = deviceId s ∧ ((c = .putRequest port h data ∧ op = 1 ∧ h.length = data.length ∨ c = .getRequest port h ∧ op = 2 ∨ c = .atomicRequest port h data ∧ op = 3 ∧ h.length = data.length ∨ c = .mergeRequest port h data ∧ op = 4 ∧ h.length = data.length)) ∧ n = (NMap.getD s.span.ins (inKey h.src h.channel) spanFresh).applied ∧ h.seq ≠ (n + 1) % 2 ^ 32) :=
  ⟨⟨peered (withCtx ctx0), 7, hdr0 1 0 3, [7#8, 8#8, 9#8], by decide +kernel⟩,
   ⟨peered (withCtx ctx0), 7, hdr0 2 0 64, by decide +kernel⟩,
   ⟨peered (withCtx ctx0), 7, hdr0 3 3 16, natLE 5 8 ++ natLE 9 8, by decide +kernel⟩,
   ⟨peered (withCtx { ctx0 with queues := [(6, queue0)] }), 7, { hdr0 4 0 8 with op := fFp32, queue := 6, step := 1, address := 3 }, zeros 8, queue0, (mergeRecords queue0 ({ hdr0 4 0 8 with op := fFp32, queue := 6, step := 1, address := 3 }) (zeros 8)).getD [], by decide +kernel⟩,
   ⟨peered live, 7, hdr0 2 0 64, by decide +kernel⟩,
   ⟨peered (withCtx ctx0), 7, { hdr0 2 0 64 with address := deckAt (2 ^ 40) }, by decide +kernel⟩,
   ⟨peered (withCtx ctx0), 7, { hdr0 3 3 16 with address := deckAt 0x80000004 }, natLE 5 8 ++ natLE 9 8, by decide +kernel⟩,
   ⟨peered (withCtx ctx0), 7, { hdr0 3 3 16 with address := deckAt (2 ^ 39) }, natLE 5 8 ++ natLE 9 8, by decide +kernel⟩,
   ⟨{ peered (withCtx ctx0) with deck := { live.deck with bad := [0x80000040 / 64, partnerOf 0x80000040 / 64] } }, 7, hdr0 2 0 128, 0x80000040 / 64, by decide +kernel⟩,
   ⟨{ peered (withCtx ctx0) with cfg := { live.cfg with package := hostPack } }, 7, { hdr0 1 0 3 with address := hostAt 64 }, [7#8, 8#8, 9#8], by decide +kernel⟩,
   ⟨{ peered (withCtx ctx0) with cfg := { live.cfg with package := hostPack } }, 7, { hdr0 2 0 64 with address := hostAt 64 }, by decide +kernel⟩,
   ⟨peered (withCtx ctx0), 7, { hdr0 2 0 64 with seq := 2 ^ 32 - 64 }, [], .getRequest 7 { hdr0 2 0 64 with seq := 2 ^ 32 - 64 }, 2, 2 ^ 32 - 1, by decide +kernel⟩,
   ⟨peered (withCtx ctx0), 7, { hdr0 1 0 3 with seq := 2 }, [7#8, 8#8, 9#8], .putRequest 7 { hdr0 1 0 3 with seq := 2 } [7#8, 8#8, 9#8], 1, 2 ^ 32 - 1, by decide +kernel⟩⟩

/-- Something meets the hypotheses of SpanRequestsEnd. -/
theorem hyp_SpanRequestsEnd :
  (∃ (s : State) (port : Fin 8) (h : SpanHdr) (q : SpanReq) (o : SpanOut) (a : Acc) (id : Nat) (it : Item) (data : List Byte) (c : Instr),
    spanLive s port = true ∧ h.op = 0 ∧ h.hops ≤ 12 ∧ h.dst = deviceId s ∧ NMap.find? s.span.outs (outKey h.src h.channel) = some o ∧ o.waiting = [] ∧ ((c = .putDone port h ∧ h.opcode = 0x20 ∧ data = [] ∨ c = .getData port h data ∧ h.opcode = 0x21 ∧ data.length = q.hdr.length ∨ c = .atomicDone port h data ∧ h.opcode = 0x22 ∧ data.length = 8 ∨ c = .mergeDone port h ∧ h.opcode = 0x23 ∧ data = [])) ∧ List.find? (fun r => r.seq == h.seq && r.hdr.opcode + 0x1F == h.opcode) o.open_ = some q ∧ NMap.find? s.kid.accs q.acc = some a ∧ a.owner = .itemMerge id ∧ getItem s id = some it) ∧
  (∃ (s : State) (dst : Nat) (ch : Nat) (q : SpanReq) (o : SpanOut),
    ch < 8 ∧ NMap.find? s.span.outs (outKey dst ch) = some o ∧ q ∈ o.open_ ∧ (q.issued + rwGet s rwResend ≤ s.clock.ticks ∨ (getSpanLink s q.port).st ≠ .active)) ∧
  (∃ (s : State) (port : Fin 8),
    (getSpanLink s port).st = .active) ∧
  (∃ (s : State) (port : Fin 8) (h : SpanHdr) (d : List Byte) (rest : List (SpanHdr × List Byte)),
    (getSpanLink s port).st = .active ∧ (getSpanLink s port).pulling = (h, d) :: rest ∧ d ≠ [] ∧ h.opcode = 1 ∧ h.dst = deviceId s ∧ h.seq = ((NMap.getD s.span.ins (inKey h.src h.channel) spanFresh).applied + 1) % 2 ^ 32 ∧ NMap.has s.ctxs h.context = true ∧ (admits s h 1 h.length).isSome = true ∧ isDeck s h.address = true ∧ (gLocal h.address + d.length ≤ 2 ^ 40 ∨ (2 ^ 40 ≤ gLocal h.address ∧ gLocal h.address + d.length ≤ 2 ^ 41)) ∧ SoundAt s (gLocal h.address) d.length ∧ SoundAt s (partnerOf (gLocal h.address)) d.length) :=
  ⟨⟨{ peered (withItem ctx0 { item0 with st := .running, waiting := 1 }) with kid := { live.kid with accs := [(0, acc0 (.itemMerge 0) true)] }, span := { live.span with outs := [(outKey 9 7, { next := 1, open_ := [{ seq := 0, hdr := { hdr0 4 0 0 with src := 3, dst := 9 }, data := [], acc := 0, port := 7, issued := 0, first := 0 }], waiting := [] })] } }, 7, hdr0 0x23 0 0, { seq := 0, hdr := { hdr0 4 0 0 with src := 3, dst := 9 }, data := [], acc := 0, port := 7, issued := 0, first := 0 }, { next := 1, open_ := [{ seq := 0, hdr := { hdr0 4 0 0 with src := 3, dst := 9 }, data := [], acc := 0, port := 7, issued := 0, first := 0 }], waiting := [] }, acc0 (.itemMerge 0) true, 0, { item0 with st := .running, waiting := 1 }, [], .mergeDone 7 (hdr0 0x23 0 0), by decide +kernel⟩,
   ⟨{ live with span := { live.span with outs := [(outKey 9 7, { next := 1, open_ := [{ seq := 0, hdr := { hdr0 4 0 0 with src := 3, dst := 9 }, data := [], acc := 0, port := 7, issued := 0, first := 0 }], waiting := [] })] } }, 9, 7, { seq := 0, hdr := { hdr0 4 0 0 with src := 3, dst := 9 }, data := [], acc := 0, port := 7, issued := 0, first := 0 }, { next := 1, open_ := [{ seq := 0, hdr := { hdr0 4 0 0 with src := 3, dst := 9 }, data := [], acc := 0, port := 7, issued := 0, first := 0 }], waiting := [] }, by decide +kernel⟩,
   ⟨peered (withCtx ctx0), 7, by decide +kernel⟩,
   ⟨{ withCtx ctx0 with spanLinks := [(7, { Link.reset with st := .active, pulling := [(hdr0 1 0 600, [7#8, 8#8])] })] }, 7, hdr0 1 0 600, [7#8, 8#8], [], by decide +kernel⟩⟩

/-- Something meets the hypotheses of DeckWritesOnlyItsBytes. -/
theorem hyp_DeckWritesOnlyItsBytes :
  (∃ (s : State) (a : Nat) (bs : List Byte),
    s.heal.rebuilds = [] ∧ (a + bs.length ≤ 2 ^ 40 ∨ (2 ^ 40 ≤ a ∧ a + bs.length ≤ 2 ^ 41))) ∧
  (∃ (s : State) (a : Nat) (bs : List Byte),
    s.heal.rebuilds = [] ∧ (a + bs.length ≤ 2 ^ 40 ∨ (2 ^ 40 ≤ a ∧ a + bs.length ≤ 2 ^ 41))) ∧
  (∃ (s : State) (a : Nat) (bs : List Byte),
    s.heal.rebuilds = [] ∧ (a + bs.length ≤ 2 ^ 40 ∨ (2 ^ 40 ≤ a ∧ a + bs.length ≤ 2 ^ 41)) ∧ a + bs.length ≤ (deckMap s).1 ∧ (deckMap s).1 ≤ 2 ^ 40) :=
  ⟨⟨live, 2 ^ 40 - 2, [1#8, 2#8], by decide +kernel⟩,
   ⟨live, 0x80000000, [1#8, 2#8], by decide +kernel⟩,
   ⟨live, 0xFFFFFFFE, [1#8, 2#8], by decide +kernel⟩⟩

/-- Something meets the hypotheses of DeckReadsAreChecked. -/
theorem hyp_DeckReadsAreChecked :
  (∃ (s : State) (pier : Nat) (entry : Nat) (errs : Nat) (id : Nat) (e : QEntry) (q : QUnit),
    pier < 256 ∧ (getPier s pier).queue[entry]? = some e ∧ e.units.find? (fun u => !u.landed) = some q ∧ (getPier s pier).item = some id ∧ (getPier s pier).unbooked = [] ∧ (getPier s pier).lost = false ∧ s.trestle.on = true ∧ running s = true ∧ q.slot ≤ s.trestle.slot ∧ errs ≤ 3 ∧ ((∀ k < 4, badAt s ((q.unit * 4 + k) * 64) = false))) ∧
  (∃ (s : State) (pier : Nat) (entry : Nat) (errs : Nat) (id : Nat) (e : QEntry) (q : QUnit),
    pier < 256 ∧ (getPier s pier).queue[entry]? = some e ∧ e.units.find? (fun u => !u.landed) = some q ∧ (getPier s pier).item = some id ∧ (getPier s pier).unbooked = [] ∧ (getPier s pier).lost = false ∧ s.trestle.on = true ∧ running s = true ∧ q.slot ≤ s.trestle.slot ∧ errs ≤ 3 ∧ ((∀ k < 4, badAt s ((q.unit * 4 + k) * 64) = false))) ∧
  (∃ (s : State) (pier : Nat) (entry : Nat) (e : QEntry) (q : QUnit),
    pier < 256 ∧ (getPier s pier).queue[entry]? = some e ∧ e.units.find? (fun u => !u.landed) = some q ∧ s.trestle.slot < q.slot) ∧
  (∃ (s : State) (ch : Nat) (errs : Nat),
    PatrolReady s ch ∧ scrubBlock s ch ∉ s.deck.bad ∧ errs ≤ 3) ∧
  (∃ (s : State) (ch : Nat) (errs : Nat) (t : Nat),
    PatrolReady s ch ∧ 4 ≤ errs ∧ twinOf s (scrubBlock s ch * 64) = some t ∧ badAt s t = false) ∧
  (∃ (s : State) (ch : Nat),
    PatrolReady s ch ∧ scrubBlock s ch ∈ s.deck.bad ∧ twinOf s (scrubBlock s ch * 64) = none ∧ regionOf s (scrubBlock s ch * 64) ≠ .copyPool ∧ deckGroup s (scrubBlock s ch * 64) = none) :=
  ⟨⟨{ withItem ctx0 { item0 with st := .running } with trestle := { live.trestle with slot := 4 }, piers := [(255, { Pier.fresh with item := some 0, queue := [{ op := 0, units := [{ unit := 5, slot := 4, landed := false }, { unit := 6, slot := 8, landed := false }] }, { op := 0, units := [{ unit := 7, slot := 4, landed := true }] }] })] }, 255, 0, 3, 0, { op := 0, units := [{ unit := 5, slot := 4, landed := false }, { unit := 6, slot := 8, landed := false }] }, { unit := 5, slot := 4, landed := false }, by decide +kernel⟩,
   ⟨{ withItem ctx0 { item0 with st := .running } with trestle := { live.trestle with slot := 8 }, piers := [(255, { Pier.fresh with item := some 0, queue := [{ op := 0, units := [{ unit := 5, slot := 4, landed := true }, { unit := 6, slot := 8, landed := false }] }, { op := 0, units := [{ unit := 7, slot := 4, landed := true }] }] })] }, 255, 0, 0, 0, { op := 0, units := [{ unit := 5, slot := 4, landed := true }, { unit := 6, slot := 8, landed := false }] }, { unit := 6, slot := 8, landed := false }, by decide +kernel⟩,
   ⟨{ withItem ctx0 { item0 with st := .running } with trestle := { live.trestle with slot := 3 }, piers := [(255, { Pier.fresh with item := some 0, queue := [{ op := 0, units := [{ unit := 5, slot := 4, landed := false }, { unit := 6, slot := 8, landed := false }] }, { op := 0, units := [{ unit := 7, slot := 4, landed := true }] }] })] }, 255, 0, { op := 0, units := [{ unit := 5, slot := 4, landed := false }, { unit := 6, slot := 8, landed := false }] }, { unit := 5, slot := 4, landed := false }, by decide +kernel⟩,
   ⟨live, 511, 3, by decide +kernel⟩,
   ⟨scrubState, scrubChan, 4, partnerOf (scrubBlock scrubState scrubChan * 64), by decide +kernel⟩,
   ⟨{ live with deck := { live.deck with scrub := [(511, 2 ^ 25 - 4)], bad := [scrubBlock { live with deck := { live.deck with scrub := [(511, 2 ^ 25 - 4)] } } 511] } }, 511, by decide +kernel⟩⟩

/-- Something meets the hypotheses of ChannelsAreLostAndFilled. -/
theorem hyp_ChannelsAreLostAndFilled :
  (∃ (s : State) (ch : Nat) (cause : DeckCause),
    ch < 512 ∧ s.power.off = false ∧ ch ∉ s.deck.lost ∧ ((cause = .blocks ∧ 16 ≤ ((NMap.getD s.deck.errTicks ch []).filter (fun t => decide (now s < t + 1048576))).length) ∨ (cause = .phy ∧ 1 ≤ NMap.getD s.deck.phyFails ch 0) ∨ (cause = .bootTest ∧ s.boot.phase = 2))) ∧
  (∃ (s : State) (ch : Nat),
    ch < 512 ∧ s.power.off = false ∧ NMap.getD s.deck.phyFails ch 0 = 0) ∧
  (∃ (s : State) (st : Nat) (cause : DeckCause),
    st < 16 ∧ s.power.off = false ∧ st ∉ s.deck.stacksOut ∧ ((cause = .phy ∨ cause = .sensor ∨ (cause = .channels ∧ 8 ≤ (s.deck.lost.filter (fun c => c / 32 == st)).length)))) ∧
  (∃ (s : State) (ch : Nat),
    ch < 512 ∧ s.power.off = false ∧ s.deck.unfilled.head? = some ch ∧ groupsOn s ch = []) ∧
  (∃ (s : State),
    s.power.off = false ∧ s.deck.withdrawn < 4 * s.deck.lost.length - 128) :=
  ⟨⟨{ live with deck := { live.deck with phyFails := [(511, 1)] } }, 511, .phy, by decide +kernel⟩,
   ⟨live, 511, by decide +kernel⟩,
   ⟨live, 15, .sensor, by decide +kernel⟩,
   ⟨{ live with deck := { live.deck with lost := [511], unfilled := [511] } }, 511, by decide +kernel⟩,
   ⟨{ live with deck := { live.deck with lost := List.range 33 } }, by decide +kernel⟩⟩

/-- Something meets the hypotheses of NvmeControllersServe. -/
theorem hyp_NvmeControllersServe :
  (∃ (s : State) (port : Nat) (ctrl : Nat) (i : Nat) (id : Nat) (c : NvmeCtl) (entry : List Byte) (got : List Byte) (a : Acc) (it : Item),
    port < 2 ∧ ctrl < 16 ∧ s.power.off = false ∧ getCtl s (nvmeKey port ctrl) = c ∧ c.life = .ready ∧ entry.length = 16 ∧ bitAt (leAt entry 14 2) 0 = c.phase ∧ leAt entry 14 2 / 2 = 0 ∧ leAt entry 10 2 = 1 ∧ leAt entry 8 2 < 1024 ∧ NMap.find? c.cmds (leAt entry 12 2) = some i ∧ NMap.find? s.kid.accs i = some a ∧ a.write = false ∧ a.owner = .item id ∧ getItem s id = some it ∧ NMap.find? c.landing (leAt entry 12 2) = some got ∧ got.length = a.len) ∧
  (∃ (s : State) (port : Nat) (ctrl : Nat) (c : NvmeCtl) (entry : List Byte),
    port < 2 ∧ ctrl < 16 ∧ s.power.off = false ∧ getCtl s (nvmeKey port ctrl) = c ∧ c.life = .ready ∧ entry.length = 16 ∧ bitAt (leAt entry 14 2) 0 = c.phase ∧ NMap.find? c.cmds (leAt entry 12 2) = none) ∧
  (∃ (s : State) (port : Nat) (ctrl : Nat) (cid : Nat) (off : Nat) (i : Nat) (c : NvmeCtl) (data : List Byte) (a : Acc),
    port < 2 ∧ ctrl < 16 ∧ s.power.off = false ∧ s.power.nap = false ∧ getCtl s (nvmeKey port ctrl) = c ∧ c.cqHead < 1024 ∧ NMap.find? c.cmds cid = some i ∧ NMap.find? s.kid.accs i = some a ∧ a.write = false ∧ off + data.length ≤ a.len ∧ off + data.length ≤ 2 ^ 20) ∧
  (∃ (s : State) (port : Nat) (ctrl : Nat) (addr : Nat) (data : List Byte),
    port < 2 ∧ ctrl < 16 ∧ s.power.off = false ∧ s.power.nap = false ∧ addr + data.length ≤ 65536) ∧
  (∃ (s : State) (i : Nat) (k : Nat) (a : Acc) (c : NvmeCtl),
    NMap.find? s.kid.accs i = some a ∧ List.find? (fun p => p.2.cmds.any (fun q => q.2 == i)) s.nvme = some (k, c) ∧ c.life = .ready ∧ accLate s a = true) ∧
  (∃ (s : State) (port : Nat) (ctrl : Nat),
    port < 2 ∧ ctrl < 16 ∧ (getCtl s (nvmeKey port ctrl)).life = .ready ∧ 2 ≤ (getCtl s (nvmeKey port ctrl)).timeouts) ∧
  (∃ (s : State) (port : Nat) (ctrl : Nat) (since : Nat),
    port < 2 ∧ ctrl < 16 ∧ (getCtl s (nvmeKey port ctrl)).life = .resetting since ∧ s.clock.ticks < since + 16777216) ∧
  (∃ (s : State) (port : Nat) (ctrl : Nat) (since : Nat),
    port < 2 ∧ ctrl < 16 ∧ (getCtl s (nvmeKey port ctrl)).life = .resetting since ∧ since + 16777216 ≤ s.clock.ticks) :=
  ⟨⟨{ { withItem ctx0 { item0 with st := .running, waiting := 1 } with kid := { live.kid with accs := [(0, acc0 (.item 0) false)] } } with nvme := [(31, { NvmeCtl.fresh with cmds := [(7, 0)], landing := [(7, zeros 8)], nextCid := 8, cqHead := 1023 })] }, 1, 15, 0, 0, { NvmeCtl.fresh with cmds := [(7, 0)], landing := [(7, zeros 8)], nextCid := 8, cqHead := 1023 }, zeros 8 ++ natLE 1023 2 ++ natLE 1 2 ++ natLE 7 2 ++ natLE 1 2, zeros 8, acc0 (.item 0) false, { item0 with st := .running, waiting := 1 }, by decide +kernel⟩,
   ⟨{ live with nvme := [(31, NvmeCtl.fresh)] }, 1, 15, NvmeCtl.fresh, zeros 8 ++ natLE 1023 2 ++ natLE 1 2 ++ natLE 7 2 ++ natLE 1 2, by decide +kernel⟩,
   ⟨{ { live with kid := { live.kid with accs := [(0, acc0 (.item 0) false)] } } with nvme := [(31, { NvmeCtl.fresh with cmds := [(7, 0)] })] }, 1, 15, 7, 4, 0, { NvmeCtl.fresh with cmds := [(7, 0)] }, [1#8, 2#8, 3#8, 4#8], acc0 (.item 0) false, by decide +kernel⟩,
   ⟨live, 1, 15, 65532, [1#8, 2#8, 3#8, 4#8], by decide +kernel⟩,
   ⟨{ { live with kid := { live.kid with accs := [(0, acc0 (.item 0) false)] } } with nvme := [(31, { NvmeCtl.fresh with cmds := [(7, 0)] })] }, 0, 31, acc0 (.item 0) false, { NvmeCtl.fresh with cmds := [(7, 0)] }, by decide +kernel⟩,
   ⟨{ live with nvme := [(31, { NvmeCtl.fresh with timeouts := 2 })] }, 1, 15, by decide +kernel⟩,
   ⟨{ live with nvme := [(31, { NvmeCtl.fresh with life := .resetting (2 ^ 26 - 16777215) })] }, 1, 15, 2 ^ 26 - 16777215, by decide +kernel⟩,
   ⟨{ live with nvme := [(31, { NvmeCtl.fresh with life := .resetting (2 ^ 26 - 16777216) })] }, 1, 15, 2 ^ 26 - 16777216, by decide +kernel⟩⟩

/-- Something meets the hypotheses of UnitsAreHealed. -/
theorem hyp_UnitsAreHealed :
  (∃ (s : State) (pier : Nat) (id : Nat) (it : Item),
    pier < 256 ∧ running s = true ∧ (getPier s pier).lost = false ∧ (getPier s pier).item = some id ∧ getItem s id = some it ∧ it.handed = false) ∧
  (∃ (s : State) (pier : Nat) (cause : PierCause),
    pier < 256 ∧ s.power.off = false ∧ (getPier s pier).lost = false ∧ ((cause = .scratchBank ∨ cause = .portCheck ∨ (cause = .selfTest ∧ s.boot.phase = 2) ∨ (cause = .flags ∧ 3 ≤ ((getPier s pier).flagTicks.filter (fun t => decide (s.clock.ticks < t + 1048576))).length)))) ∧
  (∃ (s : State) (unit : HubUnit) (ts : List Nat),
    s.power.off = false ∧ ts = (NMap.getD s.heal.hubFaults (hubNumber unit) []).filter (fun t => decide (s.clock.ticks < t + 1048576))) ∧
  (∃ (s : State) (off : Nat) (v : Nat),
    s.power.off = false ∧ NMap.find? s.regs.copies off = some v) ∧
  (∃ (s : State) (parapet : Nat) (bank : Nat),
    parapet < 4 ∧ bank < 16 ∧ s.power.off = false ∧ bankKey parapet bank ∉ s.heal.banksOut ∧ parapet ∉ s.heal.diesOut) ∧
  (∃ (s : State) (d : Nat),
    d < 4 ∧ s.power.off = false ∧ d ∉ s.heal.enginesOut) ∧
  (∃ (s : State) (d : Nat),
    d < 4 ∧ s.power.off = false ∧ d ∉ s.heal.diesOut) :=
  ⟨⟨{ withItem ctx0 { item0 with st := .running, arrival := 4 } with piers := [(255, { Pier.fresh with item := some 0 })] }, 255, 0, { item0 with st := .running, arrival := 4 }, by decide +kernel⟩,
   ⟨{ live with deck := { live.deck with pierMem := [(255 * scratchSize, 1#8), (256 * scratchSize, 1#8)] } }, 255, .portCheck, by decide +kernel⟩,
   ⟨{ live with heal := { live.heal with hubFaults := [(2, [5, 2 ^ 26 - 9])] } }, .mergeUnit, [2 ^ 26 - 9], by decide +kernel⟩,
   ⟨{ live with regs := { live.regs with copies := [(rwTimeout, 70000)] } }, rwTimeout, 70000, by decide +kernel⟩,
   ⟨live, 3, 15, by decide +kernel⟩,
   ⟨live, 3, by decide +kernel⟩,
   ⟨live, 3, by decide +kernel⟩⟩

/-- Something meets the hypotheses of GroupsAreRebuilt. -/
theorem hyp_GroupsAreRebuilt :
  (∃ (s : State) (v : Nat) (g : Nat) (t : TDesc) (e : DEntry),
    running s = true ∧ groupOf s v g = some (t, e) ∧ inDeckTier e = true ∧ ((∃ b ∈ blocksOf (gLocal (locAddr s e.loc)) e.size, badAt s (b * 64) = true)) ∧ weightVer s v = none ∧ stateVer s v = none ∧ e.state ≠ gRebuilding ∧ e.state ≠ gLost ∧ ((∀ p ∈ s.heal.rebuilds, ¬(p.2.ver = v ∧ p.2.group = g))) ∧ migrationOf s v g = none) ∧
  (∃ (s : State) (i : Nat) (r : Rebuild),
    NMap.find? s.heal.rebuilds i = some r ∧ r.running = true ∧ r.fatal = none ∧ r.written = true ∧ r.waiting = 0 ∧ s.heal.outOfService = false ∧ s.power.off = false) ∧
  (∃ (s : State) (i : Nat) (kind : Nat) (loc : Nat) (r : Rebuild) (x : Version) (t : TDesc) (e : DEntry),
    NMap.find? s.heal.rebuilds i = some r ∧ r.fatal = some (kind, loc) ∧ r.state = none ∧ getVer s r.ver = some x ∧ groupOf s r.ver r.group = some (t, e) ∧ e.state ≠ gLost) ∧
  (∃ (s : State) (v : Nat) (g : Nat) (x : Version) (t : TDesc) (e : DEntry),
    running s = true ∧ rwGet s rwAuditRate ≠ 0 ∧ s.deck.audit.target = none ∧ (auditList s)[s.deck.audit.pos % max 1 (auditList s).length]? = some (v, g) ∧ getVer s v = some x ∧ groupOf s v g = some (t, e) ∧ e.state ≠ gLost ∧ e.state ≠ gRebuilding) ∧
  (∃ (s : State) (v : Nat) (g : Nat) (t : TDesc) (e : DEntry) (b : List Byte),
    running s = true ∧ rwGet s rwAuditRate ≠ 0 ∧ s.deck.audit.target = some (v, g) ∧ s.deck.audit.waiting = 0 ∧ s.deck.audit.failed = false ∧ groupOf s v g = some (t, e) ∧ readFrame (memTake zeroByte s.deck.audit.frame (backingExtent s e).1 (backingExtent s e).2) t.tableId (fun n => n % 2 ^ 32 == g && decide (n / 2 ^ 32 ≤ t.version)) = some b ∧ ((e.dirty = true ∨ leafOf t.tableId g e.fmt e.stride b = e.leaf))) :=
  ⟨⟨badTable, 0, 0, tdesc badTable tableAt, dentry badTable (tdesc badTable tableAt) 0, by decide +kernel⟩,
   ⟨{ withTable live with heal := { live.heal with rebuilds := [(4, rebuild0)] } }, 4, rebuild0, by decide +kernel⟩,
   ⟨{ withTable live with heal := { live.heal with rebuilds := [(4, { rebuild0 with fatal := some (3, 0) })] } }, 4, 3, 0, { rebuild0 with fatal := some (3, 0) }, testVer, tdesc (withTable live) tableAt, dentry (withTable live) (tdesc (withTable live) tableAt) 0, by decide +kernel⟩,
   ⟨withTable live, 0, 0, testVer, tdesc (withTable live) tableAt, dentry (withTable live) (tdesc (withTable live) tableAt) 0, by decide +kernel⟩,
   ⟨auditState, 0, 0, tdesc auditState tableAt, dentry auditState (tdesc auditState tableAt) 0, backBody, ⟨by decide +kernel, by decide +kernel, rfl, rfl, rfl, by decide +kernel, audit_reads, .inl (by decide +kernel)⟩⟩⟩

/-- Something meets the hypotheses of RingsAreServed. -/
theorem hyp_RingsAreServed :
  (∃ (s : State) (c : Nat) (r : Nat) (value : Nat) (x : Ctx) (y : Ring),
    RingAt s c r x y ∧ value < 2 ^ 32 ∧ diff32 value y.consumed ≤ 2 ^ y.subLog) ∧
  (∃ (s : State) (c : Nat) (r : Nat) (value : Nat) (x : Ctx) (y : Ring),
    RingAt s c r x y ∧ value < 2 ^ 32 ∧ diff32 value y.consumed ≤ 2 ^ y.subLog) ∧
  (∃ (s : State) (c : Nat) (r : Nat) (value : Nat) (x : Ctx) (y : Ring),
    RingAt s c r x y ∧ value < 2 ^ 32 ∧ 2 ^ y.subLog < diff32 value y.consumed) ∧
  (∃ (s : State) (c : Nat) (r : Nat) (value : Nat) (x : Ctx) (y : Ring),
    RingAt s c r x y ∧ value < 2 ^ 32 ∧ diff32 value y.cqHead ≤ diff32 y.written y.cqHead) ∧
  (∃ (s : State) (c : Nat) (r : Nat) (value : Nat) (x : Ctx) (y : Ring),
    RingAt s c r x y ∧ value < 2 ^ 32 ∧ diff32 y.written y.cqHead < diff32 value y.cqHead) ∧
  (∃ (s : State) (c : Nat) (value : Nat) (which : Nat) (x : Ctx) (cmd : Instr),
    NMap.find? s.ctxs c = some x ∧ value < 2 ^ 32 ∧ ((which = 0 ∧ cmd = .quarantineLogHead c value ∨ which = 1 ∧ cmd = .haltLogHead c value ∨ which = 2 ∧ cmd = .eventTraceHead c value)) ∧ diff32 value (ctxLog x which).head ≤ diff32 (ctxLog x which).acked (ctxLog x which).head) ∧
  (∃ (s : State) (c : Nat) (value : Nat) (which : Nat) (x : Ctx) (cmd : Instr),
    NMap.find? s.ctxs c = some x ∧ value < 2 ^ 32 ∧ ((which = 0 ∧ cmd = .quarantineLogHead c value ∨ which = 1 ∧ cmd = .haltLogHead c value ∨ which = 2 ∧ cmd = .eventTraceHead c value)) ∧ diff32 (ctxLog x which).acked (ctxLog x which).head < diff32 value (ctxLog x which).head) ∧
  (∃ (s : State) (c : Nat) (value : Nat) (which : Nat) (x : Ctx) (cmd : Instr),
    NMap.find? s.ctxs c = some x ∧ value < 2 ^ 32 ∧ ((which = 0 ∧ cmd = .quarantineLogHead c value ∨ which = 1 ∧ cmd = .haltLogHead c value ∨ which = 2 ∧ cmd = .eventTraceHead c value)) ∧ diff32 (ctxLog x which).acked (ctxLog x which).head < diff32 value (ctxLog x which).head) ∧
  (∃ (s : State) (c : Nat) (r : Nat) (value : Nat) (cmd : Instr),
    NMap.find? s.ctxs c = none ∧ ((cmd = .submissionTail c r value ∨ cmd = .completionHead c r value ∨ cmd = .quarantineLogHead c value ∨ cmd = .haltLogHead c value ∨ cmd = .eventTraceHead c value))) ∧
  (∃ (s : State) (c : Nat) (r : Nat) (x : Ctx) (y : Ring) (bs : List Byte),
    RingAt s c r x y ∧ mayFetch s x y = true ∧ y.cacheable = true ∧ NMap.find? s.kid.lines ((gLocal (y.subBase + (y.consumed % 2 ^ y.subLog) * 64) - hostBase) / 64) = some bs) ∧
  (∃ (s : State) (c : Nat) (r : Nat) (x : Ctx) (y : Ring),
    RingAt s c r x y ∧ mayFetch s x y = true ∧ (y.cacheable = false ∨ NMap.find? s.kid.lines ((gLocal (y.subBase + (y.consumed % 2 ^ y.subLog) * 64) - hostBase) / 64) = none)) ∧
  (∃ (s : State) (c : Nat) (r : Nat) (x : Ctx) (y : Ring),
    RingAt s c r x y ∧ mayFetch s x y = true ∧ (y.cacheable = false ∨ NMap.find? s.kid.lines ((gLocal (y.subBase + (y.consumed % 2 ^ y.subLog) * 64) - hostBase) / 64) = none)) ∧
  (∃ (s : State) (c : Nat) (r : Nat) (x : Ctx) (y : Ring),
    RingAt s c r x y ∧ y.statusDirty = true ∧ y.statusBusy = false ∧ s.power.off = false) ∧
  (∃ (s : State) (c : Nat) (r : Nat) (x : Ctx) (y : Ring) (d : Desc),
    RingAt s c r x y ∧ NMap.find? y.descs y.written = some d ∧ entryDue d = true ∧ d.closeDue = false ∧ d.trailerDue = false ∧ d.lostGroups.drop d.lostSent = [] ∧ s.heal.outOfService = false ∧ s.power.off = false) ∧
  (∃ (s : State) (c : Nat) (r : Nat) (x : Ctx) (y : Ring) (d : Desc),
    RingAt s c r x y ∧ NMap.find? y.descs y.written = some d ∧ entryDue d = true ∧ d.closeDue = false ∧ d.trailerDue = true ∧ s.heal.outOfService = false ∧ s.power.off = false) ∧
  (∃ (s : State) (c : Nat) (r : Nat) (i : Nat) (x : Ctx) (y : Ring),
    RingAt s c r x y ∧ y.wake = some i) ∧
  (∃ (s : State) (c : Nat) (r : Nat) (value : Nat) (x : Ctx) (y : Ring),
    RingAt s c r x y ∧ WindowOpen s ∧ c < 65536 ∧ r < 16 ∧ value < 2 ^ 32 ∧ diff32 value y.consumed ≤ 2 ^ y.subLog) ∧
  (∃ (s : State) (c : Nat) (r : Nat),
    WindowOpen s ∧ c < 65536 ∧ r < 16) :=
  ⟨⟨withRing ring0, 5, 2, 16, { ctx0 with rings := [(2, ring0)] }, ring0, by decide +kernel⟩,
   ⟨{ withRing ring0 with power := { live.power with nap := true } }, 5, 2, 16, { ctx0 with rings := [(2, ring0)] }, ring0, by decide +kernel⟩,
   ⟨withRing ring0, 5, 2, 17, { ctx0 with rings := [(2, ring0)] }, ring0, by decide +kernel⟩,
   ⟨withRing { ring0 with consumed := 3, written := 2, tail := 3 }, 5, 2, 2, { ctx0 with rings := [(2, { ring0 with consumed := 3, written := 2, tail := 3 })] }, { ring0 with consumed := 3, written := 2, tail := 3 }, by decide +kernel⟩,
   ⟨withRing { ring0 with consumed := 3, written := 2, tail := 3 }, 5, 2, 3, { ctx0 with rings := [(2, { ring0 with consumed := 3, written := 2, tail := 3 })] }, { ring0 with consumed := 3, written := 2, tail := 3 }, by decide +kernel⟩,
   ⟨withCtx { ctx0 with hlog := { Log.none with produced := 5, acked := 4, head := 2 } }, 5, 4, 1, { ctx0 with hlog := { Log.none with produced := 5, acked := 4, head := 2 } }, .haltLogHead 5 4, by decide +kernel⟩,
   ⟨withCtx { ctx0 with hlog := { Log.none with produced := 5, acked := 4, head := 2 } }, 5, 5, 1, { ctx0 with hlog := { Log.none with produced := 5, acked := 4, head := 2 } }, .haltLogHead 5 5, by decide +kernel⟩,
   ⟨withCtx ctx0, 5, 2 ^ 32 - 1, 2, ctx0, .eventTraceHead 5 (2 ^ 32 - 1), by decide +kernel⟩,
   ⟨live, 5, 2, 3, .completionHead 5 2 3, by decide +kernel⟩,
   ⟨{ withRing { ring0 with cacheable := true, tail := 1 } with kid := { live.kid with lines := [(0x1000 / 64, List.replicate 64 7#8)] } }, 5, 2, { ctx0 with rings := [(2, { ring0 with cacheable := true, tail := 1 })] }, { ring0 with cacheable := true, tail := 1 }, List.replicate 64 7#8, by decide +kernel⟩,
   ⟨withRing { ring0 with tail := 1 }, 5, 2, { ctx0 with rings := [(2, { ring0 with tail := 1 })] }, { ring0 with tail := 1 }, by decide +kernel⟩,
   ⟨withRing { ring0 with cacheable := true, tail := 1 }, 5, 2, { ctx0 with rings := [(2, { ring0 with cacheable := true, tail := 1 })] }, { ring0 with cacheable := true, tail := 1 }, by decide +kernel⟩,
   ⟨withRing { ring0 with statusDirty := true }, 5, 2, { ctx0 with rings := [(2, { ring0 with statusDirty := true })] }, { ring0 with statusDirty := true }, by decide +kernel⟩,
   ⟨withRing { ring0 with consumed := 1, tail := 1, descs := [(0, { Desc.fresh (raw0 1 0 []) with status := some 0 })] }, 5, 2, { ctx0 with rings := [(2, { ring0 with consumed := 1, tail := 1, descs := [(0, { Desc.fresh (raw0 1 0 []) with status := some 0 })] })] }, { ring0 with consumed := 1, tail := 1, descs := [(0, { Desc.fresh (raw0 1 0 []) with status := some 0 })] }, { Desc.fresh (raw0 1 0 []) with status := some 0 }, by decide +kernel⟩,
   ⟨withRing { ring0 with consumed := 1, tail := 1, descs := [(0, { Desc.fresh (raw0 1 (hostAt 0x9000) []) with status := some 0, trailerDue := true })] }, 5, 2, { ctx0 with rings := [(2, { ring0 with consumed := 1, tail := 1, descs := [(0, { Desc.fresh (raw0 1 (hostAt 0x9000) []) with status := some 0, trailerDue := true })] })] }, { ring0 with consumed := 1, tail := 1, descs := [(0, { Desc.fresh (raw0 1 (hostAt 0x9000) []) with status := some 0, trailerDue := true })] }, { Desc.fresh (raw0 1 (hostAt 0x9000) []) with status := some 0, trailerDue := true }, by decide +kernel⟩,
   ⟨withRing { ring0 with wake := some 9 }, 5, 2, 9, { ctx0 with rings := [(2, { ring0 with wake := some 9 })] }, { ring0 with wake := some 9 }, by decide +kernel⟩,
   ⟨withRing ring0, 5, 2, 16, { ctx0 with rings := [(2, ring0)] }, ring0, by decide +kernel⟩,
   ⟨withRing ring0, 5, 2, by decide +kernel⟩⟩

/-- Something meets the hypotheses of ContextsChangeByCommands. -/
theorem hyp_ContextsChangeByCommands :
  (∃ (s : State) (c : Nat) (r : Nat) (x : Ctx) (y : Ring) (raw : List Byte) (img : List Byte),
    Taken s c r 2 [(32, 33)] imageLen x y raw img ∧ leAt raw 32 2 < 4096 ∧ NMap.has x.chains (leAt raw 32 2) = false) ∧
  (∃ (s : State) (c : Nat) (r : Nat) (x : Ctx) (y : Ring) (raw : List Byte) (img : List Byte),
    Taken s c r 2 [(32, 33)] imageLen x y raw img ∧ leAt raw 32 2 < 4096 ∧ NMap.has x.chains (leAt raw 32 2) = false ∧ imageBad img = none ∧ x.landing + (List.range (chainBufs img)).foldl (fun a i => a + chainBufSize img i) 0 ≤ 2 ^ 20) ∧
  (∃ (s : State) (c : Nat) (r : Nat) (x : Ctx) (y : Ring) (raw : List Byte) (arg : List Byte) (ch : Chain),
    Taken s c r 3 [(32, 33)] noArg x y raw arg ∧ leAt raw 32 2 < 4096 ∧ NMap.find? x.chains (leAt raw 32 2) = some ch ∧ ch.removing = false) ∧
  (∃ (s : State) (c : Nat) (r : Nat) (i : Nat) (d : Desc),
    RunsNow s c r 3 i d ∧ chainLive s c (leAt d.raw 32 2) = false) ∧
  (∃ (s : State) (c : Nat) (r : Nat) (x : Ctx) (y : Ring) (raw : List Byte) (arg : List Byte),
    Taken s c r 4 [(32, 36)] noArg x y raw arg ∧ leAt raw 32 4 < 2 ^ 20 ∧ NMap.has s.sched.flows (leAt raw 32 4) = false ∧ (leAt raw 36 1 = 0 ∨ (12 ≤ leAt raw 36 1 ∧ leAt raw 36 1 ≤ 16))) ∧
  (∃ (s : State) (c : Nat) (r : Nat) (x : Ctx) (y : Ring) (raw : List Byte) (arg : List Byte) (f : Flow),
    Taken s c r 5 [(32, 35)] noArg x y raw arg ∧ NMap.find? s.sched.flows (leAt raw 32 4) = some f ∧ f.ctx = c ∧ f.ring = r ∧ f.draining = false) ∧
  (∃ (s : State) (c : Nat) (r : Nat) (i : Nat) (d : Desc) (f : Flow),
    RunsNow s c r 5 i d ∧ NMap.find? s.sched.flows (leAt d.raw 32 4) = some f ∧ f.release = f.next) ∧
  (∃ (s : State) (c : Nat) (r : Nat) (x : Ctx) (y : Ring) (raw : List Byte) (arg : List Byte),
    Taken s c r 6 [(32, 36), (40, 55)] noArg x y raw arg ∧ leAt raw 36 1 < 8 ∧ leAt raw 48 8 ≠ 2 ^ 64 - 1 ∧ NMap.has x.ranges (leAt raw 32 4) = false ∧ localBad (gLocal (leAt raw 40 8)) (leAt raw 48 8) = false ∧ ((isOwn s (leAt raw 40 8) = true → gLocal (leAt raw 40 8) < deckTop → bitAt (leAt raw 36 1) 2 = false ∧ deckReachable s (gLocal (leAt raw 40 8)) (leAt raw 48 8) = true)) ∧ ((isOwn s (leAt raw 40 8) = true → ¬ gLocal (leAt raw 40 8) < deckTop → inHostWindow s (gLocal (leAt raw 40 8) - hostBase) (leAt raw 48 8) = true))) ∧
  (∃ (s : State) (c : Nat) (r : Nat) (x : Ctx) (y : Ring) (raw : List Byte) (arg : List Byte),
    Taken s c r 7 [(32, 35)] noArg x y raw arg ∧ NMap.has x.ranges (leAt raw 32 4) = true ∧ ((∀ p ∈ x.tensors, p.2.range ≠ leAt raw 32 4))) ∧
  (∃ (s : State) (c : Nat) (r : Nat) (x : Ctx) (y : Ring) (raw : List Byte) (arg : List Byte) (rg : Range),
    Taken s c r 8 [(32, 35)] (argOf 128) x y raw arg ∧ tensorInvalid arg = none ∧ leAt raw 32 4 < x.tensorTable ∧ NMap.has x.tensors (leAt raw 32 4) = false ∧ NMap.find? x.ranges (parseTensor arg).range = some rg ∧ gDev (parseTensor arg).base = gDev rg.base ∧ rg.base ≤ (parseTensor arg).view.lo ∧ (parseTensor arg).view.lo + (parseTensor arg).view.span ≤ rg.base + rg.len ∧ (((parseTensor arg).read = true → rg.read = true)) ∧ (((parseTensor arg).write = true → rg.write = true)) ∧ (((parseTensor arg).write = true → selfOverlap (parseTensor arg) = false))) ∧
  (∃ (s : State) (c : Nat) (r : Nat) (x : Ctx) (y : Ring) (raw : List Byte) (arg : List Byte) (t : Tensor),
    Taken s c r 9 [(32, 35)] noArg x y raw arg ∧ leAt raw 32 4 < x.tensorTable ∧ NMap.find? x.tensors (leAt raw 32 4) = some t ∧ t.dying = false) ∧
  (∃ (s : State) (c : Nat) (r : Nat) (i : Nat) (d : Desc),
    RunsNow s c r 9 i d ∧ tensorLive s c (leAt d.raw 32 4) = false) :=
  ⟨⟨withHead ctx1 (raw0 2 (hostAt 0x8000) (natLE 8 2)) ([1#8] ++ zeros 63 ++ ([0x48#8] ++ zeros 23 ++ [3#8] ++ zeros 39)), 5, 2, { ctx1 with rings := [(2, headRing (raw0 2 (hostAt 0x8000) (natLE 8 2)) ([1#8] ++ zeros 63 ++ ([0x48#8] ++ zeros 23 ++ [3#8] ++ zeros 39)))] }, headRing (raw0 2 (hostAt 0x8000) (natLE 8 2)) ([1#8] ++ zeros 63 ++ ([0x48#8] ++ zeros 23 ++ [3#8] ++ zeros 39)), raw0 2 (hostAt 0x8000) (natLE 8 2), [1#8] ++ zeros 63 ++ ([0x48#8] ++ zeros 23 ++ [3#8] ++ zeros 39), by decide +kernel⟩,
   ⟨withHead ctx1 (raw0 2 (hostAt 0x8000) (natLE 8 2)) (noopImage), 5, 2, { ctx1 with rings := [(2, headRing (raw0 2 (hostAt 0x8000) (natLE 8 2)) (noopImage))] }, headRing (raw0 2 (hostAt 0x8000) (natLE 8 2)) (noopImage), raw0 2 (hostAt 0x8000) (natLE 8 2), noopImage, by decide +kernel⟩,
   ⟨withHead ctx1 (raw0 3 0 (natLE 7 2)) ([]), 5, 2, { ctx1 with rings := [(2, headRing (raw0 3 0 (natLE 7 2)) ([]))] }, headRing (raw0 3 0 (natLE 7 2)) ([]), raw0 3 0 (natLE 7 2), [], { image := noopImage, removing := false }, by decide +kernel⟩,
   ⟨withRun ctx1 (raw0 3 0 (natLE 7 2)), 5, 2, 0, { Desc.fresh (raw0 3 0 (natLE 7 2)) with running := true }, ⟨⟨{ ctx1 with rings := [(2, runRing (raw0 3 0 (natLE 7 2)))] }, runRing (raw0 3 0 (natLE 7 2)), by decide +kernel⟩, by decide +kernel⟩⟩,
   ⟨withHead ctx1 (raw0 4 0 (natLE 1 4 ++ natLE 16 1)) ([]), 5, 2, { ctx1 with rings := [(2, headRing (raw0 4 0 (natLE 1 4 ++ natLE 16 1)) ([]))] }, headRing (raw0 4 0 (natLE 1 4 ++ natLE 16 1)) ([]), raw0 4 0 (natLE 1 4 ++ natLE 16 1), [], by decide +kernel⟩,
   ⟨withFlow (withHead ctx1 (raw0 5 0 (natLE 1 4)) []) flow0, 5, 2, { ctx1 with rings := [(2, headRing (raw0 5 0 (natLE 1 4)) ([]))] }, headRing (raw0 5 0 (natLE 1 4)) ([]), raw0 5 0 (natLE 1 4), [], flow0, by decide +kernel⟩,
   ⟨withFlow (withRun ctx1 (raw0 5 0 (natLE 1 4))) { flow0 with next := 5, release := 5, draining := true }, 5, 2, 0, { Desc.fresh (raw0 5 0 (natLE 1 4)) with running := true }, { flow0 with next := 5, release := 5, draining := true }, ⟨⟨{ ctx1 with rings := [(2, runRing (raw0 5 0 (natLE 1 4)))] }, runRing (raw0 5 0 (natLE 1 4)), by decide +kernel⟩, by decide +kernel⟩⟩,
   ⟨withHead ctx1 (raw0 6 0 (natLE 9 4 ++ natLE 3 1 ++ zeros 3 ++ natLE (hostAt 0) 8 ++ natLE 0x100000 8)) ([]), 5, 2, { ctx1 with rings := [(2, headRing (raw0 6 0 (natLE 9 4 ++ natLE 3 1 ++ zeros 3 ++ natLE (hostAt 0) 8 ++ natLE 0x100000 8)) ([]))] }, headRing (raw0 6 0 (natLE 9 4 ++ natLE 3 1 ++ zeros 3 ++ natLE (hostAt 0) 8 ++ natLE 0x100000 8)) ([]), raw0 6 0 (natLE 9 4 ++ natLE 3 1 ++ zeros 3 ++ natLE (hostAt 0) 8 ++ natLE 0x100000 8), [], by decide +kernel⟩,
   ⟨withHead ctx1 (raw0 7 0 (natLE 1 4)) ([]), 5, 2, { ctx1 with rings := [(2, headRing (raw0 7 0 (natLE 1 4)) ([]))] }, headRing (raw0 7 0 (natLE 1 4)) ([]), raw0 7 0 (natLE 1 4), [], by decide +kernel⟩,
   ⟨withHead ctx1 (raw0 8 (hostAt 0x8000) (natLE 63 4)) (natLE (deckAt 0x80020000) 8 ++ natLE fFp32 1 ++ natLE 1 1 ++ natLE 3 1 ++ natLE 0 1 ++ natLE 2 4 ++ natLE 32 4 ++ zeros 20 ++ natLE 4 8 ++ zeros 80), 5, 2, { ctx1 with rings := [(2, headRing (raw0 8 (hostAt 0x8000) (natLE 63 4)) (natLE (deckAt 0x80020000) 8 ++ natLE fFp32 1 ++ natLE 1 1 ++ natLE 3 1 ++ natLE 0 1 ++ natLE 2 4 ++ natLE 32 4 ++ zeros 20 ++ natLE 4 8 ++ zeros 80))] }, headRing (raw0 8 (hostAt 0x8000) (natLE 63 4)) (natLE (deckAt 0x80020000) 8 ++ natLE fFp32 1 ++ natLE 1 1 ++ natLE 3 1 ++ natLE 0 1 ++ natLE 2 4 ++ natLE 32 4 ++ zeros 20 ++ natLE 4 8 ++ zeros 80), raw0 8 (hostAt 0x8000) (natLE 63 4), natLE (deckAt 0x80020000) 8 ++ natLE fFp32 1 ++ natLE 1 1 ++ natLE 3 1 ++ natLE 0 1 ++ natLE 2 4 ++ natLE 32 4 ++ zeros 20 ++ natLE 4 8 ++ zeros 80, { base := deckAt tableAt, len := 0x100000, read := true, write := true, pageable := false }, by decide +kernel⟩,
   ⟨withHead ctx1 (raw0 9 0 (natLE 3 4)) ([]), 5, 2, { ctx1 with rings := [(2, headRing (raw0 9 0 (natLE 3 4)) ([]))] }, headRing (raw0 9 0 (natLE 3 4)) ([]), raw0 9 0 (natLE 3 4), [], tensor0, by decide +kernel⟩,
   ⟨withRun { ctx1 with tensors := [(3, { tensor0 with dying := true }), (4, setTensor)] } (raw0 9 0 (natLE 3 4)), 5, 2, 0, { Desc.fresh (raw0 9 0 (natLE 3 4)) with running := true }, ⟨⟨{ { ctx1 with tensors := [(3, { tensor0 with dying := true }), (4, setTensor)] } with rings := [(2, runRing (raw0 9 0 (natLE 3 4)))] }, runRing (raw0 9 0 (natLE 3 4)), by decide +kernel⟩, by decide +kernel⟩⟩⟩

/-- Something meets the hypotheses of EnginesAreCommanded. -/
theorem hyp_EnginesAreCommanded :
  (∃ (s : State) (c : Nat) (r : Nat) (x : Ctx) (y : Ring) (raw : List Byte) (b : List Byte),
    Taken s c r 0x11 [(32, 34)] (queueNeed true) x y raw b ∧ leAt raw 34 1 = 1 ∧ leAt raw 32 2 < 1024 ∧ NMap.has x.queues (leAt raw 32 2) = false ∧ createBad b = none ∧ createRefused s x b = none) ∧
  (∃ (s : State) (c : Nat) (r : Nat) (x : Ctx) (y : Ring) (raw : List Byte) (arg : List Byte) (m : MergeQueue),
    Taken s c r 0x11 [(32, 34)] noArg x y raw arg ∧ leAt raw 34 1 = 2 ∧ leAt raw 32 2 < 1024 ∧ NMap.find? x.queues (leAt raw 32 2) = some m ∧ m.dying = false) ∧
  (∃ (s : State) (c : Nat) (r : Nat) (i : Nat) (d : Desc),
    RunsNow s c r 0x11 i d ∧ queueLive s c (leAt d.raw 32 2) = false) ∧
  (∃ (s : State) (c : Nat) (r : Nat) (x : Ctx) (y : Ring) (raw : List Byte) (b : List Byte) (m : MergeQueue),
    Taken s c r 0x11 [(32, 34), (36, 39)] (queueNeed false) x y raw b ∧ leAt raw 34 1 = 3 ∧ leAt raw 32 2 < 1024 ∧ NMap.find? x.queues (leAt raw 32 2) = some m ∧ m.rows = true ∧ m.dying = false ∧ m.toApply ≤ leAt raw 36 4 ∧ setBad s x m b = none) ∧
  (∃ (s : State) (c : Nat) (r : Nat) (x : Ctx) (y : Ring) (raw : List Byte) (arg : List Byte) (k : ParaSet),
    Taken s c r 0x12 [(32, 36), (40, 43)] noArg x y raw arg ∧ leAt raw 33 1 = 1 ∧ paraSetBad raw = none ∧ k = { parapet := leAt raw 34 1, bankLog2 := leAt raw 35 1, firstBank := leAt raw 36 1, flow := leAt raw 40 4, dying := false } ∧ NMap.has x.sets (leAt raw 32 1) = false ∧ banksTaken s k = false) ∧
  (∃ (s : State) (c : Nat) (r : Nat) (x : Ctx) (y : Ring) (raw : List Byte) (arg : List Byte) (k : ParaSet),
    Taken s c r 0x12 [(32, 36), (40, 43)] noArg x y raw arg ∧ leAt raw 33 1 = 2 ∧ paraSetBad raw = none ∧ NMap.find? x.sets (leAt raw 32 1) = some k ∧ k.dying = false) ∧
  (∃ (s : State) (c : Nat) (r : Nat) (i : Nat) (d : Desc) (x : Ctx) (k : ParaSet),
    RunsNow s c r 0x12 i d ∧ NMap.find? s.ctxs c = some x ∧ NMap.find? x.sets (leAt d.raw 32 1) = some k ∧ setLive s c (leAt d.raw 32 1) = false) ∧
  (∃ (s : State) (c : Nat) (r : Nat) (x : Ctx) (y : Ring) (raw : List Byte) (arg : List Byte),
    Taken s c r 0x10 [(32, 43)] noArg x y raw arg) ∧
  (∃ (s : State) (c : Nat) (r : Nat) (x : Ctx) (y : Ring) (raw : List Byte) (arg : List Byte),
    Taken s c r 0x0A [(32, 32)] (argOf 64) x y raw arg ∧ leAt raw 32 1 < 64 ∧ NMap.has x.streams (leAt raw 32 1) = true) ∧
  (∃ (s : State) (c : Nat) (r : Nat) (x : Ctx) (y : Ring) (raw : List Byte) (arg : List Byte) (dst : TView),
    Taken s c r 0x0A [(32, 32)] (argOf 64) x y raw arg ∧ leAt raw 32 1 < 64 ∧ NMap.has x.streams (leAt raw 32 1) = false ∧ streamBad s x arg = none ∧ streamView x arg 4 = some dst ∧ streamBlocks dst arg ≠ 0) ∧
  (∃ (s : State) (c : Nat) (r : Nat) (x : Ctx) (y : Ring) (raw : List Byte) (arg : List Byte) (h : Halt),
    Taken s c r 0x0B [(32, 35)] noArg x y raw arg ∧ NMap.find? x.halts (leAt raw 32 4) = some h ∧ h.resumable = true ∧ h.running = none ∧ h.cancelled = false ∧ h.stream = true) ∧
  (∃ (s : State) (c : Nat) (r : Nat) (i : Nat) (d : Desc) (x : Ctx) (h : Halt),
    RunsNow s c r 0x0B i d ∧ NMap.find? s.ctxs c = some x ∧ NMap.find? x.halts (leAt d.raw 32 4) = some h ∧ h.stream = false ∧ h.waiting = 0 ∧ h.fault = [] ∧ h.cancelled = false ∧ h.denied = false ∧ h.phase = 2 ∧ h.running = some (r, i)) ∧
  (∃ (s : State) (c : Nat) (r : Nat) (x : Ctx) (y : Ring) (raw : List Byte) (arg : List Byte) (h : Halt),
    Taken s c r 0x0C [(32, 35)] noArg x y raw arg ∧ NMap.find? x.halts (leAt raw 32 4) = some h ∧ h.cancelled = false ∧ haltQuiet x h = true) ∧
  (∃ (s : State) (c : Nat) (r : Nat) (x : Ctx) (y : Ring) (raw : List Byte) (arg : List Byte) (h : Halt),
    Taken s c r 0x0C [(32, 35)] noArg x y raw arg ∧ NMap.find? x.halts (leAt raw 32 4) = some h ∧ h.cancelled = false ∧ haltQuiet x h = false) :=
  ⟨⟨withHead ctx1 (raw0 0x11 (hostAt 0x8000) (natLE 1023 2 ++ natLE 1 1)) (natLE 0 1 ++ natLE fFp32 1 ++ natLE 0 2 ++ natLE 2 2 ++ natLE 2 2 ++ natLE 16 8 ++ natLE 8 4 ++ natLE 1 4 ++ zeros 20 ++ natLE 3 4 ++ zeros 16 ++ natLE 9 2 ++ natLE 4095 2 ++ zeros 60), 5, 2, { ctx1 with rings := [(2, headRing (raw0 0x11 (hostAt 0x8000) (natLE 1023 2 ++ natLE 1 1)) (natLE 0 1 ++ natLE fFp32 1 ++ natLE 0 2 ++ natLE 2 2 ++ natLE 2 2 ++ natLE 16 8 ++ natLE 8 4 ++ natLE 1 4 ++ zeros 20 ++ natLE 3 4 ++ zeros 16 ++ natLE 9 2 ++ natLE 4095 2 ++ zeros 60))] }, headRing (raw0 0x11 (hostAt 0x8000) (natLE 1023 2 ++ natLE 1 1)) (natLE 0 1 ++ natLE fFp32 1 ++ natLE 0 2 ++ natLE 2 2 ++ natLE 2 2 ++ natLE 16 8 ++ natLE 8 4 ++ natLE 1 4 ++ zeros 20 ++ natLE 3 4 ++ zeros 16 ++ natLE 9 2 ++ natLE 4095 2 ++ zeros 60), raw0 0x11 (hostAt 0x8000) (natLE 1023 2 ++ natLE 1 1), natLE 0 1 ++ natLE fFp32 1 ++ natLE 0 2 ++ natLE 2 2 ++ natLE 2 2 ++ natLE 16 8 ++ natLE 8 4 ++ natLE 1 4 ++ zeros 20 ++ natLE 3 4 ++ zeros 16 ++ natLE 9 2 ++ natLE 4095 2 ++ zeros 60, by decide +kernel⟩,
   ⟨withHead { ctx1 with queues := [(6, queue0)] } (raw0 0x11 0 (natLE 6 2 ++ natLE 2 1)) [], 5, 2, { { ctx1 with queues := [(6, queue0)] } with rings := [(2, headRing (raw0 0x11 0 (natLE 6 2 ++ natLE 2 1)) ([]))] }, headRing (raw0 0x11 0 (natLE 6 2 ++ natLE 2 1)) ([]), raw0 0x11 0 (natLE 6 2 ++ natLE 2 1), [], queue0, by decide +kernel⟩,
   ⟨withRun { ctx1 with queues := [(6, { queue0 with dying := true })] } (raw0 0x11 0 (natLE 6 2 ++ natLE 2 1)), 5, 2, 0, { Desc.fresh (raw0 0x11 0 (natLE 6 2 ++ natLE 2 1)) with running := true }, ⟨⟨{ { ctx1 with queues := [(6, { queue0 with dying := true })] } with rings := [(2, runRing (raw0 0x11 0 (natLE 6 2 ++ natLE 2 1)))] }, runRing (raw0 0x11 0 (natLE 6 2 ++ natLE 2 1)), by decide +kernel⟩, by decide +kernel⟩⟩,
   ⟨withTable (withHead { ctx1 with queues := [(6, rowQueue)] } (raw0 0x11 (hostAt 0x8000) (natLE 6 2 ++ natLE 3 1 ++ zeros 1 ++ natLE 1 4)) (zeros 64)), 5, 2, { { ctx1 with queues := [(6, rowQueue)] } with rings := [(2, headRing (raw0 0x11 (hostAt 0x8000) (natLE 6 2 ++ natLE 3 1 ++ zeros 1 ++ natLE 1 4)) (zeros 64))] }, headRing (raw0 0x11 (hostAt 0x8000) (natLE 6 2 ++ natLE 3 1 ++ zeros 1 ++ natLE 1 4)) (zeros 64), raw0 0x11 (hostAt 0x8000) (natLE 6 2 ++ natLE 3 1 ++ zeros 1 ++ natLE 1 4), zeros 64, rowQueue, by decide +kernel⟩,
   ⟨withHead ctx1 (raw0 0x12 0 (natLE 63 1 ++ natLE 1 1 ++ natLE 1 1 ++ natLE 1 1 ++ natLE 2 1 ++ zeros 3 ++ natLE 1 4)) ([]), 5, 2, { ctx1 with rings := [(2, headRing (raw0 0x12 0 (natLE 63 1 ++ natLE 1 1 ++ natLE 1 1 ++ natLE 1 1 ++ natLE 2 1 ++ zeros 3 ++ natLE 1 4)) ([]))] }, headRing (raw0 0x12 0 (natLE 63 1 ++ natLE 1 1 ++ natLE 1 1 ++ natLE 1 1 ++ natLE 2 1 ++ zeros 3 ++ natLE 1 4)) ([]), raw0 0x12 0 (natLE 63 1 ++ natLE 1 1 ++ natLE 1 1 ++ natLE 1 1 ++ natLE 2 1 ++ zeros 3 ++ natLE 1 4), [], set0, by decide +kernel⟩,
   ⟨withHead { ctx1 with sets := [(63, set0)] } (raw0 0x12 0 (natLE 63 1 ++ natLE 2 1 ++ natLE 1 1 ++ natLE 1 1 ++ natLE 2 1 ++ zeros 3 ++ natLE 1 4)) ([]), 5, 2, { { ctx1 with sets := [(63, set0)] } with rings := [(2, headRing (raw0 0x12 0 (natLE 63 1 ++ natLE 2 1 ++ natLE 1 1 ++ natLE 1 1 ++ natLE 2 1 ++ zeros 3 ++ natLE 1 4)) ([]))] }, headRing (raw0 0x12 0 (natLE 63 1 ++ natLE 2 1 ++ natLE 1 1 ++ natLE 1 1 ++ natLE 2 1 ++ zeros 3 ++ natLE 1 4)) ([]), raw0 0x12 0 (natLE 63 1 ++ natLE 2 1 ++ natLE 1 1 ++ natLE 1 1 ++ natLE 2 1 ++ zeros 3 ++ natLE 1 4), [], set0, by decide +kernel⟩,
   ⟨withRun { ctx1 with sets := [(63, { set0 with dying := true })] } (raw0 0x12 0 (natLE 63 1 ++ natLE 2 1 ++ natLE 1 1 ++ natLE 1 1 ++ natLE 2 1 ++ zeros 3 ++ natLE 1 4)), 5, 2, 0, { Desc.fresh (raw0 0x12 0 (natLE 63 1 ++ natLE 2 1 ++ natLE 1 1 ++ natLE 1 1 ++ natLE 2 1 ++ zeros 3 ++ natLE 1 4)) with running := true }, { { ctx1 with sets := [(63, { set0 with dying := true })] } with rings := [(2, runRing (raw0 0x12 0 (natLE 63 1 ++ natLE 2 1 ++ natLE 1 1 ++ natLE 1 1 ++ natLE 2 1 ++ zeros 3 ++ natLE 1 4)))] }, { set0 with dying := true }, ⟨⟨{ { ctx1 with sets := [(63, { set0 with dying := true })] } with rings := [(2, runRing (raw0 0x12 0 (natLE 63 1 ++ natLE 2 1 ++ natLE 1 1 ++ natLE 1 1 ++ natLE 2 1 ++ zeros 3 ++ natLE 1 4)))] }, runRing (raw0 0x12 0 (natLE 63 1 ++ natLE 2 1 ++ natLE 1 1 ++ natLE 1 1 ++ natLE 2 1 ++ zeros 3 ++ natLE 1 4)), by decide +kernel⟩, by decide +kernel⟩⟩,
   ⟨withHead { ctx1 with cache := [{ key := [1#8], dataset := 3, generation := 4, pages := [0], size := 1 }, { key := [2#8], dataset := 3, generation := 5, pages := [1], size := 1 }, { key := [3#8], dataset := 9, generation := 1, pages := [2], size := 1 }] } (raw0 0x10 0 (natLE 3 8 ++ natLE 4 4)) ([]), 5, 2, { { ctx1 with cache := [{ key := [1#8], dataset := 3, generation := 4, pages := [0], size := 1 }, { key := [2#8], dataset := 3, generation := 5, pages := [1], size := 1 }, { key := [3#8], dataset := 9, generation := 1, pages := [2], size := 1 }] } with rings := [(2, headRing (raw0 0x10 0 (natLE 3 8 ++ natLE 4 4)) ([]))] }, headRing (raw0 0x10 0 (natLE 3 8 ++ natLE 4 4)) ([]), raw0 0x10 0 (natLE 3 8 ++ natLE 4 4), [], by decide +kernel⟩,
   ⟨withHead { ctx1 with streams := [(63, stream0)] } (raw0 0x0A (hostAt 0x8000) (natLE 63 1)) (natLE 3 4 ++ natLE 6 4 ++ zeros 6 ++ natLE 1 1 ++ natLE 3 1 ++ natLE 16 4 ++ zeros 44), 5, 2, { { ctx1 with streams := [(63, stream0)] } with rings := [(2, headRing (raw0 0x0A (hostAt 0x8000) (natLE 63 1)) (natLE 3 4 ++ natLE 6 4 ++ zeros 6 ++ natLE 1 1 ++ natLE 3 1 ++ natLE 16 4 ++ zeros 44))] }, headRing (raw0 0x0A (hostAt 0x8000) (natLE 63 1)) (natLE 3 4 ++ natLE 6 4 ++ zeros 6 ++ natLE 1 1 ++ natLE 3 1 ++ natLE 16 4 ++ zeros 44), raw0 0x0A (hostAt 0x8000) (natLE 63 1), natLE 3 4 ++ natLE 6 4 ++ zeros 6 ++ natLE 1 1 ++ natLE 3 1 ++ natLE 16 4 ++ zeros 44, by decide +kernel⟩,
   ⟨withHead { ctx1 with tensors := [(3, tensor0), (4, setTensor), (6, tensorB)] } (raw0 0x0A (hostAt 0x8000) (natLE 63 1)) (natLE 3 4 ++ natLE 6 4 ++ zeros 6 ++ natLE 1 1 ++ natLE 3 1 ++ natLE 16 4 ++ zeros 44), 5, 2, { { ctx1 with tensors := [(3, tensor0), (4, setTensor), (6, tensorB)] } with rings := [(2, headRing (raw0 0x0A (hostAt 0x8000) (natLE 63 1)) (natLE 3 4 ++ natLE 6 4 ++ zeros 6 ++ natLE 1 1 ++ natLE 3 1 ++ natLE 16 4 ++ zeros 44))] }, headRing (raw0 0x0A (hostAt 0x8000) (natLE 63 1)) (natLE 3 4 ++ natLE 6 4 ++ zeros 6 ++ natLE 1 1 ++ natLE 3 1 ++ natLE 16 4 ++ zeros 44), raw0 0x0A (hostAt 0x8000) (natLE 63 1), natLE 3 4 ++ natLE 6 4 ++ zeros 6 ++ natLE 1 1 ++ natLE 3 1 ++ natLE 16 4 ++ zeros 44, { view0 with base := deckAt 0x80021000 }, by decide +kernel⟩,
   ⟨withHead { ctx1 with halts := [(1, halt0 true)] } (raw0 0x0B 0 (natLE 1 4)) ([]), 5, 2, { { ctx1 with halts := [(1, halt0 true)] } with rings := [(2, headRing (raw0 0x0B 0 (natLE 1 4)) ([]))] }, headRing (raw0 0x0B 0 (natLE 1 4)) ([]), raw0 0x0B 0 (natLE 1 4), [], halt0 true, by decide +kernel⟩,
   ⟨withRun { ctx1 with halts := [(1, { halt0 false with running := some (2, 0) })] } (raw0 0x0B 0 (natLE 1 4)), 5, 2, 0, { Desc.fresh (raw0 0x0B 0 (natLE 1 4)) with running := true }, { { ctx1 with halts := [(1, { halt0 false with running := some (2, 0) })] } with rings := [(2, runRing (raw0 0x0B 0 (natLE 1 4)))] }, { halt0 false with running := some (2, 0) }, ⟨⟨{ { ctx1 with halts := [(1, { halt0 false with running := some (2, 0) })] } with rings := [(2, runRing (raw0 0x0B 0 (natLE 1 4)))] }, runRing (raw0 0x0B 0 (natLE 1 4)), by decide +kernel⟩, by decide +kernel⟩⟩,
   ⟨withHead { ctx1 with halts := [(1, halt0 true)] } (raw0 0x0C 0 (natLE 1 4)) ([]), 5, 2, { { ctx1 with halts := [(1, halt0 true)] } with rings := [(2, headRing (raw0 0x0C 0 (natLE 1 4)) ([]))] }, headRing (raw0 0x0C 0 (natLE 1 4)) ([]), raw0 0x0C 0 (natLE 1 4), [], halt0 true, by decide +kernel⟩,
   ⟨withHead { ctx1 with halts := [(1, { halt0 false with waiting := 1 })] } (raw0 0x0C 0 (natLE 1 4)) ([]), 5, 2, { { ctx1 with halts := [(1, { halt0 false with waiting := 1 })] } with rings := [(2, headRing (raw0 0x0C 0 (natLE 1 4)) ([]))] }, headRing (raw0 0x0C 0 (natLE 1 4)) ([]), raw0 0x0C 0 (natLE 1 4), [], { halt0 false with waiting := 1 }, by decide +kernel⟩⟩

/-- Something meets the hypotheses of TablesAreCommanded. -/
theorem hyp_TablesAreCommanded :
  (∃ (s : State) (c : Nat) (r : Nat) (set : Nat) (v0 : Nat) (x : Ctx) (y : Ring) (raw : List Byte) (arg : List Byte) (ver : Version) (t : TDesc) (e : DEntry),
    Taken s c r 0xF [(32, 36), (40, 43), (48, 55)] noArg x y raw arg ∧ tableNamed s x raw = .ok (set, v0, ver) ∧ t = tdesc s ver.desc ∧ leAt raw 40 4 < t.groups ∧ leAt raw 48 8 / 2 ^ 62 ≠ 3 ∧ e = dentry s t (leAt raw 40 4) ∧ locationOk s c x (leAt raw 48 8) e.size = true ∧ groupOf s v0 (leAt raw 40 4) = some (t, e) ∧ (e.state = gResident ∨ e.state = gTail) ∧ sharedGroup s v0 (leAt raw 40 4) = false ∧ ver.retired = false ∧ s.heal.rebuilds = [] ∧ s.tables.migrations = []) ∧
  (∃ (s : State) (c : Nat) (r : Nat) (set : Nat) (x : Ctx) (y : Ring) (raw : List Byte) (arg : List Byte),
    Taken s c r 0xD [(32, 36), (40, 47)] noArg x y raw arg ∧ leAt raw 32 4 < x.tensorTable ∧ tableSetAt s x (leAt raw 32 4) = some set ∧ commitOf s set (leAt raw 36 1) = none ∧ y.waiting = 0 ∧ leAt raw 40 8 % 256 = 0 ∧ leAt raw 40 8 + 256 ≤ deckTop ∧ switchBad s c x ((currentVer s set (leAt raw 36 1)).map (·.2)) (leAt raw 40 8) = false ∧ y.memFail = false ∧ ((∀ g ∈ freshExtents s (tdesc s (leAt raw 40 8)), g ∈ y.asked)) ∧ freshUnreadable s (tdesc s (leAt raw 40 8)) = false) ∧
  (∃ (s : State) (c : Nat) (r : Nat) (set : Nat) (v0 : Nat) (x : Ctx) (y : Ring) (raw : List Byte) (b : List Byte) (ver : Version),
    Taken s c r 0xE [(32, 36), (40, 43)] commitNeed x y raw b ∧ ((∀ p ∈ s.tables.commits, ¬(p.2.ctx = c ∧ p.2.ring = r))) ∧ tableNamed s x raw = .ok (set, v0, ver) ∧ commitOf s set (leAt raw 36 1) = none ∧ commitBad s c x set (leAt raw 36 1) b = none ∧ lateApplies s c (commitQueues b) (leAt raw 40 4) = [] ∧ startedPast s c (commitQueues b) (leAt raw 40 4) = true) ∧
  (∃ (s : State) (c : Nat) (r : Nat) (set : Nat) (v0 : Nat) (x : Ctx) (y : Ring) (raw : List Byte) (b : List Byte) (ver : Version),
    Taken s c r 0xE [(32, 36), (40, 43)] commitNeed x y raw b ∧ ((∀ p ∈ s.tables.commits, ¬(p.2.ctx = c ∧ p.2.ring = r))) ∧ tableNamed s x raw = .ok (set, v0, ver) ∧ commitOf s set (leAt raw 36 1) = none ∧ commitBad s c x set (leAt raw 36 1) b = none ∧ lateApplies s c (commitQueues b) (leAt raw 40 4) = [] ∧ startedPast s c (commitQueues b) (leAt raw 40 4) = false) ∧
  (∃ (s : State) (c : Nat) (r : Nat) (job : Nat) (m : Commit) (ver : Version) (d : Desc),
    List.find? (fun p => p.2.ctx == c && p.2.ring == r) s.tables.commits = some (job, m) ∧ m.phase = 2 ∧ getVer s m.ver = some ver ∧ s.heal.outOfService = false ∧ s.power.off = false ∧ ((∀ x, NMap.find? s.ctxs c = some x → ∀ f ∈ x.journal.frames, f.2.block = m.block → f.2.kind = 2 → f.2.acked = true)) ∧ getDesc s c r m.idx = some d ∧ d.status = none) :=
  ⟨⟨withTable (withHead ctx1 (raw0 0xF 0 (natLE 4 4 ++ zeros 4 ++ natLE 0 4 ++ zeros 4 ++ natLE 0x140000000 8)) []), 5, 2, tableAt + 0x2000, 0, { ctx1 with rings := [(2, headRing (raw0 0xF 0 (natLE 4 4 ++ zeros 4 ++ natLE 0 4 ++ zeros 4 ++ natLE 0x140000000 8)) ([]))] }, headRing (raw0 0xF 0 (natLE 4 4 ++ zeros 4 ++ natLE 0 4 ++ zeros 4 ++ natLE 0x140000000 8)) [], raw0 0xF 0 (natLE 4 4 ++ zeros 4 ++ natLE 0 4 ++ zeros 4 ++ natLE 0x140000000 8), [], testVer, tdesc (withTable live) tableAt, dentry (withTable live) (tdesc (withTable live) tableAt) 0, ⟨by decide +kernel, ok_of_some (by decide +kernel), by decide +kernel⟩⟩,
   ⟨withNew (withTable (withHead ctx1 (raw0 0xD 0 (natLE 4 4 ++ natLE 0 1 ++ zeros 3 ++ natLE (tableAt + 0x4000) 8)) [])), 5, 2, tableAt + 0x2000, { ctx1 with rings := [(2, headRing (raw0 0xD 0 (natLE 4 4 ++ natLE 0 1 ++ zeros 3 ++ natLE (tableAt + 0x4000) 8)) ([]))] }, headRing (raw0 0xD 0 (natLE 4 4 ++ natLE 0 1 ++ zeros 3 ++ natLE (tableAt + 0x4000) 8)) [], raw0 0xD 0 (natLE 4 4 ++ natLE 0 1 ++ zeros 3 ++ natLE (tableAt + 0x4000) 8), [], by decide +kernel⟩,
   ⟨withTable (withHead { ctx1 with queues := [(6, { rowQueue with started := 3 })] } (raw0 0xE (hostAt 0x8000) (natLE 4 4 ++ natLE 0 1 ++ zeros 3 ++ natLE 1 4)) (natLE (tableAt + 0x80000) 8 ++ natLE 0x10000 8 ++ natLE (2 ^ 62 + 0x40000) 8 ++ natLE 0x10000 8 ++ natLE 1 2 ++ zeros 30 ++ natLE 6 2 ++ zeros 62)), 5, 2, tableAt + 0x2000, 0, { { ctx1 with queues := [(6, { rowQueue with started := 3 })] } with rings := [(2, headRing (raw0 0xE (hostAt 0x8000) (natLE 4 4 ++ natLE 0 1 ++ zeros 3 ++ natLE 1 4)) (natLE (tableAt + 0x80000) 8 ++ natLE 0x10000 8 ++ natLE (2 ^ 62 + 0x40000) 8 ++ natLE 0x10000 8 ++ natLE 1 2 ++ zeros 30 ++ natLE 6 2 ++ zeros 62))] }, headRing (raw0 0xE (hostAt 0x8000) (natLE 4 4 ++ natLE 0 1 ++ zeros 3 ++ natLE 1 4)) (natLE (tableAt + 0x80000) 8 ++ natLE 0x10000 8 ++ natLE (2 ^ 62 + 0x40000) 8 ++ natLE 0x10000 8 ++ natLE 1 2 ++ zeros 30 ++ natLE 6 2 ++ zeros 62), raw0 0xE (hostAt 0x8000) (natLE 4 4 ++ natLE 0 1 ++ zeros 3 ++ natLE 1 4), natLE (tableAt + 0x80000) 8 ++ natLE 0x10000 8 ++ natLE (2 ^ 62 + 0x40000) 8 ++ natLE 0x10000 8 ++ natLE 1 2 ++ zeros 30 ++ natLE 6 2 ++ zeros 62, testVer, ⟨by decide +kernel, by decide +kernel, ok_of_some (by decide +kernel), by decide +kernel⟩⟩,
   ⟨withTable (withHead { ctx1 with queues := [(6, rowQueue)] } (raw0 0xE (hostAt 0x8000) (natLE 4 4 ++ natLE 0 1 ++ zeros 3 ++ natLE 1 4)) (natLE (tableAt + 0x80000) 8 ++ natLE 0x10000 8 ++ natLE (2 ^ 62 + 0x40000) 8 ++ natLE 0x10000 8 ++ natLE 1 2 ++ zeros 30 ++ natLE 6 2 ++ zeros 62)), 5, 2, tableAt + 0x2000, 0, { { ctx1 with queues := [(6, rowQueue)] } with rings := [(2, headRing (raw0 0xE (hostAt 0x8000) (natLE 4 4 ++ natLE 0 1 ++ zeros 3 ++ natLE 1 4)) (natLE (tableAt + 0x80000) 8 ++ natLE 0x10000 8 ++ natLE (2 ^ 62 + 0x40000) 8 ++ natLE 0x10000 8 ++ natLE 1 2 ++ zeros 30 ++ natLE 6 2 ++ zeros 62))] }, headRing (raw0 0xE (hostAt 0x8000) (natLE 4 4 ++ natLE 0 1 ++ zeros 3 ++ natLE 1 4)) (natLE (tableAt + 0x80000) 8 ++ natLE 0x10000 8 ++ natLE (2 ^ 62 + 0x40000) 8 ++ natLE 0x10000 8 ++ natLE 1 2 ++ zeros 30 ++ natLE 6 2 ++ zeros 62), raw0 0xE (hostAt 0x8000) (natLE 4 4 ++ natLE 0 1 ++ zeros 3 ++ natLE 1 4), natLE (tableAt + 0x80000) 8 ++ natLE 0x10000 8 ++ natLE (2 ^ 62 + 0x40000) 8 ++ natLE 0x10000 8 ++ natLE 1 2 ++ zeros 30 ++ natLE 6 2 ++ zeros 62, testVer, ⟨by decide +kernel, by decide +kernel, ok_of_some (by decide +kernel), by decide +kernel⟩⟩,
   ⟨{ withTable (withRun ctx1 (raw0 0xE (hostAt 0x8000) (natLE 4 4 ++ natLE 0 1 ++ zeros 3 ++ natLE 1 4))) with tables := { (withTable live).tables with commits := [(9, commit0)] } }, 5, 2, 9, commit0, testVer, { Desc.fresh (raw0 0xE (hostAt 0x8000) (natLE 4 4 ++ natLE 0 1 ++ zeros 3 ++ natLE 1 4)) with running := true }, ⟨by decide +kernel, by decide, by decide +kernel, by decide, by decide, fun x hx f hf => (by cases (Option.some.inj hx); cases hf), by decide +kernel, by decide⟩⟩⟩

/-- Something meets the hypotheses of SubmitsCreateItems. -/
theorem hyp_SubmitsCreateItems :
  (∃ (s : State) (c : Nat) (r : Nat) (x : Ctx) (y : Ring) (raw : List Byte) (img : List Byte) (deps : List (Nat × Nat × Bool)) (cmd : Instr),
    RingAt s c r x y ∧ y.head = some raw ∧ x.st = .active ∧ x.closing = false ∧ running s = true ∧ raw ≠ [] ∧ leAt raw 0 1 = 1 ∧ submitPlan s c r x y raw = .create img deps ∧ heldForBlocked s c r x = false ∧ ((cmd = .submit c r ∧ y.blocked = none ∨ cmd = .blockedRingAccept c r ∧ y.blocked.isSome = true)) ∧ ((∀ p ∈ s.sched.items, p.1 < s.sched.nextItem))) ∧
  (∃ (s : State) (c : Nat) (r : Nat) (st : Nat) (k : Nat) (x : Ctx) (y : Ring) (raw : List Byte),
    RingAt s c r x y ∧ y.head = some raw ∧ x.st = .active ∧ x.closing = false ∧ running s = true ∧ y.blocked = none ∧ ((raw = [] ∧ st = 0x21 ∧ k = 0xFFFFFFFF) ∨ (raw ≠ [] ∧ leAt raw 0 1 = 1 ∧ submitPlan s c r x y raw = .done st k ∧ st ≠ 0x14))) ∧
  (∃ (s : State) (c : Nat) (r : Nat) (x : Ctx) (y : Ring) (raw : List Byte),
    RingAt s c r x y ∧ y.head = some raw ∧ x.st = .active ∧ x.closing = false ∧ running s = true ∧ y.blocked = none ∧ raw ≠ [] ∧ leAt raw 0 1 = 1 ∧ submitPlan s c r x y raw = .wait ∧ y.depSince = none) ∧
  (∃ (s : State) (c : Nat) (r : Nat) (x : Ctx) (y : Ring) (raw : List Byte),
    RingAt s c r x y ∧ y.head = some raw ∧ x.st = .active ∧ x.closing = false ∧ running s = true ∧ y.blocked = none ∧ raw ≠ [] ∧ leAt raw 0 1 = 1 ∧ submitPlan s c r x y raw = .wait) ∧
  (∃ (s : State) (c : Nat) (r : Nat) (x : Ctx) (y : Ring) (raw : List Byte),
    RingAt s c r x y ∧ y.head = some raw ∧ x.st = .active ∧ x.closing = false ∧ running s = true ∧ y.blocked = none ∧ raw ≠ [] ∧ leAt raw 0 1 = 1 ∧ submitPlan s c r x y raw = .full ∧ heldForBlocked s c r x = false) :=
  ⟨⟨withFlow (withCtx { ctx1 with rings := [(2, headRing (raw1 3 7 64 1 []) [])] }) flow0, 5, 2, { ctx1 with rings := [(2, headRing (raw1 3 7 64 1 []) [])] }, headRing (raw1 3 7 64 1 []) [], raw1 3 7 64 1 [], noopImage, [], .submit 5 2, by and_intros <;> first | exact .inl ⟨rfl, rfl⟩ | decide +kernel⟩,
   ⟨withFlow (withCtx { ctx1 with rings := [(2, headRing (raw1 3 8 1 1 []) [])] }) flow0, 5, 2, 0x10, 4, { ctx1 with rings := [(2, headRing (raw1 3 8 1 1 []) [])] }, headRing (raw1 3 8 1 1 []) [], raw1 3 8 1 1 [], by and_intros <;> first | exact .inr (by decide +kernel) | decide +kernel⟩,
   ⟨withFlow (withCtx { ctx1 with rings := [(2, headRing (raw1 3 7 1 1 [3]) []), (3, ring0)] }) flow0, 5, 2, { ctx1 with rings := [(2, headRing (raw1 3 7 1 1 [3]) []), (3, ring0)] }, headRing (raw1 3 7 1 1 [3]) [], raw1 3 7 1 1 [3], by decide +kernel⟩,
   ⟨withFlow (withCtx { ctx1 with rings := [(2, { headRing (raw1 3 7 1 1 [3]) [] with depSince := some (2 ^ 26 - 2 ^ 24) }), (3, ring0)] }) flow0, 5, 2, { ctx1 with rings := [(2, { headRing (raw1 3 7 1 1 [3]) [] with depSince := some (2 ^ 26 - 2 ^ 24) }), (3, ring0)] }, { headRing (raw1 3 7 1 1 [3]) [] with depSince := some (2 ^ 26 - 2 ^ 24) }, raw1 3 7 1 1 [3], by decide +kernel⟩,
   ⟨{ { live with sched := { live.sched with items := [(0, { item0 with st := .ready })], nextItem := 1, flows := [(1, flow0)] } } with ctxs := [(5, { ctx1 with quota := 1, backPressure := true, rings := [(2, headRing (raw1 3 7 1 1 []) [])] })] }, 5, 2, { ctx1 with quota := 1, backPressure := true, rings := [(2, headRing (raw1 3 7 1 1 []) [])] }, headRing (raw1 3 7 1 1 []) [], raw1 3 7 1 1 [], by decide +kernel⟩⟩

/-- Something meets the hypotheses of ContextsAreAdministered. -/
theorem hyp_ContextsAreAdministered :
  (∃ (s : State),
    adminRuns s 1 = true ∧ 4 ≤ s.boot.phase ∧ NMap.has s.ctxs s.regs.adminCtx = false ∧ s.regs.adminDue = false ∧ s.regs.adminBytes = none ∧ s.regs.adminAsked = 0 ∧ adminAddr s % 64 = 0 ∧ areaOk s (adminAddr s) 768 false = true) ∧
  (∃ (s : State) (b : List Byte),
    adminRuns s 1 = true ∧ 4 ≤ s.boot.phase ∧ NMap.has s.ctxs s.regs.adminCtx = false ∧ s.regs.adminDue = false ∧ s.regs.adminBytes = some b) ∧
  (∃ (s : State) (x : Ctx),
    adminRuns s 2 = true ∧ NMap.find? s.ctxs s.regs.adminCtx = some x ∧ x.closing = false) ∧
  (∃ (s : State) (x : Ctx),
    adminRuns s 2 = true ∧ NMap.find? s.ctxs s.regs.adminCtx = some x ∧ x.closing = true ∧ runningOf s s.regs.adminCtx = false ∧ ((∀ p ∈ s.sched.items, p.2.ctx ≠ s.regs.adminCtx)) ∧ x.streams = [] ∧ x.halts = [] ∧ ((∀ q ∈ x.rings, q.2.written = q.2.consumed ∧ ∀ d ∈ q.2.descs, d.2.entrySent = true))) ∧
  (∃ (s : State) (x : Ctx),
    adminRuns s 3 = true ∧ NMap.find? s.ctxs s.regs.adminCtx = some x ∧ s.regs.adminImage = [] ∧ areaOk s (adminAddr s) (4096 * max 1 (rwGet s rwAdminLen)) true = true ∧ x.st = .active ∧ x.draining = false) ∧
  (∃ (s : State) (x : Ctx),
    adminRuns s 3 = true ∧ NMap.find? s.ctxs s.regs.adminCtx = some x ∧ s.regs.adminImage = [] ∧ areaOk s (adminAddr s) (4096 * max 1 (rwGet s rwAdminLen)) true = true ∧ x.st = .paused ∧ pauseSettled s s.regs.adminCtx x = true ∧ rwGet s rwAdminLen < (saveBytes s s.regs.adminCtx x).length / 4096) ∧
  (∃ (s : State) (x : Ctx),
    adminRuns s 3 = true ∧ NMap.find? s.ctxs s.regs.adminCtx = some x ∧ s.regs.adminImage = [] ∧ areaOk s (adminAddr s) (4096 * max 1 (rwGet s rwAdminLen)) true = true ∧ x.st = .paused ∧ pauseSettled s s.regs.adminCtx x = true ∧ (saveBytes s s.regs.adminCtx x).length / 4096 ≤ rwGet s rwAdminLen ∧ isDeck s (gAddr (deviceId s) (adminAddr s)) = true) ∧
  (∃ (s : State) (x : Ctx),
    adminRuns s 4 = true ∧ NMap.find? s.ctxs s.regs.adminCtx = some x ∧ x.st = .paused ∧ imageBytes x ≠ 0 ∧ s.regs.adminDue = false ∧ s.regs.adminImage = [] ∧ areaOk s (adminAddr s) (imageBytes x) true = true ∧ isDeck s (gAddr (deviceId s) (adminAddr s)) = true) ∧
  (∃ (s : State) (x : Ctx),
    adminRuns s 4 = true ∧ NMap.find? s.ctxs s.regs.adminCtx = some x ∧ x.st = .paused ∧ imageBytes x ≠ 0 ∧ s.regs.adminDue = false ∧ s.regs.adminImage = [] ∧ areaOk s (adminAddr s) (imageBytes x) true = true ∧ isDeck s (gAddr (deviceId s) (adminAddr s)) = true) ∧
  (∃ (s : State) (x : Ctx),
    adminRuns s 4 = true ∧ NMap.find? s.ctxs s.regs.adminCtx = some x ∧ x.st = .paused ∧ imageBytes x ≠ 0 ∧ s.regs.adminDue = false ∧ s.regs.adminImage = [] ∧ areaOk s (adminAddr s) (imageBytes x) true = true ∧ isDeck s (gAddr (deviceId s) (adminAddr s)) = true) ∧
  (∃ (s : State) (x : Ctx),
    adminRuns s 4 = true ∧ NMap.find? s.ctxs s.regs.adminCtx = some x ∧ (x.st = .active ∨ x.saves = [])) :=
  ⟨⟨{ adminState 1 live with regs := { (adminState 1 live).regs with pairs := [(prAdminAddr, 0x80000000FF000)] } }, by decide +kernel⟩,
   ⟨{ adminState 1 live with regs := { (adminState 1 live).regs with adminBytes := some blockBytes } }, blockBytes, by decide +kernel⟩,
   ⟨adminState 2 (withCtx ctx0), ctx0, by decide +kernel⟩,
   ⟨adminState 2 (withCtx { ctx0 with closing := true }), { ctx0 with closing := true }, by decide +kernel⟩,
   ⟨adminState 3 (withCtx ctx0), ctx0, by decide +kernel⟩,
   ⟨pauseState, pausedCtx, ⟨by decide +kernel, by decide +kernel, by decide +kernel, by decide +kernel, by decide +kernel, by decide +kernel, (save_units pauseState rfl rfl).symm ▸ Nat.lt_of_lt_of_le (by decide +kernel) pause_units.1⟩⟩,
   ⟨pauseRoom, pausedCtx, ⟨by decide +kernel, by decide +kernel, by decide +kernel, pause_room, by decide +kernel, by decide +kernel, pause_len.symm ▸ Nat.le_of_eq (save_units pauseRoom rfl rfl), by decide +kernel⟩⟩,
   ⟨adminState 4 (withCtx (savedCtx (saveKey live pausedCtx))), savedCtx (saveKey live pausedCtx), by decide +kernel⟩,
   ⟨adminState 4 (withCtx (savedCtx [7#8])), savedCtx [7#8], by decide +kernel⟩,
   ⟨{ adminState 4 (withCtx (savedCtx [7#8])) with deck := { live.deck with mem := [(0x40000000, 1#8)] } }, savedCtx [7#8], by decide +kernel⟩,
   ⟨adminState 4 (withCtx pausedCtx), pausedCtx, by decide +kernel⟩⟩

/-- Something meets the hypotheses of SchedulerRuns. -/
theorem hyp_SchedulerRuns :
  (∃ (s : State) (pier : Nat) (id : Nat) (it : Item),
    pier < 256 ∧ readyHead s = some (id, it) ∧ getItem s id = some it ∧ running s = true ∧ pierFree s pier = true ∧ pierSuits s it.failedPiers pier = true ∧ streamOutranks s it.prio = false) ∧
  (∃ (s : State) (id : Nat) (it : Item) (d : Desc),
    getItem s id = some it ∧ runEnded s id it = true ∧ running s = true ∧ (outputRuns s it).length ≤ 64 ∧ it.skip = none ∧ it.cacheFill = [] ∧ it.logs = [] ∧ s.tables.joinPending = [] ∧ getDesc s it.ctx it.ring it.idx = some d) ∧
  (∃ (s : State) (flow : Nat) (id : Nat) (f : Flow) (it : Item),
    NMap.find? s.sched.flows flow = some f ∧ List.find? (fun p => p.2.flow == some flow && p.2.seq == f.release) s.sched.items = some (id, it) ∧ it.st = .committed ∧ s.heal.outOfService = false ∧ s.power.off = false) ∧
  (∃ (s : State) (id : Nat) (it : Item),
    getItem s id = some it ∧ it.st = .running ∧ it.overBudget = true) ∧
  (∃ (s : State) (id : Nat) (it : Item),
    getItem s id = some it ∧ timeoutDue s id it = true) ∧
  (∃ (s : State) (id : Nat) (r : Nat) (it : Item),
    getItem s id = some it ∧ it.recordOver = some r ∧ it.st = .running) ∧
  (∃ (s : State) (c : Nat) (x : Ctx),
    NMap.find? s.ctxs c = some x ∧ ((x.draining = true ∨ (x.resident = true ∧ x.pinned = false ∧ scratchShort s = true ∧ x.sliceStart + x.slice ≤ s.clock.ticks))) ∧ runningOf s c = true) ∧
  (∃ (s : State) (c : Nat) (x : Ctx),
    NMap.find? s.ctxs c = some x ∧ ((x.draining = true ∨ (x.resident = true ∧ x.pinned = false ∧ scratchShort s = true ∧ x.sliceStart + x.slice ≤ s.clock.ticks))) ∧ runningOf s c = false) ∧
  (∃ (s : State) (c : Nat) (x : Ctx),
    nextInTurn s = some (c, x) ∧ residentBytes s + x.reservation ≤ 2 ^ 20 ∧ running s = true) ∧
  (∃ (s : State),
    slicing s = true ∧ s.sched.slicing = false) ∧
  (∃ (s : State),
    (slicing s = false ∨ s.sched.slicing = true)) ∧
  (∃ (s : State),
    (slicing s = false ∨ s.sched.slicing = true)) ∧
  (∃ (s : State) (id : Nat) (it : Item),
    getItem s id = some it ∧ it.st = .pending ∧ it.gate = false ∧ opCode (chainOp (itemImage s it) 0) = 0x49 ∧ leAt (chainOp (itemImage s it) 0) 24 1 = 1 ∧ leAt (chainOp (itemImage s it) 0) 32 8 ≤ s.clock.count) ∧
  (∃ (s : State) (id : Nat) (it : Item),
    getItem s id = some it ∧ it.hit = true ∧ it.st = .pending) ∧
  (∃ (s : State) (id : Nat) (it : Item),
    getItem s id = some it ∧ it.hit = true ∧ it.st = .running ∧ opCode (itemOp s it) = 0x49) ∧
  (∃ (s : State) (id : Nat) (it : Item),
    getItem s id = some it ∧ opEnabled s it 0x49 = true ∧ it.charge + 8 ≤ it.budget ∧ opCount (itemOp s it) ≠ 0 ∧ ((it.op = 0 ∨ (leAt (itemOp s it) 24 1 = 1 ∧ leAt (itemOp s it) 32 8 ≤ s.clock.count) ∨ (leAt (itemOp s it) 24 1 = 2 ∧ it.waitSince = none ∧ leAt (itemOp s it) 32 8 ≤ cellValue s (leAt (itemOp s it) 40 8))))) ∧
  (∃ (s : State) (id : Nat) (it : Item),
    getItem s id = some it ∧ opEnabled s it 0x49 = true ∧ opCount (itemOp s it) = 0 ∧ it.charge + 4 ≤ it.budget) ∧
  (∃ (s : State) (id : Nat) (a : Nat) (it : Item),
    getItem s id = some it ∧ opEnabled s it 0x48 = true ∧ it.waiting = 0 ∧ it.charge + 16 ≤ it.budget ∧ opCount (itemOp s it) ≠ 0 ∧ it.signals.contains it.op = false ∧ Unflagged s id ∧ a = leAt (itemOp s it) 40 8 ∧ isDeck s a = true ∧ a % 8 = 0 ∧ gLocal a + 8 ≤ 2 ^ 41 ∧ Sound s ∧ s.heal.rebuilds = []) :=
  ⟨⟨{ onPier (chainCtx noopImage) ({ item0 with st := .ready }) with piers := [] }, 255, 0, { item0 with st := .ready }, by decide +kernel⟩,
   ⟨onPier (chainCtx noopImage) ({ runItem with op := 1 }), 0, { runItem with op := 1 }, desc0, by decide +kernel⟩,
   ⟨onPier (chainCtx noopImage) ({ item0 with st := .committed }), 1, 0, { flow0 with next := 1 }, { item0 with st := .committed }, by decide +kernel⟩,
   ⟨onPier (chainCtx noopImage) ({ runItem with overBudget := true }), 0, { runItem with overBudget := true }, by decide +kernel⟩,
   ⟨withAcc (onPier (chainCtx noopImage) ({ runItem with waiting := 1, waitSince := some (2 ^ 26 - 2 ^ 24) })) { acc0 (.item 0) false with first := 2 ^ 26 - 2 ^ 24 }, 0, { runItem with waiting := 1, waitSince := some (2 ^ 26 - 2 ^ 24) }, by decide +kernel⟩,
   ⟨onPier (chainCtx noopImage) ({ runItem with recordOver := some 9 }), 0, 9, { runItem with recordOver := some 9 }, by decide +kernel⟩,
   ⟨{ live with ctxs := [(5, { ctx0 with reservation := 2 ^ 20, sliceStart := 2 ^ 26 - 2 ^ 20 }), (6, { ctx0 with reservation := 4096, pinned := true, resident := false })], sched := { live.sched with items := [(0, { item0 with st := .running })], nextItem := 1 } }, 5, { ctx0 with reservation := 2 ^ 20, sliceStart := 2 ^ 26 - 2 ^ 20 }, by decide +kernel⟩,
   ⟨{ live with ctxs := [(5, { ctx0 with reservation := 2 ^ 20, sliceStart := 2 ^ 26 - 2 ^ 20 }), (6, { ctx0 with reservation := 4096, pinned := true, resident := false })], sched := { live.sched with items := [(0, { item0 with st := .ready })], nextItem := 1 } }, 5, { ctx0 with reservation := 2 ^ 20, sliceStart := 2 ^ 26 - 2 ^ 20 }, by decide +kernel⟩,
   ⟨withCtx { ctx0 with resident := false, reservation := 0 }, 5, { ctx0 with resident := false, reservation := 0 }, by decide +kernel⟩,
   ⟨{ live with ctxs := [(5, { ctx0 with reservation := 2 ^ 20, pinned := true }), (6, { ctx0 with resident := false, reservation := 4096, pinned := true })] }, by decide +kernel⟩,
   ⟨live, by decide +kernel⟩,
   ⟨{ live with sched := { live.sched with slicing := true }, ctxs := [(5, { ctx0 with reservation := 2 ^ 20, pinned := true }), (6, { ctx0 with resident := false, reservation := 4096, pinned := true })] }, by decide +kernel⟩,
   ⟨onPier (chainCtx (imageOps [] [op0 0x49 0 0 0 [0, 0, 0, 0] 1 (natLE 1 1 ++ zeros 7 ++ natLE (2 ^ 27) 8)])) item0, 0, item0, by decide +kernel⟩,
   ⟨onPier (chainCtx (imageOps [] [op0 0x49 0 0 0 [0, 0, 0, 0] 1 (natLE 2 1 ++ zeros 7 ++ natLE 0 8 ++ natLE (deckAt 0x80020000) 8)])) ({ item0 with hit := true }), 0, { item0 with hit := true }, by decide +kernel⟩,
   ⟨onPier (chainCtx (imageOps [] [op0 0x48 0 0 0 [0, 0, 0, 0] 0 (natLE 1 1), op0 0x49 0 0 0 [0, 0, 0, 0] 1 (natLE 2 1 ++ zeros 7 ++ natLE 0 8 ++ natLE (deckAt 0x80020000) 8)])) ({ runItem with hit := true, op := 1, waitSince := some 0 }), 0, { runItem with hit := true, op := 1, waitSince := some 0 }, by decide +kernel⟩,
   ⟨onPier (chainCtx (imageOps [] [op0 0x48 0 0 0 [0, 0, 0, 0] 0 (natLE 1 1), op0 0x49 0 0 0 [0, 0, 0, 0] 1 (natLE 2 1 ++ zeros 7 ++ natLE 0 8 ++ natLE (deckAt 0x80020000) 8)])) ({ runItem with op := 1 }), 0, { runItem with op := 1 }, by decide +kernel⟩,
   ⟨onPier (chainCtx (imageOps [] [op0 0x49 0 0 0 [0, 0, 0, 0] 0 (natLE 2 1)])) { runItem with budget := 4 }, 0, { runItem with budget := 4 }, by decide +kernel⟩,
   ⟨onPier (chainCtx (imageOps [] [op0 0x48 0 0 0 [0, 0, 0, 0] 1 (natLE 1 1 ++ zeros 7 ++ natLE 5 8 ++ natLE (deckAt 0xFFFFFFF8) 8)])) runItem, 0, deckAt 0xFFFFFFF8, runItem, by decide +kernel⟩⟩

/-- Something meets the hypotheses of TransfersDecodesAndUpdates. -/
theorem hyp_TransfersDecodesAndUpdates :
  (∃ (s : State) (t : State) (id : Nat) (x : Ctx) (it : Item) (i : OpIn) (m : Move),
    takeOp s id 0x40 = .go t x it i ∧ moveOf t x it i = some m ∧ ((i.src0.gone = true ∨ i.count ≤ i.src0.bytes.length)) ∧ it.charge + moveCost i ≤ it.budget) ∧
  (∃ (s : State) (t : State) (id : Nat) (x : Ctx) (it : Item) (i : OpIn),
    takeOp s id 0x41 = .go t x it i ∧ ((∀ w, sourceView s x it (opRef i.op 0) = some w → viewMissing s it.asked w = [])) ∧ i.count ≤ i.src0.bytes.length ∧ Affordable t it i.op (getRes t x it i)) ∧
  (∃ (s : State) (t : State) (id : Nat) (x : Ctx) (it : Item) (i : OpIn),
    takeOp s id 0x42 = .go t x it i ∧ it.handed = false ∧ ((i.src0.gone = true ∨ 32 * i.count ≤ i.src0.bytes.length)) ∧ ((∀ e ∈ atomicEntries i, atomicBad t x e.2 = false)) ∧ it.charge + atomicCost i ≤ it.budget ∧ it.waiting = 0 ∧ Unflagged t id) ∧
  (∃ (s : State) (t : State) (id : Nat) (x : Ctx) (it : Item) (i : OpIn) (r : OpRes),
    takeOp s id 0x42 = .go t x it i ∧ r = { out := (if i.src0.gone then [] else (List.range i.count).filter i.keep).flatMap (fun p => natLE (NMap.getD it.answers p 0) 8), cost := atomicCost i } ∧ it.handed = true ∧ it.waiting = 0 ∧ Affordable t it i.op r) ∧
  (∃ (s : State) (t : State) (id : Nat) (x : Ctx) (it : Item) (i : OpIn) (r : OpRes),
    takeOp s id 0x30 = .go t x it i ∧ copyNeeds t it i = [] ∧ r = copyOp (sourceView t x it (opRef i.op 0)) (oldCodes t it i) i ∧ Affordable t it i.op r) ∧
  (∃ (s : State) (t : State) (id : Nat) (x : Ctx) (it : Item) (i : OpIn),
    takeOp s id 0x11 = .go t x it i ∧ Affordable t it i.op (joinBuildRes it i)) ∧
  (∃ (s : State) (id : Nat) (code : Nat) (irc : Bool) (c : Instr) (it : Item) (x : Ctx) (seg : Operand) (prog : Operand) (p : Program) (r : DecAcc) (o : List Byte) (out : List Byte) (at_ : Nat),
    ((c = .decodeAvro id ∧ irc = false ∧ code = 0x01 ∨ c = .decodeIrc id ∧ irc = true ∧ code = 0x02)) ∧ getItem s id = some it ∧ itemCtx s it = some x ∧ opEnabled s it code = true ∧ readsLanded s id = true ∧ o = itemOp s it ∧ opCount o ≠ 0 ∧ wantsDigest s it = false ∧ readOperand s x it o 0 = (seg, []) ∧ readOperand s x it o 1 = (prog, []) ∧ segmentBad seg.bytes (opCount o) (((tensorView x (opRef o 2) it.index).map (·.span)).getD 0) irc = false ∧ bitAt (leAt o 25 1) 0 = false ∧ readProgram irc (leAt o 32 8) prog.bytes = some p ∧ at_ = ((tensorView x (opRef o 2) it.index).map (·.lo)).getD 0 + leAt seg.bytes 0 8 ∧ isDeck s at_ = true ∧ r = decodeSegment irc (decodeAsk s x it o seg.bytes) p (extentBytes s it.landed at_ (leAt seg.bytes 8 4)) ∧ r.overAt = none ∧ r.overBudget = false ∧ (decodedRuns (opCount o) r).length ≤ 64 ∧ out = decodeOut p (opMode o == 1) r.rows ∧ it.charge + r.charge ≤ it.budget ∧ ((refKind (opRef o 3) = 2 → out.length ≤ chainBufSize (itemImage s it) (refIndex (opRef o 3))))) ∧
  (∃ (s : State) (id : Nat) (code : Nat) (irc : Bool) (c : Instr) (it : Item) (x : Ctx) (seg : Operand) (prog : Operand) (p : Program) (r : DecAcc) (o : List Byte) (out : List Byte) (at_ : Nat),
    ((c = .decodeAvro id ∧ irc = false ∧ code = 0x01 ∨ c = .decodeIrc id ∧ irc = true ∧ code = 0x02)) ∧ getItem s id = some it ∧ itemCtx s it = some x ∧ opEnabled s it code = true ∧ readsLanded s id = true ∧ o = itemOp s it ∧ opCount o ≠ 0 ∧ wantsDigest s it = false ∧ readOperand s x it o 0 = (seg, []) ∧ readOperand s x it o 1 = (prog, []) ∧ segmentBad seg.bytes (opCount o) (((tensorView x (opRef o 2) it.index).map (·.span)).getD 0) irc = false ∧ bitAt (leAt o 25 1) 0 = false ∧ readProgram irc (leAt o 32 8) prog.bytes = some p ∧ at_ = ((tensorView x (opRef o 2) it.index).map (·.lo)).getD 0 + leAt seg.bytes 0 8 ∧ isDeck s at_ = true ∧ r = decodeSegment irc (decodeAsk s x it o seg.bytes) p (extentBytes s it.landed at_ (leAt seg.bytes 8 4)) ∧ r.overAt = none ∧ r.overBudget = false ∧ (decodedRuns (opCount o) r).length ≤ 64 ∧ out = decodeOut p (opMode o == 1) r.rows ∧ it.charge + r.charge ≤ it.budget ∧ ((refKind (opRef o 3) = 2 → out.length ≤ chainBufSize (itemImage s it) (refIndex (opRef o 3))))) ∧
  (∃ (s : State) (t : State) (id : Nat) (x : Ctx) (it : Item) (i : OpIn) (k : ParaSet),
    takeOp s id 0x1D = .go t x it i ∧ NMap.find? x.sets (leAt i.op 24 1) = some k ∧ applyingOf s k.parapet id = none ∧ ((leAt i.op 26 1 = 4 ∨ i.src0.gone = true ∨ i.count * paraKeyBytes i.op ≤ i.src0.bytes.length)) ∧ it.waiting = 0 ∧ Unflagged t id ∧ it.charge + paraCost k (updatesOf i) (paraUnits i (updatesOf i).length) ≤ it.budget) ∧
  (∃ (s : State) (id : Nat) (x : Ctx) (it : Item) (k : ParaSet) (us : List (Nat × List Byte)),
    getItem s id = some it ∧ itemCtx s it = some x ∧ NMap.find? x.sets (leAt (itemOp s it) 24 1) = some k ∧ applyingOf s k.parapet id = some us ∧ it.st = .running ∧ opCode (itemOp s it) = 0x1D ∧ earlierApplied s it (leAt (itemOp s it) 24 1) = true ∧ s.power.off = false) :=
  ⟨⟨putState, goT (putState) 0x40, 0, goX (putState) 0x40, goIt (putState) 0x40, goI (putState) 0x40, putMove, ⟨go_of (by decide +kernel), by decide +kernel⟩⟩,
   ⟨getState, goT (getState) 0x41, 0, goX (getState) 0x41, goIt (getState) 0x41, goI (getState) 0x41, ⟨go_of (by decide +kernel), all_some (by decide +kernel), by decide +kernel⟩⟩,
   ⟨atomState, goT (atomState) 0x42, 0, goX (atomState) 0x42, goIt (atomState) 0x42, goI (atomState) 0x42, ⟨go_of (by decide +kernel), by decide +kernel⟩⟩,
   ⟨atomDone, goT (atomDone) 0x42, 0, goX (atomDone) 0x42, goIt (atomDone) 0x42, goI (atomDone) 0x42, { out := (if (goI atomDone 0x42).src0.gone then [] else (List.range (goI atomDone 0x42).count).filter (goI atomDone 0x42).keep).flatMap (fun p => natLE (NMap.getD (goIt atomDone 0x42).answers p 0) 8), cost := atomicCost (goI atomDone 0x42) }, ⟨go_of (by decide +kernel), by decide +kernel⟩⟩,
   ⟨copyState, goT (copyState) 0x30, 0, goX (copyState) 0x30, goIt (copyState) 0x30, goI (copyState) 0x30, copyOp (sourceView (goT copyState 0x30) (goX copyState 0x30) (goIt copyState 0x30) (opRef (goI copyState 0x30).op 0)) (oldCodes (goT copyState 0x30) (goIt copyState 0x30) (goI copyState 0x30)) (goI copyState 0x30), ⟨go_of (by decide +kernel), by decide +kernel⟩⟩,
   ⟨joinState, goT (joinState) 0x11, 0, goX (joinState) 0x11, goIt (joinState) 0x11, goI (joinState) 0x11, ⟨go_of (by decide +kernel), by decide +kernel⟩⟩,
   ⟨avroState, 0, 0x01, false, .decodeAvro 0, itemOf avroState, stateCtx avroState, segOf avroState, progOf avroState, readProg false avroState, decodeRes false avroState, opOf avroState, decodeBytes false avroState, dataAt avroState, ⟨.inl ⟨rfl, rfl, rfl⟩, by decide +kernel, by decide +kernel, by decide +kernel, by decide +kernel, rfl, by decide +kernel, by decide +kernel, by decide +kernel, by decide +kernel, by decide +kernel, by decide +kernel, some_of_isSome (by decide +kernel), rfl, by decide +kernel, rfl, by decide +kernel, by decide +kernel, by decide +kernel, rfl, by decide +kernel, by decide +kernel⟩⟩,
   ⟨ircState, 0, 0x02, true, .decodeIrc 0, itemOf ircState, stateCtx ircState, segOf ircState, progOf ircState, readProg true ircState, decodeRes true ircState, opOf ircState, decodeBytes true ircState, dataAt ircState, ⟨.inr ⟨rfl, rfl, rfl⟩, by decide +kernel, by decide +kernel, by decide +kernel, by decide +kernel, rfl, by decide +kernel, by decide +kernel, by decide +kernel, by decide +kernel, by decide +kernel, by decide +kernel, some_of_isSome (by decide +kernel), rfl, by decide +kernel, rfl, by decide +kernel, by decide +kernel, by decide +kernel, rfl, by decide +kernel, by decide +kernel⟩⟩,
   ⟨paraState, goT (paraState) 0x1D, 0, goX (paraState) 0x1D, goIt (paraState) 0x1D, goI (paraState) 0x1D, set0, ⟨go_of (by decide +kernel), by decide +kernel⟩⟩,
   ⟨paraDone, 0, opCtx (op0 0x1D 0 0 0 [buf 0, 0, 0, 0] 1 [9#8, 0#8, 1#8]), { runItem with bufs := [(0, ⟨natLE 0x42 16, []⟩), (1, ⟨[], []⟩)] }, set0, [(1, natLE 0x42 16)], by decide +kernel⟩⟩

/-- Something meets the hypotheses of EmbeddingsAreReadAndUpdated. -/
theorem hyp_EmbeddingsAreReadAndUpdated :
  (∃ (s : State) (t : State) (id : Nat) (code : Nat) (pooled : Bool) (hw : Bool) (c : Instr) (x : Ctx) (it : Item) (i : OpIn) (part : LookPart) (set : Nat) (rs : List RowAt),
    ((c = .gather id ∧ pooled = false ∧ code = 0x20 ∨ c = .gatherPool id ∧ pooled = true ∧ code = 0x21)) ∧ takeOp s id code = .go t x it i ∧ leAt i.op 26 2 ≠ 0 ∧ ((pooled = true → leAt i.op 28 4 ≠ 0)) ∧ ((pooled = true ∨ leAt i.op 25 1 ≠ 1)) ∧ i.src0.gone = false ∧ parseLookup i.src0.bytes i.index = some (part, hw) ∧ handleBase t x (refIndex (opRef i.op 1)) = some set ∧ gatherWrong t i pooled (itemPins t it) set part hw = false ∧ rs = ((List.range part.distinct.length).zip part.distinct).map (fun q => entryRow t x it (itemPins t it) set false q.1 q.2) ∧ rowsFirst (keepLookups t id it (itemPins t it) set part.distinct rs) id rs = none ∧ ((∀ v g, RowAt.lost v g ∉ rs)) ∧ Affordable t it i.op (gatherRes i pooled part rs)) ∧
  (∃ (s : State) (t : State) (id : Nat) (code : Nat) (pooled : Bool) (hw : Bool) (c : Instr) (x : Ctx) (it : Item) (i : OpIn) (part : LookPart) (set : Nat) (rs : List RowAt),
    ((c = .gather id ∧ pooled = false ∧ code = 0x20 ∨ c = .gatherPool id ∧ pooled = true ∧ code = 0x21)) ∧ takeOp s id code = .go t x it i ∧ leAt i.op 26 2 ≠ 0 ∧ ((pooled = true → leAt i.op 28 4 ≠ 0)) ∧ ((pooled = true ∨ leAt i.op 25 1 ≠ 1)) ∧ i.src0.gone = false ∧ parseLookup i.src0.bytes i.index = some (part, hw) ∧ handleBase t x (refIndex (opRef i.op 1)) = some set ∧ gatherWrong t i pooled (itemPins t it) set part hw = false ∧ rs = ((List.range part.distinct.length).zip part.distinct).map (fun q => entryRow t x it (itemPins t it) set false q.1 q.2) ∧ rowsFirst (keepLookups t id it (itemPins t it) set part.distinct rs) id rs = none ∧ ((∀ v g, RowAt.lost v g ∉ rs)) ∧ Affordable t it i.op (gatherRes i pooled part rs)) ∧
  (∃ (s : State) (t : State) (id : Nat) (hw : Bool) (x : Ctx) (it : Item) (i : OpIn) (part : LookPart) (set : Nat) (rs : List RowAt),
    takeOp s id 0x20 = .go t x it i ∧ leAt i.op 26 2 ≠ 0 ∧ leAt i.op 25 1 = 1 ∧ i.src0.gone = false ∧ parseLookup i.src0.bytes i.index = some (part, hw) ∧ handleBase t x (refIndex (opRef i.op 1)) = some set ∧ gatherWrong t i false (itemPins t it) set part hw = false ∧ rs = ((List.range part.distinct.length).zip part.distinct).map (fun q => entryRow t x it (itemPins t it) set true q.1 q.2) ∧ rowsFirst (keepLookups t id it (itemPins t it) set part.distinct rs) id rs = none ∧ (it.charge + (ceilDiv part.distinct.length 16 + (if i.src0.kind = 1 ∨ i.src0.kind = 3 then unitsOf (16 * part.distinct.length) + unitsOf (8 * part.positions.length) + unitsOf (4 * part.weights.length) else 0) + (rs.map (fun r => match r with | .here _ _ _ _ _ _ true => rowUnits r | _ => 0)).sum) ≤ it.budget) ∧ refKind (opRef i.op 3) = 0) ∧
  (∃ (s : State) (t : State) (id : Nat) (x : Ctx) (it : Item) (i : OpIn) (m : MergeQueue) (base : Nat) (part : LookPart) (hw : Bool),
    takeOp s id 0x22 = .go t x it i ∧ leAt i.op 28 2 ≠ 0 ∧ leAt i.op 36 4 ≠ 0 ∧ NMap.find? x.queues (leAt i.op 30 2) = some m ∧ handleBase t x (refIndex (opRef i.op 1)) = some base ∧ i.src0.gone = false ∧ parseLookup i.src0.bytes (i.index / 2 ^ bitsAt (leAt i.op 25 1) 0 3) = some (part, hw) ∧ scatterWrong i m part hw = false ∧ Affordable t it i.op (scatterWork t i m base part).2 ∧ refKind (opRef i.op 3) = 0) ∧
  (∃ (s : State) (t : State) (u : State) (id : Nat) (set : Nat) (x : Ctx) (it : Item) (i : OpIn) (m : MergeQueue) (d : Desc) (f : FinalStep) (rows : List (Nat × RowAt × Option RowAt)) (ws : List KeyWork),
    takeOp s id 0x23 = .go t x it i ∧ NMap.find? x.queues (leAt i.op 24 2) = some m ∧ getDesc t it.ctx it.ring it.idx = some d ∧ handleBase t x (refIndex (opRef i.op 1)) = some set ∧ NMap.find? m.finals (leAt i.op 28 4) = some f ∧ ceilDiv (applyKeys d f).length (max 1 d.n) ≤ i.count ∧ u = modDesc t it.ctx it.ring it.idx (fun y => { y with keys := some (applyKeys d f) }) ∧ rows = applyRows u x it d m set (applyMine d f i.index) ∧ rowsFirst u id (rows.flatMap (fun q => q.2.1 :: q.2.2.toList)) = none ∧ (applyMine d f i.index).all (recordAcked x m f) = true ∧ ws = applyWorks id it i m f rows ∧ ws.flatMap (·.lost) = [] ∧ Affordable t it i.op (worksRes ws) ∧ refKind (opRef i.op 3) = 0) ∧
  (∃ (s : State) (id : Nat) (it : Item) (z : ApplySlot) (t : TDesc) (e : DEntry) (m : MergeQueue) (f : FinalStep) (x : Ctx) (a : Nat),
    getItem s id = some it ∧ slotsOf s id = [z] ∧ it.st = .running ∧ chainDone s it = true ∧ Unflagged s id ∧ running s = true ∧ it.waiting = 0 ∧ z.kind = 0 ∧ groupOf s z.ver (z.key / 4096) = some (t, e) ∧ e.state = gResident ∧ e.inherited = false ∧ a = locAddr s e.loc + z.key % 4096 * e.stride ∧ isDeck s a = true ∧ Sound s ∧ s.heal.rebuilds = [] ∧ gLocal a + z.row.length ≤ 2 ^ 40 ∧ ((z.sat = 0 ∨ Apart s z.ver t (z.key / 4096) (gLocal a) z.row.length)) ∧ getQueue s z.ctx z.queue = some m ∧ NMap.find? m.finals z.step = some f ∧ m.toApply = z.step ∧ z.key ∉ f.marked ∧ ((∃ q ∈ f.values, q.1 ≠ z.key ∧ q.1 ∉ f.marked)) ∧ NMap.find? s.ctxs it.ctx = some x ∧ x.traceMask = 0 ∧ it.logs = [] ∧ it.cacheFill = [] ∧ s.tables.joinPending = [] ∧ it.skip = none ∧ (outputRuns s it).length ≤ 64) :=
  ⟨⟨gatherState, goT gatherState 0x20, 0, 0x20, false, false, .gather 0, goX gatherState 0x20, goIt gatherState 0x20, goI gatherState 0x20, lookPart, tableAt + 0x2000, rowsOf gatherState 0x20 false, ⟨.inl ⟨rfl, rfl, rfl⟩, go_of (by decide +kernel), and4 (by decide +kernel) ⟨by decide +kernel, by decide +kernel, by decide +kernel, rfl, by decide +kernel, fun v g h => absurd (List.any_eq_true.2 ⟨_, h, rfl⟩) (by decide +kernel : ¬ List.any _ isLost = true), by decide +kernel⟩⟩⟩,
   ⟨poolState, goT poolState 0x21, 0, 0x21, true, false, .gatherPool 0, goX poolState 0x21, goIt poolState 0x21, goI poolState 0x21, lookPart, tableAt + 0x2000, rowsOf poolState 0x21 false, ⟨.inr ⟨rfl, rfl, rfl⟩, go_of (by decide +kernel), and4 (by decide +kernel) ⟨by decide +kernel, by decide +kernel, by decide +kernel, rfl, by decide +kernel, fun v g h => absurd (List.any_eq_true.2 ⟨_, h, rfl⟩) (by decide +kernel : ¬ List.any _ isLost = true), by decide +kernel⟩⟩⟩,
   ⟨prefetchState, goT prefetchState 0x20, 0, false, goX prefetchState 0x20, goIt prefetchState 0x20, goI prefetchState 0x20, lookPart, tableAt + 0x2000, rowsOf prefetchState 0x20 true, ⟨go_of (by decide +kernel), and4 (by decide +kernel) ⟨by decide +kernel, by decide +kernel, rfl, by decide +kernel, by decide +kernel, by decide +kernel⟩⟩⟩,
   ⟨scatterState, goT (scatterState) 0x22, 0, goX (scatterState) 0x22, goIt (scatterState) 0x22, goI (scatterState) 0x22, denseQueue, 0x80020000, lookPart, false, ⟨go_of (by decide +kernel), by decide +kernel⟩⟩,
   ⟨applyState, goT applyState 0x23, modDesc (goT applyState 0x23) 5 2 0 (fun y => { y with keys := some [7, 9] }), 0, tableAt + 0x2000, goX applyState 0x23, goIt applyState 0x23, goI applyState 0x23, finalQueue, { desc0 with pins := [0] }, final1, applyRows (modDesc (goT applyState 0x23) 5 2 0 (fun y => { y with keys := some [7, 9] })) (goX applyState 0x23) (goIt applyState 0x23) { desc0 with pins := [0] } finalQueue (tableAt + 0x2000) [7, 9], applyWorks 0 (goIt applyState 0x23) (goI applyState 0x23) finalQueue final1 (applyRows (modDesc (goT applyState 0x23) 5 2 0 (fun y => { y with keys := some [7, 9] })) (goX applyState 0x23) (goIt applyState 0x23) { desc0 with pins := [0] } finalQueue (tableAt + 0x2000) [7, 9]), by decide +kernel⟩,
   ⟨slotState, 0, { runItem with op := 1 }, applySlot, tdesc slotState tableAt, dentry slotState (tdesc slotState tableAt) 0, finalQueue, final1, stateCtx slotState, gAddr 3 (tableAt + 0x10000 + 7 * 16), and4 (by decide +kernel) (and4 (by decide +kernel) (and4 (by decide +kernel) (and4 (by decide +kernel) ⟨.inl (by decide +kernel), and4 (by decide +kernel) (and4 (by decide +kernel) (by decide +kernel))⟩)))⟩⟩

/-- Something meets the hypotheses of TablesMove. -/
theorem hyp_TablesMove :
  (∃ (s : State) (i : Nat) (n : Nat) (m : Migration),
    NMap.find? s.tables.migrations i = some m ∧ m.phase = 1 ∧ s.power.off = false ∧ n = (groupOf s m.ver m.group).elim 0 (fun q => q.2.size) ∧ writesTo s (locAddr s m.old) n = false ∧ isDeck s (locAddr s m.old) = true) ∧
  (∃ (s : State) (i : Nat) (n : Nat) (m : Migration),
    NMap.find? s.tables.migrations i = some m ∧ m.phase = 1 ∧ s.power.off = false ∧ n = (groupOf s m.ver m.group).elim 0 (fun q => q.2.size) ∧ writesTo s (locAddr s m.old) n = false ∧ isDeck s (locAddr s m.old) = false) ∧
  (∃ (s : State) (u : State) (i : Nat) (m : Migration) (t : TDesc) (e : DEntry),
    s.tables.migrations = [(i, m)] ∧ m.phase = 2 ∧ m.waiting = 0 ∧ m.failed = false ∧ m.held = [] ∧ m.after = none ∧ s.power.off = false ∧ s.heal.rebuilds = [] ∧ Sound s ∧ groupOf s m.ver m.group = some (t, e) ∧ isDeck s (locAddr s m.target) = true ∧ u = deckWrite s (gLocal (locAddr s m.target)) (migrationBytes s m e.size) ∧ groupOf u m.ver m.group = some (t, e) ∧ holders u m.ver m.group = [m.ver] ∧ t.dir + 64 * m.group + 64 ≤ 2 ^ 40) ∧
  (∃ (s : State) (i : Nat) (n : Nat) (m : Migration),
    NMap.find? s.tables.migrations i = some m ∧ m.phase = 4 ∧ n = (groupOf s m.ver m.group).elim 0 (fun q => q.2.size) ∧ readsFrom s (locAddr s m.old) n = false) ∧
  (∃ (s : State) (i : Nat) (m : Migration) (t : TDesc) (e : DEntry),
    NMap.find? s.tables.migrations i = some m ∧ m.phase = 2 ∧ m.failed = true ∧ groupOf s m.ver m.group = some (t, e)) ∧
  (∃ (s : State) (w : Nat) (x : Version),
    getVer s w = some x ∧ x.current = false ∧ x.retired = false ∧ pinned s w = false) ∧
  (∃ (s : State) (w : Nat) (x : Version),
    getVer s w = some x ∧ x.current = false ∧ x.retired = true ∧ pinned s w = false) :=
  ⟨⟨withMig { mig0 with phase := 1, old := tableAt + 0x10000, target := 2 ^ 62 + 0x40000 }, 0, 65536, { mig0 with phase := 1, old := tableAt + 0x10000, target := 2 ^ 62 + 0x40000 }, by decide +kernel⟩,
   ⟨withMig { mig0 with phase := 1 }, 0, 65536, { mig0 with phase := 1 }, by decide +kernel⟩,
   ⟨withMig mig0, withMig mig0, 0, mig0, migDesc (withMig mig0), migEntry (withMig mig0), and4 (by decide +kernel) (and4 (by decide +kernel) ⟨⟨by decide +kernel, by decide +kernel⟩, by decide +kernel, by decide +kernel, flip_writes, by decide +kernel⟩)⟩,
   ⟨withMig { mig0 with phase := 4 }, 0, 65536, { mig0 with phase := 4 }, by decide +kernel⟩,
   ⟨withMig { mig0 with failed := true }, 0, { mig0 with failed := true }, migDesc (withMig { mig0 with failed := true }), migEntry (withMig { mig0 with failed := true }), by decide +kernel⟩,
   ⟨{ withTable (withCtx ctx1) with tables := { (withTable live).tables with versions := [(0, { testVer with current := false })] } }, 0, { testVer with current := false }, by decide +kernel⟩,
   ⟨{ withTable (withCtx ctx1) with tables := { (withTable live).tables with versions := [(0, { testVer with current := false, retired := true })] } }, 0, { testVer with current := false, retired := true }, by decide +kernel⟩⟩

/-- Something meets the hypotheses of StreamsMove. -/
theorem hyp_StreamsMove :
  (∃ (s : State) (c : Nat) (k : Nat) (pier : Nat) (n : Nat) (x : Ctx) (t : Stream) (src : TView) (dst : TView),
    BlockStarts s c k pier n x t src dst ∧ blockCharge src dst t.desc n ≤ x.itemBudget) ∧
  (∃ (s : State) (c : Nat) (k : Nat) (pier : Nat) (n : Nat) (x : Ctx) (t : Stream) (src : TView) (dst : TView),
    BlockStarts s c k pier n x t src dst ∧ x.itemBudget < blockCharge src dst t.desc n) ∧
  (∃ (s : State) (c : Nat) (k : Nat) (x : Ctx) (t : Stream) (b : Block) (dst : TView),
    s.power.off = false ∧ s.heal.outOfService = false ∧ NMap.find? s.ctxs c = some x ∧ NMap.find? x.streams k = some t ∧ t.blocks = [b] ∧ b.index = t.delivered ∧ b.written = true ∧ b.waiting = 0 ∧ b.fault = [] ∧ t.denied = false ∧ t.ended = none ∧ streamView x t.desc 4 = some dst ∧ leAt t.desc 40 8 = 0 ∧ t.cellBusy = false ∧ t.delivered + 1 ≠ streamBlocks dst t.desc) ∧
  (∃ (s : State) (c : Nat) (k : Nat) (x : Ctx) (t : Stream) (b : Block) (dst : TView),
    s.power.off = false ∧ s.heal.outOfService = false ∧ NMap.find? s.ctxs c = some x ∧ NMap.find? x.streams k = some t ∧ t.blocks = [b] ∧ b.index = t.delivered ∧ b.written = true ∧ b.waiting = 0 ∧ b.fault = [] ∧ t.denied = false ∧ t.ended = none ∧ streamView x t.desc 4 = some dst ∧ leAt t.desc 40 8 = 0 ∧ t.cellBusy = false) ∧
  (∃ (s : State) (tag : Nat) (n : Nat) (c : Nat) (r : Nat) (j : Nat) (a : Acc) (x : Ctx),
    OpenAt s tag n a ∧ a.write = true ∧ a.owner = .completion c r j ∧ NMap.find? s.ctxs c = some x) ∧
  (∃ (s : State) (c : Nat) (k : Nat) (x : Ctx) (t : Stream) (b : Block) (d : Desc),
    s.power.off = false ∧ s.heal.outOfService = false ∧ NMap.find? s.ctxs c = some x ∧ NMap.find? x.streams k = some t ∧ t.blocks = [b] ∧ b.fault ≠ [] ∧ b.waiting = 0 ∧ b.done = false ∧ t.denied = false ∧ leAt t.desc 40 8 = 0 ∧ t.halt = none ∧ t.armDone = false ∧ getDesc s c t.ring t.idx = some d ∧ d.status = none) ∧
  (∃ (s : State) (id : Nat) (k : Nat) (x : Ctx) (it : Item) (i : OpIn) (m : Move),
    s.power.off = false ∧ s.heal.outOfService = false ∧ getItem s id = some it ∧ itemCtx s it = some x ∧ it.st = .running ∧ it.fault ≠ [] ∧ it.waiting = 0 ∧ it.halted = none ∧ ((∃ p, pierOf s id = some p ∧ (getPier s p).flagged = false)) ∧ haltedOp s x it = (k, i) ∧ moveOf s x it i = some m ∧ (firstFault m.src m.dst it.fault).1 = 0 ∧ slotsOf s id = [] ∧ it.skip = none) :=
  ⟨⟨withCtx (streamCtx (armed 0 [])), 5, 1, 255, 0, streamCtx (armed 0 []), armed 0 [], view0, { view0 with base := deckAt 0x80021000 }, ⟨{ unit := by decide +kernel, isCtx := by decide +kernel, isStream := by decide +kernel, isSrc := by decide +kernel, isDst := by decide +kernel, idle := by decide +kernel, next := by decide +kernel, runs := by decide +kernel, free := by decide +kernel, fresh := by decide +kernel, suits := by decide +kernel, first := by decide +kernel, head := all_some (by decide +kernel) }, by decide +kernel⟩⟩,
   ⟨withCtx ({ streamCtx (armed 0 []) with itemBudget := 0 }), 5, 1, 255, 0, { streamCtx (armed 0 []) with itemBudget := 0 }, armed 0 [], view0, { view0 with base := deckAt 0x80021000 }, ⟨{ unit := by decide +kernel, isCtx := by decide +kernel, isStream := by decide +kernel, isSrc := by decide +kernel, isDst := by decide +kernel, idle := by decide +kernel, next := by decide +kernel, runs := by decide +kernel, free := by decide +kernel, fresh := by decide +kernel, suits := by decide +kernel, first := by decide +kernel, head := all_some (by decide +kernel) }, by decide +kernel⟩⟩,
   ⟨withCtx (streamCtx (armed 0 [block0 0])), 5, 1, streamCtx (armed 0 [block0 0]), armed 0 [block0 0], block0 0, { view0 with base := deckAt 0x80021000 }, by decide +kernel⟩,
   ⟨withCtx (streamCtx (armed 1 [block0 1])), 5, 1, streamCtx (armed 1 [block0 1]), armed 1 [block0 1], block0 1, { view0 with base := deckAt 0x80021000 }, by decide +kernel⟩,
   ⟨withAcc (withCtx (streamCtx ({ armed 2 [] with ended := some (2, 0) }))) (acc0 (.completion 5 2 0) true), 4095, 0, 5, 2, 0, acc0 (.completion 5 2 0) true, streamCtx ({ armed 2 [] with ended := some (2, 0) }), by decide +kernel⟩,
   ⟨withCtx (streamCtx (armed 0 [{ block0 0 with written := false, fault := [(hostAt 0x10000, true)] }])), 5, 1, streamCtx (armed 0 [{ block0 0 with written := false, fault := [(hostAt 0x10000, true)] }]), armed 0 [{ block0 0 with written := false, fault := [(hostAt 0x10000, true)] }], { block0 0 with written := false, fault := [(hostAt 0x10000, true)] }, { Desc.fresh armRaw with running := true }, by decide +kernel⟩,
   ⟨faultState, 0, 0, stateCtx faultState, itemOf faultState, (haltedOp faultState (stateCtx faultState) (itemOf faultState)).2, putMove, and4 (by decide +kernel) (and4 (by decide +kernel) ⟨⟨255, by decide +kernel⟩, Prod.ext (by decide +kernel) rfl, by decide +kernel⟩)⟩⟩

/-- Something meets the hypotheses of MergeQueuesRun. -/
theorem hyp_MergeQueuesRun :
  (∃ (s : State) (c : Nat) (q : Nat) (m : MergeQueue) (r : MergeRec),
    s.power.off = false ∧ getQueue s c q = some m ∧ r.src ∈ m.sources ∧ (r.step = m.next ∨ r.step = m.next + 1) ∧ r.close = false ∧ r.key < m.keyLimit ∧ r.fmt ∈ mergeFmts ∧ r.payload.length = m.elems * elemBytes r.fmt ∧ ((r.keyed = true ∨ m.rows = false)) ∧ seenRec (stepOf m r.step) r.src r.seq = false ∧ (stepOf m r.step).recs.length < m.cap) ∧
  (∃ (s : State) (c : Nat) (q : Nat) (m : MergeQueue) (r : MergeRec),
    s.power.off = false ∧ getQueue s c q = some m ∧ r.src ∈ m.sources ∧ (r.step = m.next ∨ r.step = m.next + 1) ∧ r.close = false ∧ r.key < m.keyLimit ∧ r.fmt ∈ mergeFmts ∧ r.payload.length = m.elems * elemBytes r.fmt ∧ ((r.keyed = true ∨ m.rows = false)) ∧ seenRec (stepOf m r.step) r.src r.seq = true) ∧
  (∃ (s : State) (c : Nat) (q : Nat),
    s.power.off = false ∧ getQueue s c q = none) ∧
  (∃ (s : State) (c : Nat) (q : Nat) (m : MergeQueue),
    getQueue s c q = some m ∧ s.power.off = false ∧ stepWhole m (stepOf m m.next) = true ∧ m.rows = false) ∧
  (∃ (s : State) (c : Nat) (q : Nat) (m : MergeQueue),
    getQueue s c q = some m ∧ s.power.off = false ∧ stepWhole m (stepOf m m.next) = true ∧ m.rows = true ∧ stepKeys (stepOf m m.next) ≠ []) ∧
  (∃ (s : State) (c : Nat) (k : Nat) (x : Ctx) (f : JFrame),
    NMap.find? s.ctxs c = some x ∧ NMap.find? x.journal.frames k = some f ∧ f.sent = true ∧ f.acked = false ∧ f.waiting = 0 ∧ f.flushing = true) ∧
  (∃ (s : State) (c : Nat) (k : Nat) (x : Ctx) (f : JFrame),
    NMap.find? s.ctxs c = some x ∧ NMap.find? x.journal.frames k = some f ∧ f.sent = true ∧ f.acked = false ∧ f.waiting = 0 ∧ f.flushing = false) ∧
  (∃ (s : State) (c : Nat) (x : Ctx),
    NMap.find? s.ctxs c = some x ∧ reclaimable x ≠ []) :=
  ⟨⟨queueState ctx1 queue0, 5, 6, queue0, rec0, by decide +kernel⟩,
   ⟨queueState ctx1 ({ queue0 with steps := [(1, wholeStep 2)] }), 5, 6, { queue0 with steps := [(1, wholeStep 2)] }, rec0, by decide +kernel⟩,
   ⟨queueState ctx1 queue0, 5, 7, by decide +kernel⟩,
   ⟨queueState ctx1 ({ queue0 with steps := [(1, wholeStep 2)] }), 5, 6, { queue0 with steps := [(1, wholeStep 2)] }, by decide +kernel⟩,
   ⟨queueState ctx1 ({ rowQueue with steps := [(1, wholeStep 4)] }), 5, 6, { rowQueue with steps := [(1, wholeStep 4)] }, by decide +kernel⟩,
   ⟨withCtx (framesCtx [(0, { frame0 1 1 0 false with flushing := true })]), 5, 0, framesCtx [(0, { frame0 1 1 0 false with flushing := true })], { frame0 1 1 0 false with flushing := true }, by decide +kernel⟩,
   ⟨withCtx (framesCtx [(0, frame0 1 1 0 false)]), 5, 0, framesCtx [(0, frame0 1 1 0 false)], frame0 1 1 0 false, by decide +kernel⟩,
   ⟨withCtx (framesCtx [(0, frame0 1 1 0 true), (1, frame0 2 1 1 true)]), 5, framesCtx [(0, frame0 1 1 0 true), (1, frame0 2 1 1 true)], by decide +kernel⟩⟩

/-! ### Worked examples and tables of the spec -/

/-- 03, the test vectors under R45. -/
theorem test_channel_of : [0, 0x20100, 0x1234567800, 0x1FFFFFFFF00].map channelOf = [0, 0, 206, 7] := by decide +kernel

/-- 02, the example under R25: the samples' median is 34 units, and one correction tick of +0 takes est to −30. -/
theorem test_exchange :
    let s := { live with timing := { live.timing with samples := List.replicate 7 34, locked := true, everLocked := true } }
    let t := exchange s (5000000 * 64 + 10) (5000071 * 64 + 40) (5000200 * 64) (5000270 * 64 + 2) (-12)
    (t.timing.est, t.timing.correction) = (34, some false) ∧ (t.clock.count, t.timing.residual) = (s.clock.count, 34) := by
  decide +kernel

theorem test_correction_tick :
    let s := { live with timing := { live.timing with est := 34, residual := 34, correction := some false, lastCorrection := none } }
    (match exec .correctionTick s with
     | .next t => some (t.clock.count, t.clock.ticks, t.timing.est)
     | _ => none) = some (s.clock.count, s.clock.ticks + 1, -30) := by
  decide +kernel

/-- 07, the example under R140: slots (2, 4, 18) and (2, 12, 18) merge to n 4, mean 8, m2 100. -/
theorem test_welford :
    let a := [0x3F800000, 0x40E00000].foldl welfordAdd Stats.empty
    let b := [0x41100000, 0x41700000].foldl welfordAdd Stats.empty
    a = { n := 2, mean := 0x40800000, m2 := 0x41900000 } ∧ welfordMerge a b = { n := 4, mean := 0x41000000, m2 := 0x42C80000 } := by
  decide +kernel

/-- 07, the same example: (1 − 8) / 5 is −1.4 to FP32 precision, 0xBFB33333. -/
theorem test_apply_z :
    fmul (fsub 0x3F800000 0x41000000) (fdiv 0x3F800000 (fsqrt 0x41C80000)) = 0xBFB33333 := by decide +kernel

/-- 08, under 'A block end to end': the FP4 row of the example. -/
def fp4Row : List W32 :=
  ([0x3E9A, 0xBDF6, 0x4220, 0x3F36, 0xBEE1, 0, 0x3E38, 0xBF73, 0x3FE6, 0x3D76, 0xBD80, 0x3FA6, 0xC1A0, 0x3F00, 0x3F60, 0xBF8D] ++
    List.replicate 16 0x3E80).map (widenCode fBf16)

theorem test_fp4_row :
    encodeRow fFp4 (fun _ => .rne) 2 3 2 fp4Row =
      { bytes := [0x92, 0x50, 0x0C, 0xE1, 0x07, 0x78, 0x40, 0xE6, 0x22, 0x22, 0x22, 0x22, 0x22, 0x22, 0x22, 0x22,
          0x7D, 2, 0, 0, 0x20, 0x42, 2, 0, 0xA0, 0xC1, 0x0C, 0]
        sat := 1, nan := 0, denied := 0 } := by
  decide +kernel

/-- 10, the example under R206: element 0 of the row merges to 0. -/
theorem test_merge_order :
    let r := fun (src seq x : Nat) => ({ src := src, key := 7001, seq := seq, fmt := fFp32, payload := natLE x 4 } : StoredRec)
    (mergedCodes { queue0 with elems := 1 } [r 3 0 0xCB800000, r 1 12 0x3F800000, r 1 9 0x4B800000]).1 = [0] := by
  decide +kernel

/-- 11, the example of a two-Pier selection: item 1's list. -/
theorem test_topk :
    let idx := [330, 777, 808, 901, 955, 999].flatMap (fun n => natLE n 8)
    let vals := [0x3F400000, 0x3F200000, 0x3F200000, 0x3F200000, 0x3E000000, 0x3F200000].flatMap (fun n => natLE n 4)
    outOf (.topk 0) (opState (op0 0x1A 0 fFp32 0 [buf 0, buf 1, 0, buf 2] 6 ([0#8, 1#8] ++ natLE 4 2 ++ natLE 6 4)) vals idx) =
      some (listBytes fFp32 0 4 1 0 [⟨330, 0x3F400000, 0⟩, ⟨777, 0x3F200000, 1⟩, ⟨808, 0x3F200000, 2⟩, ⟨901, 0x3F200000, 3⟩]
        0x40280000 0x3F400000) := by
  decide +kernel

/-- 17, the example under R371: the stride and the group size of FP4 rows of 128 elements. -/
theorem test_stride : rowStride fFp4 128 0 = 72 ∧ groupSize 72 = 294912 := by decide +kernel

/-- 19, the example, step 6: a toggle that would leave a reserved value is dropped, and its access is a bus error. -/
theorem test_toggle_reserved :
    (match exec (.toggleAliasWrite 0xC12008 1) live with
     | .next t => some (rwGet t rwPwrRequest, t.regs.busErrAddr, pairValue t ctBusErr)
     | _ => none) = some (0, 0x20C12008, pairValue live ctBusErr + 1) := by
  decide +kernel

/-- 19, the example, steps 1 to 3: the high half comes from the shadow that the low read took. -/
theorem test_pair_shadow :
    let s := { live with regs := { live.regs with pairs := NMap.set live.regs.pairs ctDeckCorr 0x1FFFFFFFE } }
    let r := readPairLo s ctDeckCorr
    let t := bump r.1 ctDeckCorr 2
    r.2 = 0xFFFFFFFE ∧ pairValue t ctDeckCorr = 0x200000000 ∧ (readWord t (ctDeckCorr + 4)).2 = 1 := by
  decide +kernel

/-! ### One operator each, over two INT64 rows 9 and 5 -/

/-- The last `n` bytes of what the `k`-th of the operators leaves in chain buffer 2. -/
def endOf (c : Instr) (k n : Nat) : Option (List Byte) :=
  (outOf c (opStates.getD k live)).map (fun bs => bs.drop (bs.length - n))

/-- R128: PROJECT copies the column. -/
theorem test_project : endOf (.project 0) 0 16 = some (natLE 9 8 ++ natLE 5 8) := by decide +kernel

/-- Only row 0 is above 6. -/
theorem test_filter : endOf (.filter 0) 1 8 = some (zeros 8) := by decide +kernel

/-- 07 R122: the H64 of eight zero bytes. -/
theorem test_hash : (endOf (.hash 0) 2 16).map (·.take 8) = some (natLE 0x6967682AF009E84B 8) := by decide +kernel

/-- R133: 9 is at or above the boundary 7, and 5 below it. -/
theorem test_bucket : endOf (.bucket 0) 3 8 = some (natLE 1 4 ++ natLE 0 4) := by decide +kernel

/-- (2 − 2) × 0.5 and (4 − 2) × 0.5. -/
theorem test_norm : endOf (.norm 0) 5 8 = some (zeros 4 ++ natLE 0x3F800000 4) := by decide +kernel

/-- 9 and 5 clipped to 6 to 8. -/
theorem test_clip : endOf (.clip 0) 6 16 = some (natLE 8 8 ++ natLE 6 8) := by decide +kernel

/-- The rows in two partitions, with their starts. -/
theorem test_partition : endOf (.partition 0) 7 28 = some (natLE 5 8 ++ natLE 9 8 ++ natLE 0 4 ++ natLE 1 4 ++ natLE 2 4) := by
  decide +kernel

/-- Row 1 holds the table's key 5. -/
theorem test_join_probe : endOf (.joinProbe 0) 8 16 = some (natLE 5 8 ++ natLE 1 8) := by decide +kernel

/-- 9 + 5. -/
theorem test_group_agg : endOf (.groupAgg 0) 9 8 = some (natLE 14 8) := by decide +kernel

/-- 5 before 9. -/
theorem test_sort : endOf (.sort 0) 10 8 = some (natLE 1 4 ++ natLE 0 4) := by decide +kernel

/-- Both entries end in the byte 0x42. -/
theorem test_count_match : endOf (.countMatch 0) 14 4 = some (natLE 2 4) := by decide +kernel

/-- R156: 2^40 saturates in INT32. -/
theorem test_convert : endOf (.convert 0) 15 8 = some (natLE 9 4 ++ natLE 0x7FFFFFFF 4) := by decide +kernel

/-- Rows of the fused columns (1, 2) and (3, 4), interleaved. -/
theorem test_store_fused : endOf (.storeFused 0) 17 16 = some ([0x3F800000, 0x40400000, 0x40000000, 0x40800000].flatMap (natLE · 4)) := by
  decide +kernel

/-- DECOMPRESS gives back what was compressed. -/
theorem test_decompress : endOf (.decompress 0) 19 3 = some [7, 8, 9] := by decide +kernel

/-! ### The step -/

/-- An empty queue idles. -/
theorem test_idle : step live = .next live := rfl

/-- The front command runs, and the rest of the queue waits. -/
theorem test_front : (match step { live with pending := [.keystoneTick, .lockLost] } with
    | .next t => some (t.pending, t.clock.count)
    | _ => none) = some ([.lockLost], live.clock.count + 1) := by decide +kernel

/-- No row of the table has bits. -/
theorem test_decode : decodeTableWord 32 0 = none := rfl

/-! ### An ill-formed command for each check of WellFormed -/

def illFormed : List Instr :=
    [.ts1 0 48 (zeros 32), .ts1 0 0 (zeros 31), .ts2 0 48 (zeros 32), .normal 0 { bytes := [], corrected := 0, uncorrectable := 0 },
      .replayRequest 0 { bytes := [], corrected := 0, uncorrectable := 0 }, .napAck { bytes := [], corrected := 0, uncorrectable := 0 }] ++
     [.putRequest 0 (hdr0 1 0 8) [], .putRequest 0 { hdr0 1 0 0 with hops := 16 } [], .getRequest 0 { hdr0 2 0 8 with channel := 8 },
      .atomicRequest 0 (hdr0 3 1 16) [], .mergeRequest 0 (hdr0 4 0 8) [], .putDone 0 { hdr0 0x21 0 0 with src := 4096 },
      .getData 0 { hdr0 0x22 0 8 with dst := 4096 } [], .atomicDone 0 { hdr0 0x23 0 8 with seq := 2 ^ 32 } [],
      .mergeDone 0 { hdr0 0x24 0 0 with address := 2 ^ 64 }] ++
     [.lightMessage 272, .relaySend 256 0 1, .relaySend 0 (2 ^ 21) 1, .deckReadData 256 0 0 0, .deckReadData 0 0 4 0,
      .deckReadData 0 0 0 73, .dispatch 256, .regRead 0 2 0, .regRead 0 4 4096, .regWrite 0 4 (2 ^ 32), .doorbell 0 (2 ^ 64),
      .snpInv (2 ^ 64) 0, .refresh 512, .patrolScrub 512 0, .channelLost 512 .phy, .stackLost 16 .phy, .parityFailure 256,
      .pierLost 256 .flags, .parapetBankParity 4 0, .parapetBankParity 0 16, .trimEvaluation [] 0]

theorem test_ill_formed : illFormed.all (fun c => !(WellFormed c)) = true := by decide +kernel

theorem test_well_formed : ([.keystoneTick, .ts1 8 47 (zeros 32), .regRead 0 8 4095, .putRequest 0 (hdr0 1 0 8) (zeros 8),
    .dispatch 255, .submit 5 2] : List Instr).all WellFormed = true := by decide +kernel

end Sys2Proof.Tests
end

section
/-!
PROOF. What a command keeps that has nothing to do with time, the Trestle, a Parapet, the pads, the fuses or the package.
-/

namespace Sys2Proof.Machine

open Sys2Proof

/-- A command of which `mayMove` does not speak keeps all that `Runs` names, what `Still` names included. -/
theorem exec_runs_of_not_mayMove {c : Instr} (k : Bool) (s : State) (h : mayMove c = false) :
    RunsOut k s (exec c s) := by
  cases c with
  | launchGateOpen item => exact execLaunchGateOpen_runs (runs_refl k s) item
  | deckReadData pier entry block errBytes => exact execDeckReadData_runs (runs_refl k s) pier entry block errBytes
  | dispatch pier => exact execDispatch_runs (runs_refl k s) pier
  | itemCommit item => exact execItemCommit_runs (runs_refl k s) item
  | release flow => exact execRelease_runs (runs_refl k s) flow
  | itemBudgetSkip item => exact execItemBudgetSkip_runs (runs_refl k s) item
  | recordBudgetQuarantine item => exact execRecordBudgetQuarantine_runs (runs_refl k s) item
  | outsideTimeout item => exact execOutsideTimeout_runs (runs_refl k s) item
  | sliceBoundary ctx => exact execSliceBoundary_runs (runs_refl k s) ctx
  | swapIn => exact execSwapIn_runs (runs_refl k s)
  | blockedRingAccept ctx ring => exact execBlockedRingAccept_runs (runs_refl k s) ctx ring
  | cellWaitRelease item => exact execCellWaitRelease_runs (runs_refl k s) item
  | decodeAvro item => exact execDecodeAvro_runs (runs_refl k s) item
  | decodeIrc item => exact execDecodeIrc_runs (runs_refl k s) item
  | project item => exact execProject_runs (runs_refl k s) item
  | filter item => exact execFilter_runs (runs_refl k s) item
  | hash item => exact execHash_runs (runs_refl k s) item
  | bucket item => exact execBucket_runs (runs_refl k s) item
  | cross item => exact execCross_runs (runs_refl k s) item
  | norm item => exact execNorm_runs (runs_refl k s) item
  | clip item => exact execClip_runs (runs_refl k s) item
  | partition item => exact execPartition_runs (runs_refl k s) item
  | joinBuild item => exact execJoinBuild_runs (runs_refl k s) item
  | joinProbe item => exact execJoinProbe_runs (runs_refl k s) item
  | groupAgg item => exact execGroupAgg_runs (runs_refl k s) item
  | sort item => exact execSort_runs (runs_refl k s) item
  | unique item => exact execUnique_runs (runs_refl k s) item
  | topk item => exact execTopk_runs (runs_refl k s) item
  | selMerge item => exact execSelMerge_runs (runs_refl k s) item
  | countMatch item => exact execCountMatch_runs (runs_refl k s) item
  | gather item => exact execGather_runs (runs_refl k s) item
  | gatherPool item => exact execGatherPool_runs (runs_refl k s) item
  | scatterMerge item => exact execScatterMerge_runs (runs_refl k s) item
  | rowApply item => exact execRowApply_runs (runs_refl k s) item
  | convert item => exact execConvert_runs (runs_refl k s) item
  | quant item => exact execQuant_runs (runs_refl k s) item
  | copyLayout item => exact execCopyLayout_runs (runs_refl k s) item
  | storeFused item => exact execStoreFused_runs (runs_refl k s) item
  | compress item => exact execCompress_runs (runs_refl k s) item
  | decompress item => exact execDecompress_runs (runs_refl k s) item
  | digest item => exact execDigest_runs (runs_refl k s) item
  | put item => exact execPut_runs (runs_refl k s) item
  | get item => exact execGet_runs (runs_refl k s) item
  | atomic item => exact execAtomic_runs (runs_refl k s) item
  | signal item => exact execSignal_runs (runs_refl k s) item
  | wait item => exact execWait_runs (runs_refl k s) item
  | migrate ctx ring => exact execMigrate_runs (runs_refl k s) ctx ring
  | migrationDrainDone mig => exact execMigrationDrainDone_runs (runs_refl k s) mig
  | migrationFlip mig => exact execMigrationFlip_runs (runs_refl k s) mig
  | migrationFree mig => exact execMigrationFree_runs (runs_refl k s) mig
  | migrationAbandon mig => exact execMigrationAbandon_runs (runs_refl k s) mig
  | tableSwitch ctx ring => exact execTableSwitch_runs (runs_refl k s) ctx ring
  | versionRetire ver => exact execVersionRetire_runs (runs_refl k s) ver
  | mergeRecord ctx queue rec => exact execMergeRecord_runs (runs_refl k s) ctx queue rec
  | stepFinalise ctx queue => exact execStepFinalise_runs (runs_refl k s) ctx queue
  | journalFrameAck ctx frame => exact execJournalFrameAck_runs (runs_refl k s) ctx frame
  | journalSpaceFreed ctx => exact execJournalSpaceFreed_runs (runs_refl k s) ctx
  | applySlotCopy item => exact execApplySlotCopy_runs (runs_refl k s) item
  | versionCommit ctx ring => exact execVersionCommit_runs (runs_refl k s) ctx ring
  | backingWriteRetry acc => exact execBackingWriteRetry_runs (runs_refl k s) acc
  | chainInstall ctx ring => exact execChainInstall_runs (runs_refl k s) ctx ring
  | chainRemove ctx ring => exact execChainRemove_runs (runs_refl k s) ctx ring
  | flowOpen ctx ring => exact execFlowOpen_runs (runs_refl k s) ctx ring
  | flowClose ctx ring => exact execFlowClose_runs (runs_refl k s) ctx ring
  | rangeAdd ctx ring => exact execRangeAdd_runs (runs_refl k s) ctx ring
  | rangeRemove ctx ring => exact execRangeRemove_runs (runs_refl k s) ctx ring
  | tensorCreate ctx ring => exact execTensorCreate_runs (runs_refl k s) ctx ring
  | tensorDestroy ctx ring => exact execTensorDestroy_runs (runs_refl k s) ctx ring
  | streamArm ctx ring => exact execStreamArm_runs (runs_refl k s) ctx ring
  | streamResume ctx ring => exact execStreamResume_runs (runs_refl k s) ctx ring
  | streamCancel ctx ring => exact execStreamCancel_runs (runs_refl k s) ctx ring
  | streamBlockDispatch ctx slot pier => exact execStreamBlockDispatch_runs (runs_refl k s) ctx slot pier
  | streamBlockDelivered ctx slot => exact execStreamBlockDelivered_runs (runs_refl k s) ctx slot
  | pageFault target => exact execPageFault_runs (runs_refl k s) target
  | cacheInvalidate ctx ring => exact execCacheInvalidate_runs (runs_refl k s) ctx ring
  | mergeQueueCreate ctx ring => exact execMergeQueueCreate_runs (runs_refl k s) ctx ring
  | mergeQueueDestroy ctx ring => exact execMergeQueueDestroy_runs (runs_refl k s) ctx ring
  | mergeQueueSet ctx ring => exact execMergeQueueSet_runs (runs_refl k s) ctx ring
  | submit ctx ring => exact execSubmit_runs (runs_refl k s) ctx ring
  | descriptorFetch ctx ring => exact execDescriptorFetch_runs (runs_refl k s) ctx ring
  | dependenceTimeout ctx ring => exact execDependenceTimeout_runs (runs_refl k s) ctx ring
  | completionWrite ctx ring => exact execCompletionWrite_runs (runs_refl k s) ctx ring
  | statusWordWrite ctx ring => exact execStatusWordWrite_runs (runs_refl k s) ctx ring
  | msgWake ctx ring => exact execMsgWake_runs (runs_refl k s) ctx ring
  | hostReadRetry acc => exact execHostReadRetry_runs (runs_refl k s) acc
  | hostWriteRetry acc => exact execHostWriteRetry_runs (runs_refl k s) acc
  | submissionTail ctx ring value => exact execSubmissionTail_runs (runs_refl k s) ctx ring value
  | completionHead ctx ring value => exact execCompletionHead_runs (runs_refl k s) ctx ring value
  | quarantineLogHead ctx value => exact execQuarantineLogHead_runs (runs_refl k s) ctx value
  | haltLogHead ctx value => exact execHaltLogHead_runs (runs_refl k s) ctx value
  | eventTraceHead ctx value => exact execEventTraceHead_runs (runs_refl k s) ctx value
  | create => exact execCreate_runs (runs_refl k s)
  | pause => exact execPause_runs (runs_refl k s)
  | resume => exact execResume_runs (runs_refl k s)
  | ts1 port lane set => exact execTs1_runs (runs_refl k s) port lane set
  | ts2 port lane set => exact execTs2_runs (runs_refl k s) port lane set
  | trainingStateExit port lanes => exact execTrainingStateExit_runs (runs_refl k s) port lanes
  | trainingStateTimeout port => exact execTrainingStateTimeout_runs (runs_refl k s) port
  | linkDownRetry port => exact execLinkDownRetry_runs (runs_refl k s) port
  | normal port frame => exact execNormal_runs (runs_refl k s) port frame
  | replayRequest port frame => exact execReplayRequest_runs (runs_refl k s) port frame
  | retrain port => exact execRetrain_runs (runs_refl k s) port
  | napRequest => exact execNapRequest_runs (runs_refl k s)
  | napAck frame => exact execNapAck_runs (runs_refl k s) frame
  | regRead off len tag => exact execRegRead_runs (runs_refl k s) off len tag
  | regWrite off len data => exact execRegWrite_runs (runs_refl k s) off len data
  | doorbell off data => exact execDoorbell_runs (runs_refl k s) off data
  | snpInv addr tag => exact execSnpInv_runs (runs_refl k s) addr tag
  | readData tag data => exact execReadData_runs (runs_refl k s) tag data
  | readDone tag status => exact execReadDone_runs (runs_refl k s) tag status
  | writeDone tag status => exact execWriteDone_runs (runs_refl k s) tag status
  | putRequest port hdr data => exact execPutRequest_runs (runs_refl k s) port hdr data
  | getRequest port hdr => exact execGetRequest_runs (runs_refl k s) port hdr
  | atomicRequest port hdr data => exact execAtomicRequest_runs (runs_refl k s) port hdr data
  | mergeRequest port hdr data => exact execMergeRequest_runs (runs_refl k s) port hdr data
  | putDone port hdr => exact execPutDone_runs (runs_refl k s) port hdr
  | getData port hdr data => exact execGetData_runs (runs_refl k s) port hdr data
  | atomicDone port hdr data => exact execAtomicDone_runs (runs_refl k s) port hdr data
  | mergeDone port hdr => exact execMergeDone_runs (runs_refl k s) port hdr
  | spanResend dst channel => exact execSpanResend_runs (runs_refl k s) dst channel
  | spanPortDown port => exact execSpanPortDown_runs (runs_refl k s) port
  | refresh channel => exact execRefresh_runs (runs_refl k s) channel
  | patrolScrub channel errBytes => exact execPatrolScrub_runs (runs_refl k s) channel errBytes
  | channelLost channel cause => exact execChannelLost_runs (runs_refl k s) channel cause
  | stackLost stack cause => exact execStackLost_runs (runs_refl k s) stack cause
  | displacedFill channel => exact execDisplacedFill_runs (runs_refl k s) channel
  | plainWithdraw =>
    rw [exec_plainWithdraw]
    exact execPlainWithdraw_runs (runs_refl k s)
  | auditRead => exact execAuditRead_runs (runs_refl k s)
  | nvmeCompletion port ctrl queue entry => exact execNvmeCompletion_runs (runs_refl k s) port ctrl queue entry
  | nvmeInboundRequest port ctrl write addr len data =>
    exact execNvmeInboundRequest_runs (runs_refl k s) port ctrl write addr len data
  | nvmeCommandTimeout acc => exact execNvmeCommandTimeout_runs (runs_refl k s) acc
  | nvmeControllerReset port ctrl => exact execNvmeControllerReset_runs (runs_refl k s) port ctrl
  | nvmeLost port ctrl => exact execNvmeLost_runs (runs_refl k s) port ctrl
  | parityFailure pier => exact execParityFailure_runs (runs_refl k s) pier
  | pierLost pier cause => exact execPierLost_runs (runs_refl k s) pier cause
  | hubParityFailure unit => exact execHubParityFailure_runs (runs_refl k s) unit
  | configFix off => exact execConfigFix_runs (runs_refl k s) off
  | unitOut unit => exact execUnitOut_runs (runs_refl k s) unit
  | rebuildStart ver group => exact execRebuildStart_runs (runs_refl k s) ver group
  | rebuildDone rebuild => exact execRebuildDone_runs (runs_refl k s) rebuild
  | groupLost rebuild => exact execGroupLost_runs (runs_refl k s) rebuild
  | outsideAccessRetry acc => exact execOutsideAccessRetry_runs (runs_refl k s) acc
  | outOfService => exact execOutOfService_runs (runs_refl k s)
  | setAliasWrite off data => exact execSetAliasWrite_runs (runs_refl k s) off data
  | clearAliasWrite off data => exact execClearAliasWrite_runs (runs_refl k s) off data
  | toggleAliasWrite off data => exact execToggleAliasWrite_runs (runs_refl k s) off data
  | sqWrite off data => exact execSqWrite_runs (runs_refl k s) off data
  | pairLoRead off tag => exact execPairLoRead_runs (runs_refl k s) off tag
  | pairLoWrite off data => exact execPairLoWrite_runs (runs_refl k s) off data
  | pairHiWrite off data => exact execPairHiWrite_runs (runs_refl k s) off data
  | slowDataRead tag => exact execSlowDataRead_runs (runs_refl k s) tag
  | slowDataWrite data => exact execSlowDataWrite_runs (runs_refl k s) data
  | slowAccessTimeout => exact execSlowAccessTimeout_runs (runs_refl k s)
  | cfgSwitchGo data => exact execCfgSwitchGo_runs (runs_refl k s) data
  | pwrRequestNap => exact execPwrRequestNap_runs (runs_refl k s)
  | pwrRequestRun => exact execPwrRequestRun_runs (runs_refl k s)
  | trimGateTick => exact execTrimGateTick_runs (runs_refl k s)
  | romPhaseEnd => exact execRomPhaseEnd_runs (runs_refl k s)
  | initPhaseEnd badChannels badPiers => exact execInitPhaseEnd_runs (runs_refl k s) badChannels badPiers
  | identity => exact execIdentity_runs (runs_refl k s)
  | attest => exact execAttest_runs (runs_refl k s)
  | deviceRequestTimeout acc => exact execDeviceRequestTimeout_runs (runs_refl k s) acc
  | nvmeControllerReady port ctrl => exact execNvmeControllerReady_runs (runs_refl k s) port ctrl
  | keystoneTick | correctionTick | timingFrameSend _ _ | timingRecord _ _ _ _ | lockLost | parentTimeout
  | rootTimeout | slotTableSwitch | lightMessage _ | relaySend _ _ _ | parapetUpdate _ | parapetApply _
  | parapetSetCreate _ _ | parapetSetDestroy _ _ | destroy | napAckTimeout | parapetBankParity _ _ | overlaySwitch
  | napEntryStep | napWake | trimEvaluation _ _ | forcedOff _ | coldReset | rootPllLock | loadConfig | flashWrite
  | ownerSet | resetNLow _ _ | brownOut _ _ _ | mgmtBlockRead _ _ | bypass _ _ | idcode | samplePreload _ | extest
  | clamp | highz | resetNRelease =>
    cases h

end Sys2Proof.Machine
end

section
/-!
PROOF. Keystone's clock: the operations and commands that leave it as it is, and its count over ticks, reset and Off (R19).
-/

namespace Sys2Proof.Machine

open Sys2Proof

theorem Runs.clock_eq {s t : State} (h : Runs true s t) : t.clock = s.clock := (h.still rfl).clock

/-! ### The clock under the shared operations -/

@[simp] theorem settle_clock (s : State) : (settle s).clock = s.clock := (settle_runs (runs_refl true s)).clock_eq

@[simp] theorem event_clock (s : State) (off bit : Nat) : (event s off bit).clock = s.clock :=
  (event_runs (runs_refl true s) off bit).clock_eq

@[simp] theorem rwStore_clock (s : State) (off v : Nat) : (rwStore s off v).clock = s.clock :=
  (rwStore_runs (runs_refl true s) off v).clock_eq

@[simp] theorem rebookAll_clock (s : State) : (rebookAll s).clock = s.clock :=
  (rebookAll_runs (runs_refl true s)).clock_eq

@[simp] theorem advance_clock (s : State) (id cost : Nat) : (advance s id cost).clock = s.clock :=
  (advance_runs (runs_refl true s) id cost).clock_eq

@[simp] theorem writeDst_clock (s : State) (id : Nat) (x : Ctx) (it : Item) (o out : List Byte)
    (runs : List (Nat × Nat)) : (writeDst s id x it o out runs).clock = s.clock :=
  (writeDst_runs (runs_refl true s) id x it o out runs).clock_eq

@[simp] theorem applyRes_clock (s : State) (id : Nat) (x : Ctx) (it : Item) (o : List Byte) (r : OpRes) :
    (applyRes s id x it o r).clock = s.clock := (applyRes_runs (runs_refl true s) id x it o r).clock_eq

@[simp] theorem completeHead_clock (s : State) (c r : Nat) (raw : List Byte) (status detail : Nat) :
    (completeHead s c r raw status detail).clock = s.clock :=
  (completeHead_runs (runs_refl true s) c r raw status detail).clock_eq

@[simp] theorem completeDesc_clock (s : State) (c r i status detail : Nat) :
    (completeDesc s c r i status detail).clock = s.clock :=
  (completeDesc_runs (runs_refl true s) c r i status detail).clock_eq

@[simp] theorem startCommand_clock (s : State) (c r : Nat) (raw : List Byte) :
    (startCommand s c r raw).clock = s.clock := (startCommand_runs (runs_refl true s) c r raw).clock_eq

@[simp] theorem orphan_clock (s : State) (p : Owner → Bool) : (orphan s p).clock = s.clock :=
  (orphan_runs (runs_refl true s) p).clock_eq

@[simp] theorem abortAll_clock (s : State) (c : Nat) : (abortAll s c).clock = s.clock :=
  (abortAll_runs (runs_refl true s) c).clock_eq

@[simp] theorem adminEnd_clock (s : State) (status : Nat) : (adminEnd s status).clock = s.clock :=
  (adminEnd_runs (runs_refl true s) status).clock_eq

@[simp] theorem applyEntries_clock (s : State) (img : List Byte) : (applyEntries s img).clock = s.clock :=
  (applyEntries_runs (runs_refl true s) img).clock_eq

@[simp] theorem traceAll_clock (s : State) (src kind object detail : Nat) :
    (traceAll s src kind object detail).clock = s.clock :=
  (traceAll_runs (runs_refl true s) src kind object detail).clock_eq

@[simp] theorem saveScratch_clock (s : State) : (saveScratch s).clock = s.clock :=
  (saveScratch_runs (runs_refl true s)).clock_eq

@[simp] theorem loadScratch_clock (s : State) : (loadScratch s).clock = s.clock :=
  (loadScratch_runs (runs_refl true s)).clock_eq

@[simp] theorem portsOff_clock (s : State) : (portsOff s).clock = s.clock :=
  (portsOff_runs (runs_refl true s)).clock_eq

@[simp] theorem enter_clock (s : State) (p : Nat) (st : LinkState) (f : Link → Link) :
    (enter s p st f).clock = s.clock := (enter_runs (runs_refl true s) p st f).clock_eq

@[simp] theorem startTraining_clock (s : State) (p : Nat) : (startTraining s p).clock = s.clock :=
  (startTraining_runs (runs_refl true s) p).clock_eq

@[simp] theorem issueReads_clock (s : State) (owner : Owner) (ctx addr len : Nat) :
    (issueReads s owner ctx addr len).clock = s.clock :=
  (issueReads_runs (runs_refl true s) owner ctx addr len).clock_eq

@[simp] theorem mbxEnd_clock (s : State) (status detail : Nat) : (mbxEnd s status detail).clock = s.clock := rfl

@[simp] theorem blow_clock (s : State) (o : Nat) (bs : List Byte) : (blow s o bs).clock = s.clock := rfl

theorem foldl_clock {β : Type} (f : State → β → State) (hf : ∀ v x, (f v x).clock = v.clock) (xs : List β)
    (s : State) : (xs.foldl f s).clock = s.clock := by
  induction xs generalizing s with
  | nil => rfl
  | cons x xs ih => exact (ih _).trans (hf s x)

theorem ite_clock {c : Prop} [Decidable c] {s u v : State} (hu : u.clock = s.clock) (hv : v.clock = s.clock) :
    (if c then u else v).clock = s.clock := by
  split
  · exact hu
  · exact hv

/-- A command run off a ring keeps the clock if its own work does. -/
theorem command_clock {s : State} {c r code : Nat} {named : List (Nat × Nat)} {need : List Byte → List Byte → Nat}
    {f : Ctx → List Byte → List Byte → State} (hf : ∀ x raw arg, (f x raw arg).clock = s.clock) :
    (command s c r code named need f).clock = s.clock := by
  unfold command
  split
  · rfl
  · exact (takeCommand_runs (by assumption) (runs_refl true s)).clock_eq
  · exact hf _ _ _

/-! ### The clock under the operations of the Parapets, the timing tree, power and the package -/

@[simp] theorem setBank_clock (s : State) (p b : Nat) (es : List (List Byte)) : (setBank s p b es).clock = s.clock := rfl

@[simp] theorem setApplying_clock (s : State) (p id : Nat) (us : Option (List (Nat × List Byte))) :
    (setApplying s p id us).clock = s.clock := rfl

@[simp] theorem clearBanks_clock (s : State) (p : Nat) (bs : List Nat) :
    (bs.foldl (fun s b => setBank s p b []) s).clock = s.clock :=
  foldl_clock (fun s b => setBank s p b []) (fun _ _ => rfl) bs s

@[simp] theorem applyOne_clock (s : State) (k : ParaSet) (u : Nat × List Byte) : (applyOne s k u).1.clock = s.clock := by
  unfold applyOne
  split
  · exact clearBanks_clock s _ _
  · extract_lets b es
    repeat' split
    all_goals rfl

@[simp] theorem applyAll_clock (k : ParaSet) (us : List (Nat × List Byte)) (s : State) :
    (applyAll k us s).1.clock = s.clock := by
  induction us generalizing s with
  | nil => rfl
  | cons u us ih => exact (ih _).trans (applyOne_clock s k u)

@[simp] theorem handOver_clock (s : State) (id : Nat) (x : Ctx) (it : Item) (i : OpIn) :
    (handOver s id x it i).clock = s.clock := by
  unfold handOver
  dsimp only
  repeat' split
  all_goals simp

@[simp] theorem freeSet_clock (s : State) (c set : Nat) : (freeSet s c set).clock = s.clock := by
  unfold freeSet
  split <;> simp

@[simp] theorem freeCtx_clock (s : State) (c : Nat) (x : Ctx) : (freeCtx s c x).clock = s.clock := by
  unfold freeCtx
  dsimp only
  rw [orphan_clock]
  exact foldl_clock _ (fun v k => freeSet_clock v c k) _ s

@[simp] theorem bringOverlay_clock (s : State) (ov : Option Nat) (at_ : Nat) :
    (bringOverlay s ov at_).clock = s.clock := by
  unfold bringOverlay
  split <;> simp

@[simp] theorem takeRoot_clock (s : State) : (takeRoot s).clock = s.clock := by
  unfold takeRoot
  split <;> simp

@[simp] theorem startTiming_clock (s : State) : (startTiming s).clock = s.clock := by
  unfold startTiming
  dsimp only
  repeat' split
  all_goals simp

@[simp] theorem actOnFlags_clock (s : State) : (actOnFlags s).clock = s.clock := by
  unfold actOnFlags
  dsimp only
  repeat' split
  all_goals rfl

@[simp] theorem putInForce_clock (s : State) (p : List Byte) : (putInForce s p).clock = s.clock := by
  unfold putInForce
  simp only [actOnFlags_clock, bringOverlay_clock, applyEntries_clock, startTiming_clock]
  refine ite_clock (ite_clock rfl rfl) ?_
  dsimp only
  exact ite_clock rfl rfl

@[simp] theorem enterNap_clock (s : State) : (enterNap s).clock = s.clock := by
  unfold enterNap
  dsimp only
  split <;> simp

theorem mbxRead_clock {s t : State} {n : Nat} (h : mbxRead s n = .ask t) : t.clock = s.clock := by
  unfold mbxRead at h
  extract_lets a m g at h
  split at h
  · cases h
  · split at h
    · cases h
      exact issueReads_clock _ .mbx 0 g m
    · repeat' split at h
      all_goals cases h

@[simp] theorem backToRun_clock (s : State) : (backToRun s).clock = s.clock := by
  unfold backToRun
  dsimp only
  rw [foldl_clock]
  · exact loadScratch_clock _
  · intro v p
    split
    · exact enter_clock v _ _ _
    · exact startTraining_clock v _

/-- A next state of the outcome has the clock of `s`. -/
def ClockKept (s : State) (o : Host.Outcome State Fault Refusal) : Prop := ∀ t, o = .next t → t.clock = s.clock

theorem clockKept_ok {s u : State} (h : u.clock = s.clock) : ClockKept s (ok u) := by
  rintro t ht
  cases ht
  exact h

theorem clockKept_finish {s u : State} (h : u.clock = s.clock) : ClockKept s (finish u) :=
  clockKept_ok ((settle_clock u).trans h)

theorem clockKept_fault {s : State} (f : Fault) : ClockKept s (.fault f) := by
  rintro t ht
  cases ht

theorem clockKept_next {s : State} {o : Host.Outcome State Fault Refusal} (h : o = .next s) : ClockKept s o := by
  subst h
  exact clockKept_ok rfl

theorem clockKept_of_runsOut {s : State} {o : Host.Outcome State Fault Refusal} (h : RunsOut true s o) :
    ClockKept s o :=
  fun t ht => (h t ht).clock_eq

theorem clockKept_ite {c : Prop} [Decidable c] {s : State} {o p : Host.Outcome State Fault Refusal}
    (ho : c → ClockKept s o) (hp : ¬c → ClockKept s p) : ClockKept s (if c then o else p) := by
  split
  · exact ho ‹_›
  · exact hp ‹_›

/-! ### Commands that move the Trestle, a Parapet, the timing tree, the pads, the fuses or the package -/

theorem execTimingFrameSend_clockKept (s : State) (port : Fin 8) (frac : Fin 64) :
    ClockKept s (execTimingFrameSend port frac s) :=
  clockKept_ite (fun _ => clockKept_ok rfl) (fun _ => clockKept_ok rfl)

theorem execLockLost_clockKept (s : State) : ClockKept s (execLockLost s) :=
  clockKept_ite (fun _ => clockKept_ok (event_clock s evSync 0)) (fun _ => clockKept_ok rfl)

theorem execParentTimeout_clockKept (s : State) : ClockKept s (execParentTimeout s) :=
  clockKept_ite (fun _ => clockKept_ok (event_clock s evSync 3)) (fun _ => clockKept_ok rfl)

theorem execRootTimeout_clockKept (s : State) : ClockKept s (execRootTimeout s) :=
  clockKept_ite (fun _ => clockKept_ok (takeRoot_clock s)) (fun _ => clockKept_ok rfl)

theorem execSlotTableSwitch_clockKept (s : State) : ClockKept s (execSlotTableSwitch s) := by
  unfold execSlotTableSwitch
  split
  · exact clockKept_ok rfl
  · exact clockKept_ite (fun _ => clockKept_ok (rebookAll_clock _)) (fun _ => clockKept_ok rfl)

theorem execParapetUpdate_clockKept (s : State) (item : Nat) : ClockKept s (execParapetUpdate item s) := by
  unfold execParapetUpdate
  split
  next => exact clockKept_ok rfl
  next t ht => exact clockKept_finish (takeOp_moved (runs_refl true s) ht).clock_eq
  next t x it i ht =>
    exact clockKept_finish ((handOver_clock t item x it i).trans (takeOp_go (runs_refl true s) ht).clock_eq)

theorem execParapetApply_clockKept (s : State) (item : Nat) : ClockKept s (execParapetApply item s) := by
  unfold execParapetApply
  split
  · exact clockKept_ok rfl
  · split
    · exact clockKept_ok rfl
    · dsimp only
      split
      · exact clockKept_ok rfl
      · split
        · exact clockKept_ok rfl
        · refine clockKept_ite (fun _ => clockKept_ok rfl) (fun _ => clockKept_finish ?_)
          rw [advance_clock, modItem_clock]
          exact ite_clock (by simp) (by simp)

theorem execParapetSetCreate_clockKept (s : State) (ctx ring : Nat) :
    ClockKept s (execParapetSetCreate ctx ring s) := by
  unfold execParapetSetCreate
  refine clockKept_ite (fun _ => clockKept_ok rfl) (fun _ => clockKept_finish (command_clock fun x raw arg => ?_))
  dsimp only
  repeat' split
  all_goals simp

theorem execParapetSetDestroy_clockKept (s : State) (ctx ring : Nat) :
    ClockKept s (execParapetSetDestroy ctx ring s) := by
  unfold execParapetSetDestroy
  split
  · exact clockKept_finish (by simp)
  · refine clockKept_ite (fun _ => clockKept_ok rfl) (fun _ => clockKept_finish (command_clock fun x raw arg => ?_))
    repeat' split
    all_goals simp

theorem execParapetBankParity_clockKept (s : State) (parapet bank : Nat) :
    ClockKept s (execParapetBankParity parapet bank s) :=
  clockKept_ite (fun _ => clockKept_fault _) (fun _ =>
    clockKept_ite (fun _ => clockKept_ok rfl) (fun _ => clockKept_ok (event_clock _ _ _)))

theorem execDestroy_clockKept (s : State) : ClockKept s (execDestroy s) := by
  unfold execDestroy
  refine clockKept_ite (fun _ => clockKept_ok rfl) (fun _ => ?_)
  dsimp only
  split
  · exact clockKept_ok (adminEnd_clock s _)
  · refine clockKept_ite (fun _ => clockKept_ok rfl) (fun _ => clockKept_ite (fun _ => clockKept_ok rfl) (fun _ =>
      clockKept_ite (fun _ => clockKept_finish (abortAll_clock s _)) (fun _ =>
        clockKept_ite (fun _ => clockKept_ok rfl) (fun _ => clockKept_finish (by simp)))))

theorem execOverlaySwitch_clockKept (s : State) : ClockKept s (execOverlaySwitch s) := by
  unfold execOverlaySwitch
  split
  · exact clockKept_ok rfl
  · exact clockKept_ite (fun _ => clockKept_finish (by simp)) (fun _ => clockKept_ok rfl)

theorem execNapEntryStep_clockKept (s : State) : ClockKept s (execNapEntryStep s) := by
  unfold execNapEntryStep
  refine clockKept_ite (fun _ => clockKept_ok rfl) (fun _ => ?_)
  split
  · exact clockKept_ite (fun _ => clockKept_ok (by simp)) (fun _ => clockKept_ok rfl)
  · exact clockKept_ite (fun _ => clockKept_ok rfl) (fun _ => clockKept_ok rfl)
  · exact clockKept_ite (fun _ => clockKept_ok (enterNap_clock s)) (fun _ => clockKept_ok rfl)
  · exact clockKept_ok rfl

theorem execNapWake_clockKept (s : State) : ClockKept s (execNapWake s) := by
  unfold execNapWake
  split
  · exact clockKept_ok rfl
  · exact clockKept_ite (fun _ => clockKept_finish (by simp)) (fun _ => clockKept_finish (by simp))

theorem execNapAckTimeout_clockKept (s : State) : ClockKept s (execNapAckTimeout s) :=
  clockKept_ite (fun _ => clockKept_ite (fun _ => clockKept_ok rfl) (fun _ => clockKept_finish (by simp)))
    (fun _ => clockKept_ok rfl)

theorem execTrimEvaluation_clockKept (s : State) (temps : List Int) (power : Nat) :
    ClockKept s (execTrimEvaluation temps power s) := by
  unfold execTrimEvaluation
  split
  · exact clockKept_ok rfl
  · refine clockKept_ite (fun _ => clockKept_ok rfl) (fun _ => clockKept_ite (fun _ => clockKept_ok rfl) (fun _ => ?_))
    refine clockKept_ok ?_
    dsimp only
    repeat' split
    all_goals simp

theorem execOwnerSet_clockKept (s : State) : ClockKept s (execOwnerSet s) := by
  unfold execOwnerSet
  exact clockKept_ite (fun _ => clockKept_ok rfl) (fun _ => clockKept_ite (fun _ => clockKept_ok (mbxEnd_clock s _ _))
    (fun _ => clockKept_ok (by simp)))

theorem execLoadConfig_clockKept (s : State) : ClockKept s (execLoadConfig s) := by
  unfold execLoadConfig
  refine clockKept_ite (fun _ => clockKept_ok rfl) (fun _ => clockKept_ite (fun _ => clockKept_ok rfl) (fun _ => ?_))
  split
  next => exact clockKept_ok rfl
  next t ht => exact clockKept_finish (mbxRead_clock ht)
  next => exact clockKept_ok rfl
  next => exact clockKept_ok rfl
  next p _ =>
    split
    · exact clockKept_ok rfl
    · exact clockKept_finish (putInForce_clock _ p)

theorem execMgmtBlockRead_clockKept (s : State) (command : Nat) (write : Bool) :
    ClockKept s (execMgmtBlockRead command write s) :=
  clockKept_ite (fun _ => clockKept_ok rfl) (fun _ => clockKept_ok rfl)

theorem execResetNRelease_clockKept (s : State) : ClockKept s (execResetNRelease s) :=
  clockKept_ite (fun _ => clockKept_ok rfl) (fun _ => clockKept_ok rfl)

/-! ### Commands that move Keystone, on a device that is Off with a stopped clock (20 R423, R444) -/

theorem execKeystoneTick_stopped {s : State} (hrun : s.clock.running = false) : execKeystoneTick s = .next s := by
  simp [execKeystoneTick, hrun, ok]

theorem execCorrectionTick_stopped {s : State} (hrun : s.clock.running = false) : execCorrectionTick s = .next s := by
  unfold execCorrectionTick
  split <;> simp [hrun, ok]

theorem execTimingRecord_off {s : State} (hoff : s.power.off = true) (port : Fin 8) (record : BitVec 128)
    (frac : Fin 64) (replayed : Bool) : execTimingRecord port record frac replayed s = .next s := by
  simp [execTimingRecord, hoff, ok]

theorem execForcedOff_off {s : State} (hoff : s.power.off = true) (cause : OffCause) :
    execForcedOff cause s = .next s := by
  simp [execForcedOff, hoff, ok]

theorem execRootPllLock_off {s : State} (hoff : s.power.off = true) : execRootPllLock s = .next s := by
  simp [execRootPllLock, hoff, ok]

theorem execBrownOut_clockKept_in_off {s : State} (hoff : s.power.off = true) (aux : Bool) (mv ns : Nat) :
    ClockKept s (execBrownOut aux mv ns s) := by
  unfold execBrownOut
  refine clockKept_ite (fun _ => clockKept_ok rfl) (fun _ => ?_)
  rw [if_pos hoff]
  exact clockKept_ite (fun _ => clockKept_ok rfl) (fun _ => clockKept_ok rfl)

/-- Nothing but a cold reset moves the clock of a device that is Off: the commands that have to do with time do nothing
there, and the others never touch it (R19). -/
theorem exec_clockKept_in_off {c : Instr} {s : State} (hc : mayReset c = false) (hoff : s.power.off = true)
    (hrun : s.clock.running = false) : ClockKept s (exec c s) := by
  by_cases hm : mayMove c = false
  · exact clockKept_of_runsOut (exec_runs_of_not_mayMove true s hm)
  · cases c with
    | keystoneTick => exact clockKept_next (execKeystoneTick_stopped hrun)
    | correctionTick => exact clockKept_next (execCorrectionTick_stopped hrun)
    | timingFrameSend port frac => exact execTimingFrameSend_clockKept s port frac
    | timingRecord port record frac replayed => exact clockKept_next (execTimingRecord_off hoff _ _ _ _)
    | lockLost => exact execLockLost_clockKept s
    | parentTimeout => exact execParentTimeout_clockKept s
    | rootTimeout => exact execRootTimeout_clockKept s
    | slotTableSwitch => exact execSlotTableSwitch_clockKept s
    | lightMessage src => exact clockKept_of_runsOut (execLightMessage_runs (runs_refl true s) src)
    | relaySend pier off len => exact clockKept_of_runsOut (execRelaySend_runs (runs_refl true s) pier off len)
    | parapetUpdate item => exact execParapetUpdate_clockKept s item
    | parapetApply item => exact execParapetApply_clockKept s item
    | parapetSetCreate ctx ring => exact execParapetSetCreate_clockKept s ctx ring
    | parapetSetDestroy ctx ring => exact execParapetSetDestroy_clockKept s ctx ring
    | destroy => exact execDestroy_clockKept s
    | napAckTimeout => exact execNapAckTimeout_clockKept s
    | parapetBankParity parapet bank => exact execParapetBankParity_clockKept s parapet bank
    | overlaySwitch => exact execOverlaySwitch_clockKept s
    | napEntryStep => exact execNapEntryStep_clockKept s
    | napWake => exact execNapWake_clockKept s
    | trimEvaluation temps power => exact execTrimEvaluation_clockKept s temps power
    | forcedOff cause => exact clockKept_next (execForcedOff_off hoff cause)
    | rootPllLock => exact clockKept_next (execRootPllLock_off hoff)
    | loadConfig => exact execLoadConfig_clockKept s
    | ownerSet => exact execOwnerSet_clockKept s
    | brownOut aux mv ns => exact execBrownOut_clockKept_in_off hoff aux mv ns
    | mgmtBlockRead command write => exact execMgmtBlockRead_clockKept s command write
    | resetNRelease => exact execResetNRelease_clockKept s
    | coldReset | resetNLow _ _ | flashWrite | bypass _ _ | idcode | samplePreload _ | extest | clamp | highz =>
      cases hc
    | _ => exact absurd rfl hm

/-! ### Keystone's count -/

theorem execKeystoneTick_running {s : State} (hrun : s.clock.running = true) :
    execKeystoneTick s = .next (tickBy s 1) := by
  simp [execKeystoneTick, hrun, ok]

theorem execForcedOff_goOff {s : State} {cause : OffCause} (hon : s.power.off = false)
    (hf : forcesOff s cause = true) : execForcedOff cause s = .next (goOff s) := by
  simp [execForcedOff, hon, hf, ok]

theorem execRootPllLock_starts {s : State} (hn : s.pads.resetN = true) (hpg : s.pads.boardPg = true)
    (hon : s.power.off = false) (hstop : s.clock.running = false) (hrom : s.boot.phase = 0) (hj : jtagHolds s = false) :
    execRootPllLock s = .next { s with
      clock := { running := true, ticks := 0, count := 0 }
      trestle := { s.trestle with on := true, slot := 0, cycleBase := 0 } } := by
  simp [execRootPllLock, hn, hpg, hon, hstop, hrom, hj, ok]

/-- Settles O17: a tick looks at nothing but whether the clock runs, and in Off each command either does nothing or is one
that never touches the clock. -/
theorem keystoneCounts : Obligations.KeystoneCounts := by
  unfold Obligations.KeystoneCounts
  refine ⟨fun s trim nap gated hrun => ?_, fun s => ?_, fun s hn hpg hon hstop hrom hj => ?_, fun s cause hon hf => ?_,
    fun c s t hc hoff hstop ht => ?_⟩
  · exact ⟨_, execKeystoneTick_running hrun, rfl⟩
  · exact ⟨coldState s, rfl, rfl⟩
  · exact execRootPllLock_starts hn hpg hon hstop hrom hj
  · exact ⟨goOff s, execForcedOff_goOff hon hf, rfl, rfl, rfl⟩
  · exact exec_clockKept_in_off hc hoff hstop t ht

end Sys2Proof.Machine
end

section
/-!
PROOF. H64 on the keys of at most one word, and the vectors of 07 R122.
-/

namespace Sys2Proof.Machine

open Sys2Proof

/-! ### Cutting a byte string that fits in one piece -/

theorem chunksOf_nil {α : Type} (k : Nat) : chunksOf k ([] : List α) = [] := by
  unfold chunksOf
  split <;> rfl

theorem chunksOf_of_length_le {α : Type} {k : Nat} {x : α} {xs : List α} (hk : (x :: xs).length ≤ k) :
    chunksOf k (x :: xs) = [x :: xs] := by
  have hpos : k ≠ 0 := by rintro rfl; simp at hk
  have hrest : chunksOfFuel k xs.length ([] : List α) = [] := by cases xs <;> rfl
  simp only [chunksOf, hpos, if_false, List.length_cons, chunksOfFuel, List.take_of_length_le hk,
    List.drop_of_length_le hk, hrest]

/-! ### H64 of no word and of one word (R121) -/

/-- The state of H64 before its first round, for `n` bytes. -/
def h64Start (n : Nat) (seed : W64) : W64 := seed ^^^ h64C0 ^^^ (BitVec.ofNat 64 n * h64C1)

/-- What H64 does to its state after its last round. -/
def h64Finish (h : W64) : W64 :=
  let m := (h ^^^ (h >>> 33)) * h64C3
  m ^^^ (m >>> 29)

theorem h64_eq (bs : List Byte) (seed : W64) : h64 bs seed = h64Finish
    ((chunksOf 8 bs).foldl (fun h c => h64Round h (BitVec.ofNat 64 (leNat c))) (h64Start bs.length seed)) := rfl

theorem h64_nil (seed : W64) : h64 [] seed = h64Finish (h64Start 0 seed) := by
  rw [h64_eq, chunksOf_nil, List.foldl_nil, List.length_nil]

/-- A key of one to eight bytes takes one round, over its bytes as one little-endian word. -/
theorem h64_of_length_le {b : Byte} {bs : List Byte} (h8 : (b :: bs).length ≤ 8) (seed : W64) :
    h64 (b :: bs) seed =
      h64Finish (h64Round (h64Start (b :: bs).length seed) (BitVec.ofNat 64 (leNat (b :: bs)))) := by
  rw [h64_eq, chunksOf_of_length_le h8, List.foldl_cons, List.foldl_nil]

/-! ### The three vectors -/

theorem hashNat_nil_zero : hashNat [] 0 = 0xD323A975939FF94A := by
  rw [hashNat, h64_nil]
  decide

theorem hashNat_zeros_eight_zero : hashNat (zeros 8) 0 = 0x6967682AF009E84B := by
  have hkey : zeros 8 = 0#8 :: zeros 7 := rfl
  rw [hashNat, hkey, h64_of_length_le (by decide)]
  decide

theorem hashNat_one_zero : hashNat [1#8] 0 = 0x71330FDDECB4AB76 := by
  rw [hashNat, h64_of_length_le (by decide)]
  decide

/-- Settles O60: the empty key goes through no round and the other two through one, so each vector is closed arithmetic on
64-bit words. -/
theorem hashVectors : Obligations.HashVectors := by
  unfold Obligations.HashVectors
  exact ⟨hashNat_nil_zero, hashNat_zeros_eight_zero, hashNat_one_zero⟩

end Sys2Proof.Machine
end

section
/-!
PROOF. The control window while it is open (19 R406 to R413): an access takes effect at once, 64-bit pairs are read and
written whole, SQ registers clear by seq, and the W1P fields start their actions.
-/

namespace Sys2Proof.Machine

open Sys2Proof

/-! ### Reading a map, a pair and an SQ register back -/

@[simp] theorem getD_set_same {α : Type} (m : NMap α) (i : Nat) (x d : α) : NMap.getD (NMap.set m i x) i d = x := by
  simp [NMap.getD]

theorem getD_set_other {α : Type} (m : NMap α) {i j : Nat} (x d : α) (h : j ≠ i) :
    NMap.getD (NMap.set m i x) j d = NMap.getD m j d := by
  rw [NMap.getD, find_set_other m i j x h, NMap.getD]

theorem pairGet_bump_same (s : State) (off n : Nat) : pairGet (bump s off n) off = (pairGet s off + n) % 2 ^ 64 :=
  getD_set_same _ off _ 0

theorem event_eventSet (s : State) (off bit : Nat) : EventSet s (event s off bit) off bit :=
  getD_set_same _ off _ (0, 0)

theorem sqGet_event_other (s : State) {off o : Nat} (bit : Nat) (h : o ≠ off) :
    sqGet (event s off bit) o = sqGet s o :=
  getD_set_other _ _ (0, 0) h

/-! ### An open window takes an access at once -/

theorem windowOpen_event {s : State} (hw : WindowOpen s) (off bit : Nat) : WindowOpen (event s off bit) := hw

theorem WindowOpen.phase_ne_one {s : State} (hw : WindowOpen s) : s.boot.phase ≠ 1 := by
  obtain ⟨-, hphase, -, -⟩ := hw
  omega

theorem hostAccess_of_open {s : State} (hw : WindowOpen s) (a : HostAccess) : hostAccess s a = takeAccess s a := by
  obtain ⟨hon, hphase, hslow, hparked⟩ := hw
  have hanswer : regsAnswer s = true := by simp [regsAnswer, hon]; omega
  have hfree (d : Bool) : waitsForSlow s d = false := by simp [waitsForSlow, hslow, hparked]
  simp [hostAccess, hanswer, hfree]

section OpenWindow

variable {s : State} (hw : WindowOpen s)
include hw

theorem finish_read_of_open (off len tag : Nat) :
    finish (hostAccess s (0, off, len, tag)) = .next (settle (doRead s off len tag)) := by
  rw [hostAccess_of_open hw]
  rfl

theorem finish_write_of_open (off len data : Nat) :
    finish (hostAccess s (1, off, len, data)) = .next (settle (doWrite s off len data)) := by
  rw [hostAccess_of_open hw]
  rfl

theorem exec_regRead_of_open (off len tag : Nat) :
    exec (.regRead off len tag) s = .next (settle (doRead s off len tag)) :=
  finish_read_of_open hw off len tag

theorem exec_regWrite_of_open (off len data : Nat) :
    exec (.regWrite off len data) s = .next (settle (doWrite s off len data)) :=
  finish_write_of_open hw off len data

theorem exec_setAliasWrite_of_open (off data : Nat) :
    exec (.setAliasWrite off data) s = .next (settle (doWrite s (1 * 0x400000 + off % 0x400000) 4 data)) :=
  finish_write_of_open hw _ 4 data

theorem exec_clearAliasWrite_of_open (off data : Nat) :
    exec (.clearAliasWrite off data) s = .next (settle (doWrite s (2 * 0x400000 + off % 0x400000) 4 data)) :=
  finish_write_of_open hw _ 4 data

theorem exec_toggleAliasWrite_of_open (off data : Nat) :
    exec (.toggleAliasWrite off data) s = .next (settle (doWrite s (3 * 0x400000 + off % 0x400000) 4 data)) :=
  finish_write_of_open hw _ 4 data

theorem exec_sqWrite_of_open {off : Nat} (hoff : off ∈ sqOffsets) (data : Nat) :
    exec (.sqWrite off data) s = .next (settle (doWrite s off 4 data)) :=
  (if_pos (List.contains_iff_mem.2 hoff)).trans (finish_write_of_open hw off 4 data)

theorem exec_pairLoRead_of_open {p : Nat} (hp : p ∈ pairOffsets) (tag : Nat) :
    exec (.pairLoRead p tag) s = .next (settle (doRead s p 4 tag)) :=
  (if_pos (List.contains_iff_mem.2 hp)).trans (finish_read_of_open hw p 4 tag)

theorem exec_pairLoWrite_of_open {p : Nat} (hp : p ∈ pairOffsets) (data : Nat) :
    exec (.pairLoWrite p data) s = .next (settle (doWrite s p 4 data)) :=
  (if_pos (List.contains_iff_mem.2 hp)).trans (finish_write_of_open hw p 4 data)

theorem exec_pairHiWrite_of_open {p : Nat} (hp : p ∈ pairOffsets) (data : Nat) :
    exec (.pairHiWrite p data) s = .next (settle (doWrite s (p + 4) 4 data)) :=
  (if_pos (List.contains_iff_mem.2 hp)).trans (finish_write_of_open hw (p + 4) 4 data)

/-! ### What an access on implemented registers does -/

theorem isImplemented_of_word {off : Nat} (hmod : off % 4 = 0) (h : isWord off = true ∨ (pairOf? off).isSome = true) :
    isImplemented s off = true := by
  simp [isImplemented, hmod, h, hw.phase_ne_one]

/-- An aligned access on implemented registers, at the register (`k = 0`) or through one of its aliases, is no bus error. -/
theorem accessOk_of_open {k off len : Nat} (hk : k < 4) (hoff : off < 0x400000) (hlen : len = 4 ∨ len = 8)
    (hmod : off % len = 0) (hlo : isImplemented s off = true) (hhi : len = 8 → isImplemented s (off + 4) = true) :
    accessOk s (k * 0x400000 + off) len = true := by
  have hreg : (k * 0x400000 + off) % 0x400000 = off := by omega
  have hbound : k * 0x400000 + off < 0x1000000 := by omega
  rcases hlen with rfl | rfl
  · have halign : (k * 0x400000 + off) % 4 = 0 := by omega
    simp [accessOk, hreg, hbound, halign, hlo, hw.phase_ne_one]
  · have halign : (k * 0x400000 + off) % 8 = 0 := by omega
    simp [accessOk, hreg, hbound, halign, hlo, hhi, hw.phase_ne_one]

end OpenWindow

theorem doRead_of_ok {s : State} {off len : Nat} (hoff : off < 0x400000) (hslow : off ≠ rwSlowData)
    (hok : accessOk s off len = true) (tag : Nat) :
    doRead s off len tag = kidSend (readBytes s off len).1 (regData tag 0 (readBytes s off len).2) := by
  simp only [doRead, hok, Nat.mod_eq_of_lt hoff, hslow, Bool.not_true, Bool.false_eq_true, if_false]
  rfl

/-- A 4-byte write that is no bus error stores its word, at the register (`k = 0`) or through one of its aliases. -/
theorem doWrite_four_of_ok {s : State} {k off v : Nat} (hk : k < 4) (hoff : off < 0x400000) (hslow : off ≠ rwSlowData)
    (hok : accessOk s (k * 0x400000 + off) 4 = true) (hval : writeRefused s k off (v % 2 ^ 32) = false) :
    doWrite s (k * 0x400000 + off) 4 v = putWord s k off (v % 2 ^ 32) := by
  have hreg : (k * 0x400000 + off) % 0x400000 = off := by omega
  have hkind : (k * 0x400000 + off) / 0x400000 = k := by omega
  have hkid : ¬(0x10000000 ≤ k * 0x400000 + off ∧ k * 0x400000 + off < 0x20000000) := by omega
  simp only [doWrite, hreg, hkind, if_neg hkid, hok, hval]
  simp [hslow]

/-! ### 64-bit pairs -/

/-- Every pair is aligned to 8 bytes and lies above the slow registers (R407). -/
theorem pair_place {p : Nat} (hp : p ∈ pairOffsets) : p % 8 = 0 ∧ rwSlowData < p ∧ p + 4 < 0x400000 := by
  have hall : ∀ q ∈ pairOffsets, q % 8 = 0 ∧ rwSlowData < q ∧ q + 4 < 0x400000 := by decide
  exact hall p hp

theorem pairOf?_lo {p : Nat} (hp : p ∈ pairOffsets) : pairOf? p = some p :=
  if_pos (List.contains_iff_mem.2 hp)

/-- No pair starts in the middle of another, so the word after _LO is that pair's _HI. -/
theorem pairOf?_hi {p : Nat} (hp : p ∈ pairOffsets) : pairOf? (p + 4) = some p := by
  have hmid : p + 4 ∉ pairOffsets := fun hq => by
    have hlo := (pair_place hp).1
    have hhi := (pair_place hq).1
    omega
  simp [pairOf?, hp, hmid]

section Pairs

variable {s : State} {p : Nat} (hw : WindowOpen s) (hp : p ∈ pairOffsets)
include hw hp

theorem accessOk_pairLo {len : Nat} (hlen : len = 4 ∨ len = 8) : accessOk s p len = true := by
  obtain ⟨hmod, hlow, hhigh⟩ := pair_place hp
  have halign : p % len = 0 := by rcases hlen with rfl | rfl <;> omega
  have hok := accessOk_of_open hw (k := 0) (by omega) (by omega) hlen halign
    (isImplemented_of_word hw (by omega) (.inr (by rw [pairOf?_lo hp]; rfl)))
    (fun _ => isImplemented_of_word hw (by omega) (.inr (by rw [pairOf?_hi hp]; rfl)))
  simpa using hok

theorem accessOk_pairHi : accessOk s (p + 4) 4 = true := by
  obtain ⟨hmod, hlow, hhigh⟩ := pair_place hp
  have hok := accessOk_of_open hw (k := 0) (by omega) hhigh (.inl rfl) (by omega)
    (isImplemented_of_word hw (by omega) (.inr (by rw [pairOf?_hi hp]; rfl))) nofun
  simpa using hok

theorem doRead_pairLo (tag : Nat) :
    doRead s p 4 tag = kidSend (readPairLo s p).1 (regData tag 0 (pairValue s p % 2 ^ 32)) := by
  obtain ⟨hmod, hlow, hhigh⟩ := pair_place hp
  have hread : readBytes s p 4 = readPairLo s p := by simp [readBytes, readWord, pairOf?_lo hp]
  rw [doRead_of_ok (by omega) (by omega) (accessOk_pairLo hw hp (.inl rfl)), hread]
  rfl

theorem doRead_pairHi (tag : Nat) :
    doRead s (p + 4) 4 tag = kidSend s (regData tag 0 (NMap.getD s.regs.readShadow p 0)) := by
  obtain ⟨hmod, hlow, hhigh⟩ := pair_place hp
  have hread : readBytes s (p + 4) 4 = (s, NMap.getD s.regs.readShadow p 0) := by
    simp [readBytes, readWord, pairOf?_hi hp]
  rw [doRead_of_ok hhigh (by omega) (accessOk_pairHi hw hp), hread]

theorem doRead_pair (tag : Nat) :
    doRead s p 8 tag = kidSend (readPairLo s p).1 (regData tag 0 (pairValue s p)) := by
  obtain ⟨hmod, hlow, hhigh⟩ := pair_place hp
  have hread : readBytes s p 8 = ((readPairLo s p).1, pairValue s p) := by simp [readBytes, hp]
  rw [doRead_of_ok (by omega) (by omega) (accessOk_pairLo hw hp (.inr rfl)), hread]

theorem doWrite_pairLo (v : Nat) : doWrite s p 4 v = writePairHalf s p false (v % 2 ^ 32) := by
  obtain ⟨hmod, hlow, hhigh⟩ := pair_place hp
  have hwrite := doWrite_four_of_ok (s := s) (k := 0) (v := v) (by omega) (by omega : p < 0x400000) (by omega)
    (by simpa using accessOk_pairLo hw hp (.inl rfl)) (by simp [writeRefused, pairOf?_lo hp])
  simpa [putWord, pairOf?_lo hp] using hwrite

theorem doWrite_pairHi (v : Nat) : doWrite s (p + 4) 4 v = writePairHalf s p true (v % 2 ^ 32) := by
  obtain ⟨hmod, hlow, hhigh⟩ := pair_place hp
  have hwrite := doWrite_four_of_ok (s := s) (k := 0) (v := v) (by omega) hhigh (by omega)
    (by simpa using accessOk_pairHi hw hp) (by simp [writeRefused, pairOf?_hi hp])
  have hhi : (p != p + 4) = true := by rw [bne_iff_ne]; omega
  simpa [putWord, pairOf?_hi hp, hhi] using hwrite

theorem doWrite_pair (v : Nat) : doWrite s p 8 v = writePair s p (v % 2 ^ 64) := by
  obtain ⟨hmod, hlow, hhigh⟩ := pair_place hp
  have hkid : ¬(0x10000000 ≤ p ∧ p < 0x20000000) := by omega
  have hreg : p % 0x400000 = p := Nat.mod_eq_of_lt (by omega)
  have hkind : p / 0x400000 = 0 := Nat.div_eq_of_lt (by omega)
  have hhalves : v % 2 ^ 32 + 2 ^ 32 * (v / 2 ^ 32 % 2 ^ 32) = v % 2 ^ 64 := by omega
  simp only [doWrite, if_neg hkid, hreg, hkind, accessOk_pairLo hw hp (.inr rfl), hhalves]
  simp [hp]

end Pairs

theorem mem_pairOffsets_of_rw {p : Nat} (h : p = prAdminAddr ∨ p = prSwitchAt) : p ∈ pairOffsets := by
  rcases h with rfl | rfl <;> decide

theorem isRwPair_iff {p : Nat} : isRwPair p = true ↔ p = prAdminAddr ∨ p = prSwitchAt := by
  simp [isRwPair]

theorem writePairHalf_lo {p : Nat} (h : p = prAdminAddr ∨ p = prSwitchAt) (s : State) (v : Nat) :
    writePairHalf s p false v =
      { s with regs := { s.regs with writeShadow := NMap.set s.regs.writeShadow p v } } := by
  simp [writePairHalf, isRwPair_iff.2 h]

/-- The write of _HI stores the whole pair, its low half from the write shadow. -/
theorem writePairHalf_hi (s : State) (p v : Nat) :
    writePairHalf s p true v = writePair s p (NMap.getD s.regs.writeShadow p 0 + 2 ^ 32 * v) := rfl

theorem writePairHalf_ro {p : Nat} (h : ¬(p = prAdminAddr ∨ p = prSwitchAt)) (s : State) (hi : Bool) (v : Nat) :
    writePairHalf s p hi v = s := by
  simp [writePairHalf, mt isRwPair_iff.1 h]

theorem writePair_ro {p : Nat} (h : ¬(p = prAdminAddr ∨ p = prSwitchAt)) (s : State) (v : Nat) :
    writePair s p v = s := by
  simp [writePair, mt isRwPair_iff.1 h]

/-- A pair that takes a value moves no other pair, no RW word and no byte of the Deck. -/
theorem writePair_stores {p : Nat} (h : p = prAdminAddr ∨ p = prSwitchAt) (s : State) (v : Nat) :
    pairGet (writePair s p v) p = v ∧ (∀ q, q ≠ p → pairGet (writePair s p v) q = pairGet s q) ∧
      (writePair s p v).regs.words = s.regs.words ∧ (writePair s p v).deck = s.deck := by
  have hstore : writePair s p v = { s with regs := { s.regs with
      pairs := NMap.set s.regs.pairs p v, copies := NMap.set s.regs.copies p v } } := by
    simp [writePair, isRwPair_iff.2 h]
  rw [hstore]
  exact ⟨getD_set_same _ p v 0, fun q hq => getD_set_other _ v 0 hq, rfl, rfl⟩

/-- Settles O29: each access to a pair comes down to `readPairLo`, the latch, `writePairHalf` or `writePair`. -/
theorem pairsAreReadAndWrittenWhole : Obligations.PairsAreReadAndWrittenWhole := by
  unfold Obligations.PairsAreReadAndWrittenWhole
  refine ⟨fun s p tag hw hp => ?_, fun s p tag hw hp => ?_, fun s p tag hw hp => ?_, fun s p data hw hrw => ?_,
    fun s p data hw hrw => ?_, fun s p data hw hrw hdata => ?_, fun s p data hw hp hadmin hswitch => ?_,
    pairGet_bump_same, fun off => ⟨rfl, rfl⟩⟩
  · exact ⟨_, exec_pairLoRead_of_open hw hp tag, by rw [doRead_pairLo hw hp]; exact ⟨rfl, rfl, rfl⟩⟩
  · rw [exec_regRead_of_open hw, doRead_pairHi hw hp]
  · exact ⟨_, exec_regRead_of_open hw p 8 tag, by rw [doRead_pair hw hp]; exact ⟨rfl, rfl, rfl⟩⟩
  · have hp := mem_pairOffsets_of_rw hrw
    exact ⟨_, exec_pairLoWrite_of_open hw hp data, by
      rw [doWrite_pairLo hw hp, writePairHalf_lo hrw]
      exact ⟨rfl, rfl⟩⟩
  · have hp := mem_pairOffsets_of_rw hrw
    exact ⟨_, exec_pairHiWrite_of_open hw hp data, by
      rw [doWrite_pairHi hw hp, writePairHalf_hi]
      exact writePair_stores hrw s _⟩
  · exact ⟨_, exec_regWrite_of_open hw p 8 data, by
      rw [doWrite_pair hw (mem_pairOffsets_of_rw hrw), Nat.mod_eq_of_lt hdata]
      exact writePair_stores hrw s data⟩
  · have hro : ¬(p = prAdminAddr ∨ p = prSwitchAt) := not_or.2 ⟨hadmin, hswitch⟩
    refine ⟨?_, ?_, ?_⟩
    · rw [exec_pairLoWrite_of_open hw hp, doWrite_pairLo hw hp, writePairHalf_ro hro]
    · rw [exec_pairHiWrite_of_open hw hp, doWrite_pairHi hw hp, writePairHalf_ro hro]
    · rw [exec_regWrite_of_open hw, doWrite_pair hw hp, writePair_ro hro]

/-! ### SQ registers and W1P fields: implemented words without RW fields -/

/-- An implemented 32-bit register that holds no RW field and is no part of a pair, other than SLOW_DATA. -/
structure HasNoRwField (off : Nat) : Prop where
  place : off < 0x400000
  aligned : off % 4 = 0
  word : isWord off = true
  noPair : pairOf? off = none
  noRow : rwRow off = none
  notSlow : off ≠ rwSlowData

theorem sq_hasNoRwField {off : Nat} (h : off ∈ sqOffsets) : HasNoRwField off := by
  have hall : ∀ o ∈ sqOffsets, o < 0x400000 ∧ o % 4 = 0 ∧ isWord o = true ∧ pairOf? o = none ∧ rwRow o = none ∧
      o ≠ rwSlowData := by decide
  obtain ⟨hplace, haligned, hword, hpair, hrow, hslow⟩ := hall off h
  exact ⟨hplace, haligned, hword, hpair, hrow, hslow⟩

theorem w1p_hasNoRwField {off : Nat} (h : off = wpAdminGo ∨ off = wpSwitchGo) : HasNoRwField off := by
  rcases h with rfl | rfl <;> constructor <;> decide

theorem doWrite_hasNoRwField {s : State} {k off : Nat} (hw : WindowOpen s) (h : HasNoRwField off) (hk : k < 4)
    (v : Nat) : doWrite s (k * 0x400000 + off) 4 v = putWord s k off (v % 2 ^ 32) := by
  refine doWrite_four_of_ok hk h.place h.notSlow ?_ (by simp [writeRefused, h.noPair, h.noRow])
  exact accessOk_of_open hw hk h.place (.inl rfl) h.aligned (isImplemented_of_word hw h.aligned (.inl h.word)) nofun

theorem doWrite_straight {s : State} {off : Nat} (hw : WindowOpen s) (h : HasNoRwField off) (v : Nat) :
    doWrite s off 4 v = writeWord s off (v % 2 ^ 32) := by
  simpa [putWord, h.noPair] using doWrite_hasNoRwField hw h (k := 0) (by omega) v

/-- Writes through the aliases reach RW fields alone (R411). -/
theorem doWrite_alias {s : State} {k off : Nat} (hw : WindowOpen s) (h : HasNoRwField off) (hk : k < 4) (hk0 : k ≠ 0)
    (v : Nat) : doWrite s (k * 0x400000 + off) 4 v = s := by
  rw [doWrite_hasNoRwField hw h hk, putWord, h.noPair]
  simp [hk0, h.noRow]

theorem exec_aliases_of_hasNoRwField {s : State} {off : Nat} (hw : WindowOpen s) (h : HasNoRwField off) (data : Nat) :
    exec (.setAliasWrite off data) s = .next (settle s) ∧ exec (.clearAliasWrite off data) s = .next (settle s) ∧
      exec (.toggleAliasWrite off data) s = .next (settle s) := by
  rw [exec_setAliasWrite_of_open hw, exec_clearAliasWrite_of_open hw, exec_toggleAliasWrite_of_open hw,
    Nat.mod_eq_of_lt h.place, doWrite_alias hw h (by omega) (by omega), doWrite_alias hw h (by omega) (by omega),
    doWrite_alias hw h (by omega) (by omega)]
  exact ⟨rfl, rfl, rfl⟩

/-! ### SQ registers -/

theorem bitsAt_upper_half {w : Nat} (h : w < 2 ^ 32) : bitsAt w 16 16 = w / 65536 := by
  rw [bitsAt, Nat.shiftRight_eq_div_pow]
  exact Nat.mod_eq_of_lt (by omega)

theorem exec_sqWrite_eq_sqClear {s : State} {off data : Nat} (hw : WindowOpen s) (hoff : off ∈ sqOffsets)
    (hdata : data < 2 ^ 32) : exec (.sqWrite off data) s = .next (settle (sqClear s off data)) := by
  rw [exec_sqWrite_of_open hw hoff, doWrite_straight hw (sq_hasNoRwField hoff), Nat.mod_eq_of_lt hdata, writeWord,
    if_pos (List.contains_iff_mem.2 hoff)]

theorem sqClear_of_eq_seq {s : State} {off data : Nat} (hdata : data < 2 ^ 32) (h : data / 65536 = (sqGet s off).2) :
    sqClear s off data =
      { s with regs := { s.regs with sq := NMap.set s.regs.sq off (0, (sqGet s off).2) } } :=
  if_pos ((bitsAt_upper_half hdata).trans h)

theorem sqClear_of_ne_seq {s : State} {off data : Nat} (hdata : data < 2 ^ 32) (h : data / 65536 ≠ (sqGet s off).2) :
    sqClear s off data = s :=
  if_neg (by rwa [bitsAt_upper_half hdata])

/-- Settles O31: the event moves seq on, so a write that named the old seq no longer equals it. -/
theorem seqClearRegisters : Obligations.SeqClearRegisters := by
  unfold Obligations.SeqClearRegisters
  refine ⟨fun s off bit => ⟨event_eventSet s off bit, fun o ho => sqGet_event_other s bit ho⟩,
    fun s off data hw hoff hdata hseq => ?_, fun s off data hw hoff hdata hseq => ?_,
    fun s off bit data hw hoff hdata hseq => ?_, fun off _ => rfl⟩
  · exact ⟨_, exec_sqWrite_eq_sqClear hw hoff hdata, by
      rw [sqClear_of_eq_seq hdata hseq]
      exact ⟨getD_set_same _ off _ _, fun o ho => getD_set_other _ _ _ ho, rfl, rfl⟩⟩
  · rw [exec_sqWrite_eq_sqClear hw hoff hdata, sqClear_of_ne_seq hdata hseq]
  · have hnext : (sqGet (event s off bit) off).2 = ((sqGet s off).2 + 1) % 65536 :=
      congrArg Prod.snd (event_eventSet s off bit)
    have hmoved : data / 65536 ≠ (sqGet (event s off bit) off).2 := by omega
    rw [exec_sqWrite_eq_sqClear (windowOpen_event hw off bit) hoff hdata, sqClear_of_ne_seq hdata hmoved]

/-! ### W1P fields -/

theorem exec_adminGo {s : State} {data : Nat} (hw : WindowOpen s) (hdata : data < 2 ^ 32) :
    exec (.regWrite wpAdminGo 4 data) s = .next (settle (adminGo s data)) := by
  rw [exec_regWrite_of_open hw, doWrite_straight hw (w1p_hasNoRwField (.inl rfl)), Nat.mod_eq_of_lt hdata]
  rfl

theorem exec_switchGo {s : State} {data : Nat} (hw : WindowOpen s) (hdata : data < 2 ^ 32) :
    exec (.regWrite wpSwitchGo 4 data) s = .next (settle (switchGo s data)) := by
  rw [exec_regWrite_of_open hw, doWrite_straight hw (w1p_hasNoRwField (.inr rfl)), Nat.mod_eq_of_lt hdata]
  rfl

theorem wakeUp_awake {s : State} (hnap : s.power.nap = false) (hent : s.power.entering = none) : wakeUp s = s := by
  simp [wakeUp, hnap, hent]

theorem adminGo_starts {s : State} {data : Nat} (hone : data % 2 = 1) (hidle : s.regs.adminBusy = 0)
    (hop : rwGet s rwAdminOp % 8 ≠ 0) (hnap : s.power.nap = false) (hent : s.power.entering = none) :
    adminGo s data = { s with regs := { s.regs with
      adminBusy := rwGet s rwAdminOp % 8, adminCtx := rwGet s rwAdminOp / 65536, adminBytes := none
      adminAsked := 0, adminMem := [], adminImage := [], adminDue := false } } := by
  simp [adminGo, hone, hidle, hop, wakeUp_awake hnap hent]

theorem adminGo_busy {s : State} {data : Nat} (hone : data % 2 = 1) (hbusy : s.regs.adminBusy ≠ 0) :
    adminGo s data = event s evAdmin 1 := by
  simp [adminGo, hone, hbusy]

theorem switchGo_pending {s : State} {data : Nat} (hone : data % 2 = 1) (hpend : s.cfg.pending ≠ none) :
    switchGo s data = event s evCfg 1 := by
  simp [switchGo, hone, Option.isSome_iff_ne_none.2 hpend]

/-- Settles O32: a straight write reaches `adminGo` or `switchGo`, and the aliases reach no W1P field. -/
theorem w1pFieldsStartTheirAction : Obligations.W1pFieldsStartTheirAction := by
  unfold Obligations.W1pFieldsStartTheirAction
  refine ⟨fun s data hw hone hdata hidle hop hnap hent => ?_, fun s data hw hone hdata hbusy => ?_,
    fun s data hw hone hdata hpend => ?_, fun s off data hw hoff => ?_⟩
  · exact ⟨_, exec_adminGo hw hdata, by
      rw [adminGo_starts hone hidle hop hnap hent]
      exact ⟨rfl, rfl, rfl, rfl⟩⟩
  · rw [exec_adminGo hw hdata, adminGo_busy hone hbusy]
  · rw [exec_switchGo hw hdata, switchGo_pending hone hpend]
  · exact exec_aliases_of_hasNoRwField hw (w1p_hasNoRwField hoff) data

end Sys2Proof.Machine
end

section
/-!
PROOF. Trim: the evaluation of heat and power and the gate accumulator (20 R441, R442).
-/

namespace Sys2Proof.Machine

open Sys2Proof

/-! ### The hottest junction -/

theorem hottestOf_eq_none {ts : List Int} {k : Nat} (h : hottestOf k ts = none) : ts = [] := by
  cases ts with
  | nil => rfl
  | cons t ts =>
    unfold hottestOf at h
    split at h
    · cases h
    · split at h
      · cases h
      · cases h

theorem hottestOf_isSome {ts : List Int} (hts : ts ≠ []) (k : Nat) : ∃ hot src, hottestOf k ts = some (hot, src) := by
  cases hfound : hottestOf k ts with
  | none => exact absurd (hottestOf_eq_none hfound) hts
  | some p => exact ⟨p.1, p.2, rfl⟩

/-- What is found counts up from `k`, stands at its place in the list, and is an upper bound of it. -/
theorem hottestOf_spec {ts : List Int} {k src : Nat} {hot : Int} (h : hottestOf k ts = some (hot, src)) :
    (∃ i, src = k + i ∧ ts[i]? = some hot) ∧ ∀ x ∈ ts, x ≤ hot := by
  induction ts generalizing k src hot with
  | nil => cases h
  | cons t ts ih =>
    unfold hottestOf at h
    split at h
    next hrest =>
      cases h
      rw [hottestOf_eq_none hrest]
      exact ⟨⟨0, rfl, rfl⟩, List.forall_mem_singleton.2 (Int.le_refl _)⟩
    next u j hrest =>
      obtain ⟨⟨i, hj, hget⟩, hmax⟩ := ih hrest
      split at h
      next hle =>
        cases h
        exact ⟨⟨0, rfl, rfl⟩, List.forall_mem_cons.2 ⟨Int.le_refl _, fun x hx => Int.le_trans (hmax x hx) hle⟩⟩
      next hlt =>
        cases h
        exact ⟨⟨i + 1, by omega, by simpa using hget⟩, List.forall_mem_cons.2 ⟨by omega, hmax⟩⟩

/-! ### What the evaluation does -/

/-- gate_duty after an evaluation (the table of R442). -/
def trimDuty (s : State) (hot : Int) (power : Nat) : Nat :=
  if trimThreshold s ≤ hot || s.cfg.powerCap < power then min 224 (s.power.duty + 32)
  else if hot ≤ trimThreshold s - 12 && power * 100 ≤ s.cfg.powerCap * 95 then s.power.duty - 32
  else s.power.duty

/-- `s` with the events that an evaluation sets: the junction at the threshold, entry into Trim, exit from it (R442). -/
def trimEvents (s : State) (hot : Int) (duty : Nat) : State :=
  let s1 := if trimThreshold s ≤ hot then event s evPwr 4 else s
  if s.power.duty = 0 && duty != 0 then event s1 evPwr 0
  else if s.power.duty != 0 && duty = 0 then event s1 evPwr 1 else s1

/-- The power state with what an evaluation measured. -/
def trimMeasured (s : State) (hot : Int) (src power : Nat) : Power :=
  { s.power with hottest := hot, source := src, watts := power, lastEval := now s }

/-- `v` with the gate_duty that an evaluation of `s` found, and what follows from it (R441, R442, R457). -/
def setTrim (s v : State) (hot : Int) (duty : Nat) : State := { v with
  power := { v.power with duty := duty, trim := duty != 0, trimTemp := trimAlert s hot duty
                          gated := s.power.gated && duty != 0, acc := if s.power.duty = 0 then 0 else v.power.acc }
  pads := { v.pads with alertN := !(trimAlert s hot duty) } }

theorem trimDuty_eq (s : State) (hot : Int) (power : Nat) : trimDuty s hot power =
    if trimThreshold s ≤ hot ∨ s.cfg.powerCap < power then min 224 (s.power.duty + 32)
    else if hot ≤ trimThreshold s - 12 ∧ power * 100 ≤ s.cfg.powerCap * 95 then s.power.duty - 32
    else s.power.duty := by
  simp only [trimDuty, Bool.or_eq_true, Bool.and_eq_true, decide_eq_true_eq]

/-- The events move the registers alone, and look at no part of the power state but the duty. -/
theorem trimEvents_withPower (s : State) {p : Power} (hp : p.duty = s.power.duty) (hot : Int) (duty : Nat) :
    trimEvents { s with power := p } hot duty = { s with power := p, regs := (trimEvents s hot duty).regs } := by
  have hth : trimThreshold { s with power := p } = trimThreshold s := rfl
  simp only [trimEvents, hth, hp]
  repeat' split
  all_goals rfl

/-- An evaluation that is due, on a running device that is neither Off nor in Nap, touches the events, the power state and
the alert pin, and nothing else. -/
theorem execTrimEvaluation_due {s : State} {temps : List Int} {power src : Nat} {hot : Int}
    (hhot : hottestOf 0 temps = some (hot, src)) (hon : s.power.off = false) (hrun : s.clock.running = true)
    (hnap : s.power.nap = false) (hdue : s.power.lastEval + 65536 ≤ s.clock.ticks) :
    execTrimEvaluation temps power s = .next (setTrim s
      { s with power := trimMeasured s hot src power, regs := (trimEvents s hot (trimDuty s hot power)).regs }
      hot (trimDuty s hot power)) := by
  have hruns : (s.power.off || !s.clock.running || decide (now s < s.power.lastEval + 65536)) ≠ true := by
    simp [hon, hrun, now, Nat.not_lt.2 hdue]
  have hawake : s.power.nap ≠ true := by simp [hnap]
  have hevents := trimEvents_withPower s (p := trimMeasured s hot src power) rfl hot (trimDuty s hot power)
  unfold execTrimEvaluation
  rw [hhot]
  refine (if_neg hruns).trans ((if_neg hawake).trans ?_)
  exact congrArg (fun v => Host.Outcome.next (setTrim s v hot (trimDuty s hot power))) hevents

/-! ### The events of an evaluation -/

theorem bitAt_event_same (s : State) (off bit : Nat) : bitAt (sqGet (event s off bit) off).1 bit = true := by
  rw [event_eventSet s off bit]
  simp [bitAt]

theorem bitAt_event_of_bitAt {s : State} {off i : Nat} (bit : Nat) (h : bitAt (sqGet s off).1 i = true) :
    bitAt (sqGet (event s off bit) off).1 i = true := by
  have hold : (sqGet s off).1.testBit i = true := h
  rw [event_eventSet s off bit]
  simp [bitAt, hold]

theorem trimEvents_hot {s : State} {hot : Int} (h : trimThreshold s ≤ hot) (duty : Nat) :
    bitAt (sqGet (trimEvents s hot duty) evPwr).1 4 = true := by
  have hset : bitAt (sqGet (event s evPwr 4) evPwr).1 4 = true := bitAt_event_same s evPwr 4
  simp only [trimEvents, h, if_true]
  split
  · exact bitAt_event_of_bitAt 0 hset
  · split
    · exact bitAt_event_of_bitAt 1 hset
    · exact hset

theorem trimEvents_entry {s : State} {duty : Nat} (hout : s.power.duty = 0) (hin : 0 < duty) (hot : Int) :
    bitAt (sqGet (trimEvents s hot duty) evPwr).1 0 = true := by
  have hentry : (decide (s.power.duty = 0) && duty != 0) = true := by simp [hout, Nat.ne_of_gt hin]
  rw [trimEvents, if_pos hentry]
  exact bitAt_event_same _ evPwr 0

theorem trimEvents_exit {s : State} {duty : Nat} (hin : 0 < s.power.duty) (hout : duty = 0) (hot : Int) :
    bitAt (sqGet (trimEvents s hot duty) evPwr).1 1 = true := by
  have hentry : (decide (s.power.duty = 0) && duty != 0) ≠ true := by simp [hout]
  have hexit : (s.power.duty != 0 && decide (duty = 0)) = true := by simp [hout, Nat.ne_of_gt hin]
  rw [trimEvents, if_neg hentry, if_pos hexit]
  exact bitAt_event_same _ evPwr 1

/-! ### The gate accumulator -/

theorem execTrimGateTick_inTrim {s : State} (htrim : s.power.trim = true) (hon : s.power.off = false) :
    execTrimGateTick s = .next { s with power := { s.power with
      acc := if 256 ≤ s.power.acc + s.power.duty then s.power.acc + s.power.duty - 256 else s.power.acc + s.power.duty
      gated := decide (256 ≤ s.power.acc + s.power.duty) } } := by
  simp only [execTrimGateTick, htrim, hon, Bool.not_false, Bool.and_self, if_true, ok]
  split
  next h => simp [h]
  next h => simp [h]

/-- Settles O15: `hottestOf` finds an upper bound of the junctions at its place, and the rest is read off the state that
`execTrimEvaluation_due` gives. -/
theorem trimFollowsHeatAndPower : Obligations.TrimFollowsHeatAndPower := by
  unfold Obligations.TrimFollowsHeatAndPower
  refine ⟨fun s temps power htemps hon hrun hnap hdue => ?_, fun s htrim hon => execTrimGateTick_inTrim htrim hon⟩
  obtain ⟨hot, src, hhot⟩ := hottestOf_isSome htemps 0
  obtain ⟨⟨i, hsrc, hget⟩, hmax⟩ := hottestOf_spec hhot
  have hplace : temps[src]? = some hot := by simpa [hsrc] using hget
  have htrim : (trimDuty s hot power != 0) = true ↔ 0 < trimDuty s hot power := by
    simp [Nat.pos_iff_ne_zero]
  exact ⟨_, execTrimEvaluation_due hhot hon hrun hnap hdue, List.mem_of_getElem? hplace, hmax, hplace, rfl, rfl,
    trimDuty_eq s hot power, htrim, fun h => trimEvents_hot h _, fun hout hin => trimEvents_entry hout hin hot,
    fun hin hout => trimEvents_exit hin hout hot, rfl, rfl, rfl, rfl⟩

end Sys2Proof.Machine
end

section
/-!
PROOF. Cold reset: by the command, and by a pin held low (20 R424; 21 R454, R455).
-/

namespace Sys2Proof.Machine

open Sys2Proof

theorem execResetNLow_short {ns : Nat} (hns : ns < 10000) (pg : Bool) (s : State) :
    execResetNLow pg ns s = .next s := if_pos hns

theorem execResetNLow_long {ns : Nat} (hns : 10000 ≤ ns) (pg : Bool) (s : State) :
    execResetNLow pg ns s = .next { coldState s with
      pads := if pg then { (coldState s).pads with boardPg := false } else { (coldState s).pads with resetN := false } } :=
  if_neg (Nat.not_lt.2 hns)

theorem execResetNRelease_on {s : State} (hon : s.power.off = false) :
    execResetNRelease s = .next { s with pads := { s.pads with resetN := true, boardPg := true } } := by
  simp [execResetNRelease, hon, ok]

/-- Settles O19: the command answers `coldState`, and a pin held low for 10 µs answers the same but for that pin. -/
theorem coldResetReturnsToTheInitialState : Obligations.ColdResetReturnsToTheInitialState := by
  unfold Obligations.ColdResetReturnsToTheInitialState
  refine ⟨fun s => rfl, fun s pg ns hns => ?_, fun s pg ns hns => execResetNLow_short hns pg s,
    fun s hon => execResetNRelease_on hon⟩
  refine ⟨_, execResetNLow_long hns pg s, rfl, ?_⟩
  cases pg with
  | false => exact ⟨rfl, rfl⟩
  | true => exact ⟨rfl, rfl⟩

end Sys2Proof.Machine
end

section
/-!
PROOF. Fuses: what a blow changes and leaves, what every step keeps of them, and the owner they hold (20 R429, R433).
-/

namespace Sys2Proof.Machine

open Sys2Proof

/-! ### Every command keeps what `Keeps` names -/

/-- A command that starts no cold reset keeps all that `Runs` names: what is blown, what waits and what is lost. -/
theorem exec_runs_of_not_mayReset {c : Instr} (s : State) (h : mayReset c = false) : RunsOut false s (exec c s) := by
  by_cases hm : mayMove c = false
  · exact exec_runs_of_not_mayMove false s hm
  · have hs := runs_refl false s
    cases c with
    | keystoneTick => exact execKeystoneTick_runs hs
    | correctionTick => exact execCorrectionTick_runs hs
    | timingFrameSend port frac => exact execTimingFrameSend_runs hs port frac
    | timingRecord port record frac replayed => exact execTimingRecord_runs hs port record frac replayed
    | lockLost => exact execLockLost_runs hs
    | parentTimeout => exact execParentTimeout_runs hs
    | rootTimeout => exact execRootTimeout_runs hs
    | slotTableSwitch => exact execSlotTableSwitch_runs hs
    | lightMessage src => exact execLightMessage_runs hs src
    | relaySend pier off len => exact execRelaySend_runs hs pier off len
    | parapetUpdate item => exact execParapetUpdate_runs hs item
    | parapetApply item => exact execParapetApply_runs hs item
    | parapetSetCreate ctx ring => exact execParapetSetCreate_runs hs ctx ring
    | parapetSetDestroy ctx ring => exact execParapetSetDestroy_runs hs ctx ring
    | destroy => exact execDestroy_runs hs
    | napAckTimeout => exact execNapAckTimeout_runs hs
    | parapetBankParity parapet bank => exact execParapetBankParity_runs hs parapet bank
    | overlaySwitch => exact execOverlaySwitch_runs hs
    | napEntryStep => exact execNapEntryStep_runs hs
    | napWake => exact execNapWake_runs hs
    | trimEvaluation temps power => exact execTrimEvaluation_runs hs temps power
    | forcedOff cause => exact execForcedOff_runs hs cause
    | rootPllLock => exact execRootPllLock_runs hs
    | loadConfig => exact execLoadConfig_runs hs
    | ownerSet => exact execOwnerSet_runs hs
    | brownOut aux mv ns => exact execBrownOut_runs hs aux mv ns
    | mgmtBlockRead command write => exact execMgmtBlockRead_runs hs command write
    | resetNRelease => exact execResetNRelease_runs hs
    | coldReset | resetNLow _ _ | flashWrite | bypass _ _ | idcode | samplePreload _ | extest | clamp | highz => cases h
    | _ => exact absurd rfl hm

theorem exec_keeps (c : Instr) (s : State) : KeepsOut s (exec c s) := by
  by_cases hr : mayReset c = false
  · exact keepsOut_of_runsOut (exec_runs_of_not_mayReset s hr)
  · have hs := keeps_refl s
    cases c with
    | coldReset => exact execColdReset_keeps hs
    | resetNLow pg ns => exact execResetNLow_keeps hs pg ns
    | flashWrite =>
      rw [exec_flashWrite]
      exact execFlashWrite_keeps (runs_refl false s)
    | bypass code tdi => exact execBypass_keeps hs code tdi
    | idcode => exact execIdcode_keeps hs
    | samplePreload cells => exact execSamplePreload_keeps hs cells
    | extest => exact execExtest_keeps hs
    | clamp => exact execClamp_keeps hs
    | highz => exact execHighz_keeps hs
    | _ => exact absurd rfl hr

/-- A fuse bit, once blown, stays 1 over every step (R429). -/
theorem step_keeps_fuse {s t : State} (ht : step s = .next t) {a i : Nat}
    (h : (fuseAt s a).toNat.testBit i = true) : (fuseAt t a).toNat.testBit i = true := by
  cases hp : s.pending with
  | nil =>
    rw [step_nil hp] at ht
    cases ht
    exact h
  | cons c rest =>
    rw [step_cons hp] at ht
    exact (exec_keeps c _ t ht).fuses a i h

/-! ### Blowing fuses -/

theorem blow_concat_fuses (s : State) (o : Nat) (bs : List Byte) (b : Byte) :
    (blow s o (bs ++ [b])).boot.fuses =
      NMap.set (blow s o bs).boot.fuses (o + bs.length) (fuseAt s (o + bs.length) ||| b) := by
  simp [blow, List.range_succ, List.zip_append]

theorem fuseAt_blow_concat_last (s : State) (o : Nat) (bs : List Byte) (b : Byte) :
    fuseAt (blow s o (bs ++ [b])) (o + bs.length) = fuseAt s (o + bs.length) ||| b := by
  rw [fuseAt, blow_concat_fuses, getD_set_same]

theorem fuseAt_blow_concat_other (s : State) {o a : Nat} (bs : List Byte) (b : Byte) (ha : a ≠ o + bs.length) :
    fuseAt (blow s o (bs ++ [b])) a = fuseAt (blow s o bs) a := by
  rw [fuseAt, blow_concat_fuses, getD_set_other _ _ _ ha, fuseAt]

theorem fuseAt_blow_outside (s : State) {o a : Nat} {bs : List Byte} (ha : a < o ∨ o + bs.length ≤ a) :
    fuseAt (blow s o bs) a = fuseAt s a := by
  obtain ⟨cs, rfl⟩ : ∃ cs, bs = List.reverse cs := ⟨bs.reverse, bs.reverse_reverse.symm⟩
  induction cs with
  | nil => rfl
  | cons b cs ih =>
    rw [List.length_reverse, List.length_cons] at ha
    rw [List.length_reverse] at ih
    rw [List.reverse_cons, fuseAt_blow_concat_other s _ b (by rw [List.length_reverse]; omega), ih (by omega)]

theorem fuseAt_blow_inside (s : State) (o : Nat) {bs : List Byte} {k : Nat} (hk : k < bs.length) :
    fuseAt (blow s o bs) (o + k) = fuseAt s (o + k) ||| bs.getD k 0#8 := by
  obtain ⟨cs, rfl⟩ : ∃ cs, bs = List.reverse cs := ⟨bs.reverse, bs.reverse_reverse.symm⟩
  induction cs with
  | nil => cases hk
  | cons b cs ih =>
    rw [List.length_reverse, List.length_cons] at hk
    rw [List.length_reverse] at ih
    rw [List.reverse_cons]
    by_cases hlast : k = cs.length
    · have hend : k = cs.reverse.length := by rw [List.length_reverse, hlast]
      rw [hend, fuseAt_blow_concat_last, List.getD_eq_getElem?_getD, List.getElem?_concat_length, Option.getD_some]
    · have hbefore : k < cs.reverse.length := by rw [List.length_reverse]; omega
      rw [fuseAt_blow_concat_other s _ b (by omega), ih (by omega), List.getD_eq_getElem?_getD,
        List.getD_eq_getElem?_getD, List.getElem?_append_left hbefore]

@[simp] theorem blow_deck (s : State) (o : Nat) (bs : List Byte) : (blow s o bs).deck = s.deck := rfl
@[simp] theorem blow_regs (s : State) (o : Nat) (bs : List Byte) : (blow s o bs).regs = s.regs := rfl

@[simp] theorem mbxArg_length (s : State) (o n : Nat) : (mbxArg s o n).length = n := by
  simp [mbxArg, memTake]

/-! ### OWNER_SET and LOAD_CONFIG -/

@[simp] theorem mbxEnd_cfg (s : State) (status detail : Nat) : (mbxEnd s status detail).cfg = s.cfg := rfl
@[simp] theorem mbxEnd_deck (s : State) (status detail : Nat) : (mbxEnd s status detail).deck = s.deck := rfl
@[simp] theorem mbxEnd_regs (s : State) (status detail : Nat) : (mbxEnd s status detail).regs = s.regs := rfl
@[simp] theorem mbxEnd_fuses (s : State) (status detail : Nat) :
    (mbxEnd s status detail).boot.fuses = s.boot.fuses := rfl
@[simp] theorem mbxEnd_busy (s : State) (status detail : Nat) : (mbxEnd s status detail).boot.busy = false := rfl
@[simp] theorem mbxEnd_respStatus (s : State) (status detail : Nat) :
    (mbxEnd s status detail).boot.respStatus = status := rfl
@[simp] theorem mbxEnd_detail (s : State) (status detail : Nat) : (mbxEnd s status detail).boot.detail = detail := rfl

theorem fuseAt_mbxEnd (s : State) (status detail a : Nat) : fuseAt (mbxEnd s status detail) a = fuseAt s a := rfl

theorem execLoadConfig_withoutOwner {s : State} (hruns : mbxRuns s 3 = true) (howner : ownerSet s = false) :
    execLoadConfig s = .next (mbxEnd s 0x14 9) := by
  simp [execLoadConfig, hruns, howner, ok]

theorem execOwnerSet_refuses {s : State} (hruns : mbxRuns s 5 = true) (hno : ownerSet s = true ∨ s.boot.phase ≠ 3) :
    execOwnerSet s = .next (mbxEnd s 0x14 0) := by
  simp [execOwnerSet, hruns, hno, ok]

/-- The owner's key hash blown from offset 0x180, then owner_set; the mailbox command ends with OK (R433). -/
def blowOwner (s : State) : State := mbxEnd (blow (blow s 0x180 (mbxArg s 0 64)) 1 [1#8]) 0 0

theorem execOwnerSet_blows {s : State} (hruns : mbxRuns s 5 = true) (howner : ownerSet s = false)
    (hphase : s.boot.phase = 3) : execOwnerSet s = .next (blowOwner s) := by
  simp [execOwnerSet, hruns, howner, hphase, blowOwner, ok]

theorem ownerSet_blowOwner (s : State) : ownerSet (blowOwner s) = true := by
  have hbyte : fuseAt (blow (blow s 0x180 (mbxArg s 0 64)) 1 [1#8]) (1 + 0) =
      fuseAt (blow s 0x180 (mbxArg s 0 64)) (1 + 0) ||| 1#8 := fuseAt_blow_inside _ 1 (by simp)
  rw [ownerSet, blowOwner, fuseAt_mbxEnd, hbyte]
  simp [bitAt]

theorem fuseAt_blowOwner_key (s : State) {k : Nat} (hk : k < 64) :
    fuseAt (blowOwner s) (0x180 + k) = fuseAt s (0x180 + k) ||| (mbxArg s 0 64).getD k 0#8 := by
  rw [blowOwner, fuseAt_mbxEnd, fuseAt_blow_outside _ (by simp; omega), fuseAt_blow_inside s 0x180 (by simpa using hk)]

theorem fuseAt_blowOwner_other (s : State) {a : Nat} (hone : a ≠ 1) (hkey : a < 0x180 ∨ 0x1C0 ≤ a) :
    fuseAt (blowOwner s) a = fuseAt s a := by
  rw [blowOwner, fuseAt_mbxEnd, fuseAt_blow_outside _ (by simp; omega), fuseAt_blow_outside s (by simp; omega)]

/-- Settles O23: OWNER_SET blows its key and then owner_set, and no step clears a blown bit. -/
theorem ownerIsSetOnce : Obligations.OwnerIsSetOnce := by
  unfold Obligations.OwnerIsSetOnce
  refine ⟨fun s hruns howner hphase => ?_, fun s hruns hno => ?_, fun s t howner ht => step_keeps_fuse ht howner,
    fun s hruns howner => ?_⟩
  · exact ⟨_, execOwnerSet_blows hruns howner hphase, ownerSet_blowOwner s, fun k hk => fuseAt_blowOwner_key s hk,
      fun a hone hkey => fuseAt_blowOwner_other s hone hkey, by simp [blowOwner]⟩
  · exact ⟨_, execOwnerSet_refuses hruns hno, by simp⟩
  · exact ⟨_, execLoadConfig_withoutOwner hruns howner, by simp⟩

end Sys2Proof.Machine
end

section
/-!
PROOF. THERM_ALERT_N: the evaluation drives it, a forced Off holds it low, and nothing that runs in Off but the loss of AUX33
or a cold reset moves it (21 R455 to R457).
-/

namespace Sys2Proof.Machine

open Sys2Proof

/-! ### The pin after an evaluation -/

theorem trimAlert_iff (s : State) (hot : Int) (duty : Nat) : trimAlert s hot duty = true ↔
    (trimThreshold s ≤ hot ∨ s.power.trimTemp = true ∧ trimThreshold s - 12 < hot) ∧ 0 < duty := by
  simp [trimAlert, Nat.pos_iff_ne_zero]

/-- A junction at the threshold raises the duty, so the device is in Trim (R442). -/
theorem trimDuty_pos_of_hot {s : State} {hot : Int} (h : trimThreshold s ≤ hot) (power : Nat) :
    0 < trimDuty s hot power := by
  rw [trimDuty_eq, if_pos (Or.inl h)]
  omega

theorem setTrim_alertN_low {s v : State} {hot : Int} {duty : Nat} (h : trimAlert s hot duty = true) :
    (setTrim s v hot duty).pads.alertN = false := by
  simp [setTrim, h]

theorem setTrim_alertN_high {s v : State} {hot : Int} {duty : Nat} (h : ¬trimAlert s hot duty = true) :
    (setTrim s v hot duty).pads.alertN = true := by
  simp [setTrim, h]

/-! ### The pads under the shared operations -/

theorem Runs.pads_eq {s t : State} (h : Runs true s t) : t.pads = s.pads := (h.still rfl).pads

@[simp] theorem settle_pads (s : State) : (settle s).pads = s.pads := (settle_runs (runs_refl true s)).pads_eq

@[simp] theorem event_pads (s : State) (off bit : Nat) : (event s off bit).pads = s.pads :=
  (event_runs (runs_refl true s) off bit).pads_eq

@[simp] theorem rwStore_pads (s : State) (off v : Nat) : (rwStore s off v).pads = s.pads :=
  (rwStore_runs (runs_refl true s) off v).pads_eq

@[simp] theorem rebookAll_pads (s : State) : (rebookAll s).pads = s.pads := rfl

@[simp] theorem takeRoot_pads (s : State) : (takeRoot s).pads = s.pads := by
  unfold takeRoot
  split <;> simp

theorem foldl_pads {β : Type} (f : State → β → State) (hf : ∀ v x, (f v x).pads = v.pads) (xs : List β)
    (s : State) : (xs.foldl f s).pads = s.pads :=
  List.foldlRecOn xs f (motive := fun v => v.pads = s.pads) rfl (fun v hv x _ => (hf v x).trans hv)

@[simp] theorem freeSet_pads (s : State) (c set : Nat) : (freeSet s c set).pads = s.pads := by
  unfold freeSet
  split
  · rfl
  · exact foldl_pads (fun v b => setBank v _ b []) (fun _ _ => rfl) _ s

@[simp] theorem completeDesc_pads (s : State) (c r i status detail : Nat) :
    (completeDesc s c r i status detail).pads = s.pads :=
  (completeDesc_runs (runs_refl true s) c r i status detail).pads_eq

/-- The links train again and the reservations are loaded; no pad is touched (R446). -/
@[simp] theorem backToRun_pads (s : State) : (backToRun s).pads = s.pads := by
  unfold backToRun
  dsimp only
  rw [foldl_pads]
  · exact (loadScratch_runs (runs_refl true _)).pads_eq
  · intro v p
    split
    · exact (enter_runs (runs_refl true v) _ _ _).pads_eq
    · exact (startTraining_runs (runs_refl true v) _).pads_eq

/-! ### Commands that do nothing on a device that is Off -/

section Off

variable {s : State} (hoff : s.power.off = true)
include hoff

theorem running_off : running s = false := by
  simp [running, hoff]

theorem mbxRuns_off (code : Nat) : mbxRuns s code = false := by
  simp [mbxRuns, hoff]

theorem commandHead_off (c r code : Nat) : commandHead s c r code = none := by
  simp only [commandHead, running_off hoff, Bool.false_eq_true, and_false, if_false]
  repeat' split
  all_goals rfl

theorem command_off (c r code : Nat) (named : List (Nat × Nat)) (need : List Byte → List Byte → Nat)
    (f : Ctx → List Byte → List Byte → State) : command s c r code named need f = s := by
  simp only [command, takeCommand, commandHead_off hoff]

theorem takeOp_off (id code : Nat) : takeOp s id code = .idle := by
  simp only [takeOp, opEnabled, running_off hoff, Bool.false_and, Bool.not_false, if_true]
  repeat' split
  all_goals rfl

theorem execParapetUpdate_off (item : Nat) : execParapetUpdate item s = .next s := by
  simp only [execParapetUpdate, takeOp_off hoff, ok]

theorem execParapetApply_off (item : Nat) : execParapetApply item s = .next s := by
  simp only [execParapetApply, hoff, Bool.or_true, if_true, ok]
  repeat' split
  all_goals rfl

theorem execParapetSetCreate_off (ctx ring : Nat) : execParapetSetCreate ctx ring s = .next (settle s) := by
  simp [execParapetSetCreate, headOp, commandHead_off hoff, command_off hoff, finish, ok]

theorem execDestroy_off : execDestroy s = .next s := by
  simp [execDestroy, adminRuns, hoff, ok]

theorem execOverlaySwitch_off : execOverlaySwitch s = .next s := by
  unfold execOverlaySwitch
  split <;> simp [hoff, ok]

theorem execNapEntryStep_off : execNapEntryStep s = .next s := if_pos hoff

theorem execTrimEvaluation_off (temps : List Int) (power : Nat) : execTrimEvaluation temps power s = .next s := by
  unfold execTrimEvaluation
  split <;> simp [hoff, ok]

theorem execLoadConfig_off : execLoadConfig s = .next s := by
  simp [execLoadConfig, mbxRuns_off hoff, ok]

theorem execOwnerSet_off : execOwnerSet s = .next s := by
  simp [execOwnerSet, mbxRuns_off hoff, ok]

theorem execResetNRelease_off : execResetNRelease s = .next s := if_pos hoff

/-- MAIN48 failing on a device that is Off changes nothing; only AUX33 holds the alert (R456). -/
theorem execBrownOut_main_off (mv ns : Nat) : execBrownOut false mv ns s = .next s := by
  simp [execBrownOut, hoff, ok]

end Off

/-! ### Nothing but the loss of AUX33 and a cold reset moves the alert of a device that is Off -/

/-- A next state of the outcome drives the alert as `s` does, and remembers a forced Off as `s` does. -/
def AlertKept (s : State) (o : Host.Outcome State Fault Refusal) : Prop :=
  ∀ t, o = .next t → t.pads.alertN = s.pads.alertN ∧ t.pads.forcedOff = s.pads.forcedOff

theorem alertKept_ok {s u : State} (h : u.pads = s.pads) : AlertKept s (ok u) := by
  rintro t ht
  cases ht
  exact ⟨congrArg Pads.alertN h, congrArg Pads.forcedOff h⟩

theorem alertKept_finish {s u : State} (h : u.pads = s.pads) : AlertKept s (finish u) :=
  alertKept_ok ((settle_pads u).trans h)

theorem alertKept_next {s : State} {o : Host.Outcome State Fault Refusal} (h : o = .next s) : AlertKept s o := by
  subst h
  exact alertKept_ok rfl

theorem alertKept_of_runsOut {s : State} {o : Host.Outcome State Fault Refusal} (h : RunsOut true s o) :
    AlertKept s o := by
  rintro t ht
  have hpads := (h t ht).pads_eq
  exact ⟨congrArg Pads.alertN hpads, congrArg Pads.forcedOff hpads⟩

theorem alertKept_ite {c : Prop} [Decidable c] {s : State} {o p : Host.Outcome State Fault Refusal}
    (ho : AlertKept s o) (hp : AlertKept s p) : AlertKept s (if c then o else p) := by
  split
  · exact ho
  · exact hp

theorem execCorrectionTick_alertKept (s : State) : AlertKept s (execCorrectionTick s) := by
  unfold execCorrectionTick
  split
  · exact alertKept_ok rfl
  · exact alertKept_ite (alertKept_ok rfl) (alertKept_ok rfl)

theorem execSlotTableSwitch_alertKept (s : State) : AlertKept s (execSlotTableSwitch s) := by
  unfold execSlotTableSwitch
  split
  · exact alertKept_ok rfl
  · exact alertKept_ite (alertKept_ok (rebookAll_pads _)) (alertKept_ok rfl)

theorem execParapetSetDestroy_alertKept_in_off {s : State} (hoff : s.power.off = true) (ctx ring : Nat) :
    AlertKept s (execParapetSetDestroy ctx ring s) := by
  unfold execParapetSetDestroy
  split
  · exact alertKept_finish ((completeDesc_pads _ _ _ _ _ _).trans (freeSet_pads s _ _))
  · exact alertKept_ite (alertKept_ok rfl) (alertKept_finish (congrArg State.pads (command_off hoff _ _ _ _ _ _)))

theorem execParapetBankParity_alertKept (s : State) (parapet bank : Nat) :
    AlertKept s (execParapetBankParity parapet bank s) :=
  alertKept_ite (fun _ h => nomatch h) (alertKept_ite (alertKept_ok rfl) (alertKept_ok (event_pads _ _ _)))

theorem execNapWake_alertKept (s : State) : AlertKept s (execNapWake s) := by
  unfold execNapWake
  split
  · exact alertKept_ok rfl
  · exact alertKept_ite (alertKept_finish (by simp)) (alertKept_finish (by simp))

theorem execNapAckTimeout_alertKept (s : State) : AlertKept s (execNapAckTimeout s) :=
  alertKept_ite (alertKept_ite (alertKept_ok rfl) (alertKept_finish (by simp))) (alertKept_ok rfl)

/-- The management port moves what it answers with, and not the alert (R458). -/
theorem execMgmtBlockRead_alertKept (s : State) (command : Nat) (write : Bool) :
    AlertKept s (execMgmtBlockRead command write s) := by
  rintro t ht
  unfold execMgmtBlockRead at ht
  split at ht
  · cases ht
    exact ⟨rfl, rfl⟩
  · cases ht
    exact ⟨rfl, rfl⟩

/-- The commands that could drive the pin do nothing in Off, and the others never touch it (R457). -/
theorem exec_alertKept_in_off {c : Instr} {s : State} (hc : mayReset c = false)
    (haux : ∀ mv ns, c ≠ .brownOut true mv ns) (hoff : s.power.off = true) : AlertKept s (exec c s) := by
  by_cases hm : mayMove c = false
  · exact alertKept_of_runsOut (exec_runs_of_not_mayMove true s hm)
  · cases c with
    | keystoneTick => exact alertKept_ite (alertKept_ok rfl) (alertKept_ok rfl)
    | correctionTick => exact execCorrectionTick_alertKept s
    | timingFrameSend port frac => exact alertKept_ite (alertKept_ok rfl) (alertKept_ok rfl)
    | timingRecord port record frac replayed => exact alertKept_next (execTimingRecord_off hoff _ _ _ _)
    | lockLost => exact alertKept_ite (alertKept_ok (event_pads s evSync 0)) (alertKept_ok rfl)
    | parentTimeout => exact alertKept_ite (alertKept_ok (event_pads s evSync 3)) (alertKept_ok rfl)
    | rootTimeout => exact alertKept_ite (alertKept_ok (takeRoot_pads s)) (alertKept_ok rfl)
    | slotTableSwitch => exact execSlotTableSwitch_alertKept s
    | lightMessage src => exact alertKept_of_runsOut (execLightMessage_runs (runs_refl true s) src)
    | relaySend pier off len => exact alertKept_of_runsOut (execRelaySend_runs (runs_refl true s) pier off len)
    | parapetUpdate item => exact alertKept_next (execParapetUpdate_off hoff item)
    | parapetApply item => exact alertKept_next (execParapetApply_off hoff item)
    | parapetSetCreate ctx ring =>
      rw [exec_parapetSetCreate, execParapetSetCreate_off hoff]
      exact alertKept_finish rfl
    | parapetSetDestroy ctx ring => exact execParapetSetDestroy_alertKept_in_off hoff ctx ring
    | destroy => exact alertKept_next (execDestroy_off hoff)
    | napAckTimeout => exact execNapAckTimeout_alertKept s
    | parapetBankParity parapet bank => exact execParapetBankParity_alertKept s parapet bank
    | overlaySwitch => exact alertKept_next (execOverlaySwitch_off hoff)
    | napEntryStep => exact alertKept_next (execNapEntryStep_off hoff)
    | napWake => exact execNapWake_alertKept s
    | trimEvaluation temps power => exact alertKept_next (execTrimEvaluation_off hoff temps power)
    | forcedOff cause => exact alertKept_next (execForcedOff_off hoff cause)
    | rootPllLock => exact alertKept_next (execRootPllLock_off hoff)
    | loadConfig => exact alertKept_next (execLoadConfig_off hoff)
    | ownerSet => exact alertKept_next (execOwnerSet_off hoff)
    | brownOut aux mv ns =>
      cases aux with
      | false => exact alertKept_next (execBrownOut_main_off hoff mv ns)
      | true => exact absurd rfl (haux mv ns)
    | mgmtBlockRead command write => exact execMgmtBlockRead_alertKept s command write
    | resetNRelease => exact alertKept_next (execResetNRelease_off hoff)
    | coldReset | resetNLow _ _ | flashWrite | bypass _ _ | idcode | samplePreload _ | extest | clamp | highz =>
      cases hc
    | _ => exact absurd rfl hm

/-- Settles O16: the pin follows `trimAlert` at an evaluation, `goOff` drives it low, and in Off no command touches it but the
loss of AUX33 and a cold reset. -/
theorem thermalAlert : Obligations.ThermalAlert := by
  unfold Obligations.ThermalAlert
  refine ⟨fun s temps power htemps hon hrun hnap hdue => ?_, fun s cause hon hf => ?_,
    fun c s t hc haux hoff hforced hlow ht => ?_, fun s => ⟨coldState s, rfl, rfl, rfl⟩⟩
  · obtain ⟨hot, src, hhot⟩ := hottestOf_isSome htemps 0
    refine ⟨_, execTrimEvaluation_due hhot hon hrun hnap hdue, fun hth => ?_, fun (hcool : hot ≤ trimThreshold s - 12) => ?_,
      fun hout (hbelow : hot < trimThreshold s) => ?_, fun hin habove hduty => ?_⟩
    · exact setTrim_alertN_low ((trimAlert_iff s hot _).2 ⟨.inl hth, trimDuty_pos_of_hot hth power⟩)
    · refine setTrim_alertN_high (fun halert => ?_)
      obtain ⟨hth | ⟨-, habove⟩, -⟩ := (trimAlert_iff s hot _).1 halert
      · omega
      · omega
    · refine setTrim_alertN_high (fun halert => ?_)
      obtain ⟨hth | ⟨hin, -⟩, -⟩ := (trimAlert_iff s hot _).1 halert
      · omega
      · simp [hout] at hin
    · exact setTrim_alertN_low ((trimAlert_iff s hot _).2 ⟨.inr ⟨hin, habove⟩, hduty⟩)
  · exact ⟨goOff s, execForcedOff_goOff hon hf, rfl, rfl⟩
  · obtain ⟨halert, hmark⟩ := exec_alertKept_in_off hc haux hoff t ht
    exact ⟨hmark.trans hforced, halert.trans hlow⟩

end Sys2Proof.Machine
end
